-- ==== Sys2Proof/Word.lean ====
section
/-!
DEFINITION. The plain words of the machine: bytes, registers, dies, and the shape of its sparse tables.
Everything here is a name for a type; the arithmetic lives in Machine/Ops.lean.
-/
namespace Sys2Proof

/-- An 8-bit byte (R12). -/
abbrev Byte := BitVec 8
/-- A 64-bit register or scalar (R67, R430). -/
abbrev Word := BitVec 64
/-- An operand descriptor register, 32 B (R75). -/
abbrev DescWord := BitVec 256

/-- The two compute dies (R19). -/
inductive Die where
  /-- Windward, die 0. -/
  | windward
  /-- Leeward, die 1. -/
  | leeward
deriving DecidableEq, Repr

/-- The two instruction streams of a core (R79). -/
inductive Stream where
  | access
  | execute
deriving DecidableEq, Repr

/-- A sparse table: keys strictly rising, and no entry equal to the table's default. -/
abbrev Map (α : Type) := List (Nat × α)

/-- One value for each die. -/
structure Pair (α : Type) where
  w : α
  l : α
deriving DecidableEq, Repr

/-- A strand context by its die, logical core (0-95) and context number (R41, R22). -/
structure Sid where
  die : Die
  core : Nat
  ctx : Nat
deriving DecidableEq, Repr

/-- The fields of instruction format S (R79). -/
structure SF where
  rd : BitVec 4
  rs1 : BitVec 4
  rs2 : BitVec 4
  imm : Word
deriving DecidableEq, Repr

/-- The fields of instruction format M (R79). -/
structure MF where
  opS : BitVec 6
  opM : BitVec 6
  opX : BitVec 6
  rs : BitVec 4
  rt : BitVec 4
  imm : Word
deriving DecidableEq, Repr

/-- The fields of instruction format T (R79). -/
structure TF where
  od : BitVec 6
  oa : BitVec 6
  ob : BitVec 6
  oc : BitVec 6
  fmtD : BitVec 4
  fmtA : BitVec 4
  fmtB : BitVec 4
  rnd : BitVec 2
  sat : Bool
  shape : BitVec 3
  sblk : BitVec 2
  sfmt : Bool
  imm : Word
deriving DecidableEq, Repr

/-- Who makes a register access (R431). -/
inductive Who where
  /-- A strand, which acts as its partition. -/
  | strand (part : Nat)
  /-- The serving control core: partition 0 and the registers reserved to it. -/
  | scc
  /-- The host through function 0 BAR2: partition 0, but not the SCC. -/
  | host
  /-- A remote package: the partition in its packet. -/
  | remote (module part : Nat)
  /-- Management: read only. -/
  | mgmt
deriving DecidableEq, Repr

/-- The link field of a packet, rewritten at every hop: its number on the link, and the last number its sender received in
order (R285, R296). -/
structure Link where
  seq : Nat
  ack : Nat
deriving DecidableEq, Repr

/-- A fabric packet (R285). Its len and trim follow from its payload. -/
structure Packet where
  ptype : Nat
  vc : Nat
  falling : Bool
  hopsLeft : Nat
  dst : Nat
  src : Nat
  part : Nat
  poison : Bool
  reqId : Nat
  srcDie : Die
  addr : Nat
  arg : Word
  payload : List Byte
  link : Link
deriving DecidableEq, Repr

/-- Payload units of 64 B, and the words of 4 B that the last of them does not use (R285). -/
def Packet.len (k : Packet) : Nat := (k.payload.length + 63) / 64
def Packet.trim (k : Packet) : Nat := (64 * k.len - k.payload.length) / 4

/-- Whose transfer a crossing between the dies or into a stopped domain belongs to (R24, R34). -/
inductive Requester where
  /-- An instruction of a strand in flight. -/
  | strand (sid : Sid) (id : Nat)
  /-- A read or a write of the host. -/
  | host (write : Bool)
  /-- A request of another package that arrived on a port. -/
  | remote (port : Nat) (pkt : Packet)
  /-- The descriptor whose turn it is: of a layout engine, for a partition; of a shadow engine; of a DMA channel. -/
  | layout (die : Die) (part : Nat)
  | shadow (die : Die)
  | dma (ch : Nat)
  /-- The results of a stack's command on their way to the Basin. -/
  | stack (n uid : Nat)
  /-- SCHED: the read of the descriptor a ring takes next; the image of a launch that waits for its resources; the done counter
  of a launch whose strands have ended. -/
  | schedRing (die : Die) (ring : Nat)
  | schedImage (die : Die) (ring index : Nat)
  | schedDone (die : Die) (ring index : Nat)
  /-- An access of the SCC, and one of management, with the MGMT packet that asked and its port where one did. -/
  | scc
  | mgmt (asker : Option (Nat × Packet))
  /-- A private operation of the test port. -/
  | jtag
  /-- An access that the crossing holds, found by its address. -/
  | crossing
deriving DecidableEq, Repr

/-- Where a stack command's write comes from: a strand's SCMD that has reached the window, or the SCC's own write of
these bytes into the port of a partition (R162). -/
inductive CmdSource where
  | window
  | sccWrite (part : Nat) (bytes : List Byte)
deriving DecidableEq, Repr

/-- Where a packet without a request of its own arrives: the port, and the link fields of its frame (R285, R301). -/
structure LinkIn where
  port : Nat
  link : Link
deriving DecidableEq, Repr

/-- A replay on a port: of the partner's packets, or of the port's own from a number that the partner names (R296). -/
structure ReplayAsk where
  port : Nat
  resend : Option Nat
deriving DecidableEq, Repr

/-- An entry as it stands in a submission queue: the function, its queue pair and the 128 B (R317, R318). -/
structure SqSlot where
  function : Nat
  pair : Nat
  bytes : List Byte
deriving DecidableEq, Repr

/-- A submission queue entry as its 128 B give it (R318, R319); fields a command does not use are ignored. -/
structure SqEntry where
  function : Nat
  pair : Nat
  shadow : Bool
  warm : Bool
  model : Nat
  lagSteps : Nat
  periodUs : Nat
  requestId : Word
  promptAddr : Nat
  promptLen : Nat
  maxNew : Nat
  outAddr : Nat
  progAddr : Nat
  temperature : BitVec 32
  topK : Nat
  seed : Word
  stop : List (BitVec 32)
  peerA : Nat
  peerB : Nat
  primary : Nat
  primaryId : Word
deriving DecidableEq, Repr

/-- What the Quiley of a primary tells the Quiley of a shadow peer (R337, R340): a request and its table slot to register, a
token with the committed length and what the peer holds of it, or the end of a registration. -/
inductive Mail where
  | register (e : SqEntry) (slot : Nat)
  | token (id : Word) (tok : BitVec 32) (committed held : Nat)
  | release (id : Word)
  /-- A package that the request needs is lost: it is to be resumed at the peer (R335, R339). -/
  | orphan (id : Word)
deriving DecidableEq, Repr

/-- A memory path of R238 and R239; `far` where it crosses the bridge. A remote path leaves by a port. -/
inductive MemPath where
  | stack (far : Bool)
  | near
  | package
  | reservoir (die : Die) (far : Bool)
  | pool (far : Bool)
  | remote (port : Nat)
deriving DecidableEq, Repr

/-- One task of a stage of a model package (R319, R331): a figure that the package publishes, in ns, with a part for each
lane, a part for each 64-position page of a lane and the contention that a Shared partition adds; core cycles over the
decode cores of a die; bytes over a memory path; the ATTENDs of heads of the package, by number; a layout descriptor, by
its accesses, converted elements and slices; or a launch. -/
inductive TaskBound where
  | published (baseNs perLaneNs perPageNs sharedNs : Nat)
  | core (die : Die) (cycles perLane : Nat)
  | path (p : MemPath) (bytes perLane perPage : Nat)
  | attend (heads : List Nat)
  /-- GEMV commands on a stack, accepted one after the other. -/
  | gemv (stack : Nat) (cmds : List (List Byte))
  | layout (die : Die) (accSrc accDst conv slices : Nat) (reservoir : Bool)
  | launch
deriving DecidableEq, Repr

/-- Where a package places one ATTEND of a lane, for one KV head of one layer (R192, R326): the stack, the command as the
package gives it (Quiley fills cmd_id, the Basin field, the vectors, the length and the offsets of map and summaries), the
stack offsets of the page map and of the summaries of the first table slot and how far those of the next one lie, the NBUs
the pages go round, the first slots of the pages and of the pages that have been moved with the slots that one request
takes, where the partition's tables map the stack's offset 0, where its cold pages and the image at a shadow peer lie. -/
structure HeadPlan where
  stack : Nat
  cmd : List Byte
  map : Nat
  mapStep : Nat
  sums : Nat
  sumStep : Nat
  nbu0 : Nat
  nbuN : Nat
  slot0 : Nat
  moved0 : Nat
  perReq : Nat
  stackVa : Nat
  coldVa : Nat
  coldStep : Nat
  image : Nat
  imageStep : Nat
deriving DecidableEq, Repr

/-- A kernel that a package runs on one die (R324, R326). -/
structure LaunchPlan where
  die : Die
  ring : Nat
  kernelVa : Nat
  imageLen : Nat
  perCore : Nat
  argVa : Nat
  wdUs : Nat
deriving DecidableEq, Repr

/-- What LOAD_MODEL reads from host memory (R319): whether version and CRC-32 hold, the weights with the local
addresses the package places them at, the stages with their published bounds, the storage one 64-position page of
a lane takes, the heads and the kernels of prefill and of a step, in order, and where Quiley keeps the committed lengths and
the shadow descriptors of the package's lanes, by table slot (R306, R328). -/
structure ModelPackage where
  versionOk : Bool
  crcOk : Bool
  weights : List (Nat × List Byte)
  stages : List (List TaskBound)
  pageSlots : Nat
  imageBytesPerPage : Nat
  basinSlots : Nat
  heads : List HeadPlan
  prefill : List LaunchPlan
  layers : List LaunchPlan
  lengths : Nat
  shadows : Nat
deriving DecidableEq, Repr

/-- One current sample of a channel (R368-R372): the fine code as mA, the coarse 8-bit code, whether the converter
reports loss of clock or overload, and whether the fine path saturates its range. -/
structure CurSample where
  fineMa : Nat
  coarse : Nat
  bad : Bool
  saturated : Bool
deriving DecidableEq, Repr

/-- What one AVSBus frame answered (R379). -/
inductive AvsAnswer where
  /-- The frame's answer, with the reading where the frame was a read: mA, or 1/16 °C. -/
  | ok (value : Int)
  | missing
  | badCrc
  | error
deriving DecidableEq, Repr

/-- A resource that maintenance holds (R278). -/
inductive Resource where
  | bankPair (stack nbu : Nat)
  | dramDie (stack die : Nat)
  | connGroup (stack group : Nat)
  | core (die : Die) (phys : Nat)
  | stack (s : Nat)
  | controller (c : Nat)
  | phy (stack : Nat)
  | rvrPhy (c : Nat)
deriving DecidableEq, Repr

/-- A management request other than the vendor messages with rows of their own. -/
inductive PldmSensor where
  | diode (die : Die) (n : Nat)
  | current (die : Die) (c : Nat)
  | voltage (die : Die) (c : Nat)
  | energy (die : Die) (c : Nat)
  | packageW
  | leader (die : Die)
  | split
  | wedged
  | trip
  | port (p : Nat)
deriving DecidableEq, Repr

/-- A step of a PLDM firmware update (R423). -/
inductive PldmUpdate where
  | requestUpdate (agent : Nat)
  /-- Bytes of component `comp` (1 housekeeping, 2 SCC) as transferred. -/
  | transfer (agent comp : Nat) (bytes : List Byte)
  | verify (agent comp : Nat) (version keySlot : Nat) (signature : List Byte)
  | activate (agent : Nat)
  | cancel (agent : Nat)
deriving DecidableEq, Repr

/-- An MCTP control message the endpoint answers (R419, R420). -/
inductive MctpMsg where
  | setEndpointId (eid : Nat)
  | getEndpointId
  | assignI3cAddress (addr : Nat)
  | malformed
deriving DecidableEq, Repr

/-- A management request as an MCTP packet carries it (R420, R422). -/
inductive MgmtReq where
  | control (msg : MctpMsg)
  | sensor (x : PldmSensor)
  | update (x : PldmUpdate)
  | faultLog (die : Die) (index : Nat)
  | register (addr : Nat)
  | packageReset
  | challenge
  | response (keySlot : Nat) (signature : List Byte)
deriving DecidableEq, Repr

/-- What a private JTAG instruction asks for (R424). -/
inductive JtagPrivate where
  | registerRead (addr : Nat)
  | memoryRead (addr len : Nat)
  | memoryWrite (addr : Nat) (bytes : List Byte)
  | coreHalt (die : Die) (core : Nat)
  | coreStep (die : Die) (core : Nat)
  | scanDump
deriving DecidableEq, Repr

/-- The levels LEAD_SEL can be read at (R382, R457). -/
inductive LeadLevel where
  | low | high | unreadable
deriving DecidableEq, Repr

/-- What a boot meets (R399, R400): the pins as sampled, the firmware images as authenticated, and the parts that
fail a check or a training. -/
structure BootFacts where
  leadW : LeadLevel
  leadL : LeadLevel
  hkBootSel : Bool
  /-- Housekeeping firmware acceptable in copy A, in copy B (R406). -/
  hkFw : Bool × Bool
  sccFw : Bool × Bool
  /-- A rail that does not come within limits, by its place in the order of step 4. -/
  railFail : Option Nat
  /-- Physical cores that fail the self-test, as die and instance. -/
  coreFail : List (Die × Nat)
  /-- Stacks whose interface does not train. -/
  stackFail : List Nat
  /-- For each controller: raw GiB populated, density code, ranks minus 1 and the highest rate it passes at (0: none). -/
  rvr : List (Nat × Nat × Nat × Nat)
deriving DecidableEq, Repr

/-- The supply rails (R368, R451). -/
inductive Rail where
  | coreW | coreL | sramW | sramL | stk | vddq | vpp | link | lp | hk
deriving DecidableEq, Repr

/-- The reference clocks (R455). -/
inductive RefClk where
  | pcie
  | sys (die : Die)
  | link (die : Die)
  | xtal (die : Die)
deriving DecidableEq, Repr

/-- A DMA descriptor's result on the host's side: the bytes a host read returned, or that the host took the write. -/
inductive HostAnswer where
  | data (bytes : List Byte)
  | accepted
deriving DecidableEq, Repr

/-- What a scan round finds (R367): four readings of the die diode and one of each stack diode in 1/16 °C, the voltage of
each measured rail in mV, the eye margin of one port, and whether the round ended late. -/
structure ScanFacts where
  dieDiode : List Int
  stackDiode : List Int
  railMv : List Nat
  eyeMargin : Nat
  late : Bool
deriving DecidableEq, Repr

end Sys2Proof
end

