-- ==== Sys2Proof/Syntax.lean ====
section
/-!
DEFINITION. The commands of the part: one constructor for each row of spec/opcode_table.json, in the table's order.
A command names an operation or an event; its operands say which instance it concerns and what the outside brings
with it (an address, a value, a reading, a packet). Nothing here says what a command does.
-/
namespace Sys2Proof

/-- The commands. A core instruction names its strand and the stream it stands in, and carries the fields of its
format as R79 lays them out. -/
inductive Instr where
  -- control instructions (R84)
  | nop (sid : Sid) (str : Stream) (f : SF)
  | sli (sid : Sid) (str : Stream) (f : SF)
  | sadd (sid : Sid) (str : Stream) (f : SF)
  | smul (sid : Sid) (str : Stream) (f : SF)
  | sand (sid : Sid) (str : Stream) (f : SF)
  | sor (sid : Sid) (str : Stream) (f : SF)
  | sxor (sid : Sid) (str : Stream) (f : SF)
  | sshl (sid : Sid) (str : Stream) (f : SF)
  | sshr (sid : Sid) (str : Stream) (f : SF)
  | srd (sid : Sid) (str : Stream) (f : SF)
  | sldp (sid : Sid) (str : Stream) (f : SF)
  | sstp (sid : Sid) (str : Stream) (f : SF)
  | br (sid : Sid) (str : Stream) (f : SF)
  | dldi (sid : Sid) (str : Stream) (f : SF)
  | dld (sid : Sid) (str : Stream) (f : SF)
  | dbase (sid : Sid) (str : Stream) (f : SF)
  | waitc (sid : Sid) (str : Stream) (f : SF)
  | waitcReevaluate (sid : Sid) (str : Stream)
  | remoteWaitTimeout (sid : Sid) (str : Stream)
  | fence (sid : Sid) (str : Stream) (f : SF)
  | yield (sid : Sid) (str : Stream) (f : SF)
  | halt (sid : Sid) (str : Stream) (f : SF)
  | endStream (sid : Sid) (str : Stream) (f : SF)
  -- access-stream instructions (R85)
  | ld (sid : Sid) (str : Stream) (f : MF)
  | st (sid : Sid) (str : Stream) (f : MF)
  | gather (sid : Sid) (str : Stream) (f : MF)
  | qpush (sid : Sid) (str : Stream) (f : MF)
  | qpop (sid : Sid) (str : Stream) (f : MF)
  | sta (sid : Sid) (str : Stream) (f : MF)
  | atadd (sid : Sid) (str : Stream) (f : SF)
  | sld (sid : Sid) (str : Stream) (f : SF)
  | scmd (sid : Sid) (str : Stream) (f : MF)
  | sfence (sid : Sid) (str : Stream) (f : SF)
  | lxsub (sid : Sid) (str : Stream) (f : MF)
  /-- `id` is the strand's own number of the instruction in flight. -/
  | memoryAnswer (sid : Sid) (id : Nat)
  -- execute-stream instructions (R86)
  | mload (sid : Sid) (str : Stream) (f : TF)
  | mma (sid : Sid) (str : Stream) (f : TF)
  | vadd (sid : Sid) (str : Stream) (f : TF)
  | vsub (sid : Sid) (str : Stream) (f : TF)
  | vmul (sid : Sid) (str : Stream) (f : TF)
  | vfma (sid : Sid) (str : Stream) (f : TF)
  | vmax (sid : Sid) (str : Stream) (f : TF)
  | vmin (sid : Sid) (str : Stream) (f : TF)
  | vexp2 (sid : Sid) (str : Stream) (f : TF)
  | vlog2 (sid : Sid) (str : Stream) (f : TF)
  | vrcp (sid : Sid) (str : Stream) (f : TF)
  | vrsq (sid : Sid) (str : Stream) (f : TF)
  | vcvt (sid : Sid) (str : Stream) (f : TF)
  | vrmax (sid : Sid) (str : Stream) (f : TF)
  | vrsum (sid : Sid) (str : Stream) (f : TF)
  | vfill (sid : Sid) (str : Stream) (f : TF)
  | xcopy (sid : Sid) (str : Stream) (f : TF)
  | tmark (sid : Sid) (str : Stream) (f : TF)
  | tileWatchdogExpiry (sid : Sid)
  | queueDeadlock (sid : Sid)
  | streamHoldExpiry (die : Die) (core : Nat) (str : Stream)
  -- launches and the scheduler
  | schedRingTailWrite (who : Who) (die : Die) (ring : Nat) (value : Nat)
  | launchDescriptorCheck (die : Die) (ring : Nat)
  | launchResourced (die : Die) (ring index : Nat)
  | launchComplete (die : Die) (ring index : Nat)
  | launchDeadlinePass (die : Die) (ring index : Nat)
  | schedLaunchKill (who : Who) (die : Die) (value : Word)
  | schedTlbInval (who : Who) (die : Die) (word : Nat) (value : Word)
  | tlbInvalDone
  /-- `off` is the offset in the SCHED page, `value` up to 96 bits for a core mask. -/
  | schedPartCfgWrite (who : Who) (die : Die) (off : Nat) (value : Nat)
  | schedMcastAllotWrite (who : Who) (die : Die) (value : Word)
  | mcastDeliver (die : Die) (entry : Nat) (sid : Sid)
  | mcastHoldExpiry (die : Die) (entry : Nat)
  | turnEnd (die : Die) (core : Nat)
  | turnIdleExpiry (die : Die) (core : Nat)
  | turnSwitch (die : Die) (core : Nat)
  | killPointPark (sid : Sid)
  | strandResume (sid : Sid) (part : Nat)
  -- the layout engine
  | layoutDescriptorCheck (die : Die) (part : Nat)
  | layoutSlice (die : Die)
  | layoutComplete (die : Die) (part : Nat)
  | layoutCancel (who : Who) (die : Die) (value : Word)
  | layoutQlimitWrite (who : Who) (die : Die) (value : Word)
  -- stacks
  | stkModeWrite (who : Who) (stack : Nat) (value : Word)
  | stkModeEntryDone (stack half : Nat) (failed : List Nat)
  | stkModeExitDone (stack half : Nat)
  | stkOwnDataWrite (who : Who) (stack : Nat) (value : Word)
  | stkQlimitWrite (who : Who) (stack : Nat) (value : Word)
  | stkNop (stack : Nat) (src : CmdSource)
  | attend (stack : Nat) (src : CmdSource)
  | gemv (stack : Nat) (src : CmdSource)
  | summarise (stack : Nat) (src : CmdSource)
  | stkCmdQueueAdmit (stack part : Nat)
  | sliceStart (stack nbu : Nat)
  | sliceEnd (stack nbu : Nat)
  | selectionChunk (stack : Nat)
  | stkCmdComplete (stack uid : Nat)
  | stkKill (who : Who) (stack part : Nat) (value : Word)
  | stkKillAll (who : Who) (stack part : Nat) (value : Word)
  | stkRecRdWrite (who : Who) (stack part : Nat) (value : Word)
  | nbuSelfcheckFail (stack nbu : Nat)
  -- the Basin
  | basinReservationGrant (die : Die) (part : Nat)
  | basinPartialArrival (die : Die)
  | basinResultWrite (die : Die) (handle : Nat)
  | basinRsvRequest (who : Who) (die : Die) (value : Word)
  | basinRsvCancel (who : Who) (die : Die) (value : Word)
  | basinSlotAllotWrite (who : Who) (die : Die) (value : Word)
  -- the Pool and the Reservoir
  | poolWayMaskWrite (who : Who) (die : Die) (part : Nat) (value : Word)
  | poolWayExclWrite (who : Who) (die : Die) (value : Word)
  | poolSweepDone (die : Die)
  /-- For each of the eight channels: the refresh code asked for (0 ×1, 1 ×2, 2 ×4) and whether above its range. -/
  | rvrMr4Poll (c : Nat) (report : List (Nat × Bool))
  | rvrLinkLoss (c : Nat)
  | refreshWindowEnd (res : Resource)
  -- scrubbing, injection, repair and maintenance
  | scrubVisit (die : Die) (inst : Nat)
  | scrubQueuedVisit (die : Die) (inst : Nat)
  | scrubPeriodWrite (who : Who) (die : Die) (inst : Nat) (value : Word)
  | scrubFlipArm (who : Who) (die : Die) (inst : Nat) (value : Word)
  | coreFlipArm (who : Who) (die : Die) (inst : Nat) (value : Word)
  | rowRepairRequest (stack off : Nat)
  | rowRepairRun (stack : Nat)
  | nbuSwapRequest (stack nbu : Nat)
  | nbuSwapRun (stack dramDie : Nat)
  | vcSwapRequest (stack group conn : Nat)
  | vcSwapRun (stack group : Nat)
  | repairStarved (stack : Nat)
  | maintSafePoint (res : Resource)
  | coreRetire (who : Who) (die : Die) (inst : Nat) (value : Word)
  | coreRetireMigrate (die : Die) (inst : Nat)
  -- bridge and domains
  | bridgeRetry (die : Die)
  /-- `by_` is whose transfer is lost, and `retries` how often the bridge tried it again before it gave it up. -/
  | bridgeUndeliverable (die : Die) (by_ : Requester) (addr retries : Nat)
  | domainWake (die : Die) (domain : Nat) (request : Nat)
  | domainWakeTimeout (die : Die) (domain : Nat) (by_ : Requester) (addr : Nat)
  -- packets
  /-- A packet names the port it arrives on. -/
  | packetWrite (port : Nat) (pkt : Packet)
  | packetRead (port : Nat) (pkt : Packet)
  | packetAtadd (port : Nat) (pkt : Packet)
  | packetCount (port : Nat) (pkt : Packet)
  | packetResponse (port : Nat) (pkt : Packet)
  | breeze (from_ : LinkIn) (stamp : BitVec 32) (split : Bool)
  | timeReq (from_ : LinkIn) (t1 : Nat) (src : Nat)
  | timeRsp (from_ : LinkIn) (t1 t2 turn : Nat) (depth : Nat) (asymNs : Int)
  | loss (from_ : LinkIn) (stamp : BitVec 32) (module reporter : Nat) (hops : Nat)
  /-- `req` is what the MCTP packet in the payload asks for. -/
  | mgmtPacket (port : Nat) (pkt : Packet) (req : MgmtReq)
  | reservedPacket (port : Nat) (pkt : Packet)
  | packetForward (port : Nat) (pkt : Packet)
  -- ports
  /-- The partner asks for a replay from a number; none: a packet of the partner failed its check here. -/
  | linkReplay (ask : ReplayAsk)
  | laneSpareSwap (port lane : Nat)
  | portDegrade (port : Nat)
  | vlRetrain (who : Who) (port : Nat) (value : Word)
  | retrainTimeout (port : Nat)
  | vlEnableWrite (who : Who) (port : Nat) (value : Word)
  | portTrained (port : Nat) (partner partnerPort : Nat) (stamp : BitVec 32) (lanes : Nat)
  | portSignalLoss (port lanesLost : Nat)
  | portSilence (port : Nat)
  | breezeIdleExpiry (port : Nat)
  | vcStall (port vc : Nat) (falling : Bool)
  | respTimeout (die : Die) (reqId : Nat)
  | lossGraceExpiry (module : Nat)
  | timeExchangeTick
  | timeParentFailover
  | timeCfgWrite (who : Who) (die : Die) (value : Word)
  | vlGUnitsWrite (who : Who) (port part : Nat) (value : Word)
  | vrouteRtDataWrite (who : Who) (die : Die) (value : Word)
  | vrouteShadowSubmit (who : Who) (die : Die) (value : Word)
  | shadowDescriptorRun (die : Die)
  | shadowDescriptorDone (die : Die)
  | vrouteShadowCancel (who : Who) (die : Die) (value : Word)
  -- deadline monitors
  | faultDlArm (who : Who) (die : Die) (m : Nat) (value : Word)
  | faultDlDisarm (who : Who) (die : Die) (m : Nat) (value : Word)
  | dlCounterChange (die : Die) (m : Nat)
  | dlDeadlinePass (die : Die) (m : Nat)
  | dlMaxLateExpiry (die : Die) (m : Nat)
  -- serving; `peersAccept` says which of peer_a and peer_b accept the registration (R337)
  | submit (e : SqSlot) (peersAccept : Bool × Bool)
  | cancel (e : SqSlot)
  | resume (e : SqSlot) (peersAccept : Bool × Bool)
  | query (e : SqSlot)
  | releaseShadow (e : SqSlot)
  | loadModel (e : SqSlot) (pkg : ModelPackage)
  | unloadModel (e : SqSlot)
  /-- The entry's own fields stand in place of what `e` holds at their offsets. -/
  | setPolicy (e : SqSlot) (part decodeW decodeL gapUs maxRequests holdS : Nat)
  | sccSqTailWrite (function pair : Nat) (value : Word)
  | sccCqHeadWrite (function pair : Nat) (value : Word)
  | sccQpCfgWrite (function pair : Nat) (value : Word)
  | prefillDone (slot : Nat)
  /-- The partition, the deadline monitor Quiley uses, and the step counter's address. -/
  | stepIssue (part : Nat) (die : Die) (monitor : Nat) (counter : Nat)
  | stepCommit (part : Nat)
  | orphanHoldExpiry (slot : Nat)
  -- measurement, thermal, regulators
  | currentSample (die : Die) (samples : List CurSample) (voltsMv : List Nat)
  | powerExcursionTimer
  | clockRaiseTimer
  | scanRound (die : Die) (facts : ScanFacts)
  | throttleStepTimer (die : Die)
  | tripCompare (die : Die) (diode : Nat) (reading : Int)
  | railOffStep (die : Die)
  | avsTransaction (die : Die) (answer : AvsAnswer)
  | voltageSettled (die : Die)
  | pllLockLoss (die : Die)
  | pllLockRegain (die : Die)
  /-- Mean current in mA, its spread in parts per thousand, and the seven activity rates with their spreads. -/
  | estimatorWindow (die : Die) (meanMa spread : Nat) (rates spreads : List Nat) (coreMv : Nat)
  | estimatorRegression (die : Die)
  | estimatorStale (die : Die)
  -- leadership and liveness
  | heartbeatSend (die : Die)
  | heartbeatRx (die : Die) (epoch : Nat) (claim : Bool) (stamp : BitVec 32)
  | capCommandTimeout (die : Die)
  | heartbeatLoss (die : Die) (peerLogRead : Bool)
  | wedgeProbe (die : Die) (answered : Bool)
  | sccBeatTimeout (die : Die)
  | aliveLapse (die : Die)
  -- power states and resets
  | lullIdleExpiry (die : Die)
  | lullWake (die : Die)
  | calmIdleExpiry
  | calmWake
  | watchCycle (die : Die) (facts : ScanFacts) (meanMa : List Nat)
  | powerEntryDone (die : Die)
  | coldReset
  | pkgRstAssert
  | pkgRstDeassert (facts : BootFacts)
  | reservoirInitDone
  | pwrstReset (who : Who) (die : Die) (value : Word)
  | pwrstModuleIdWrite (who : Who) (die : Die) (value : Word)
  | perstAssert
  | functionLevelReset (function : Nat)
  | refclkLoss (clk : RefClk)
  -- configuration store
  | cfgStoreWrite (area : Nat)
  | cfgStoreOp
  | cfgStoreWriteDone
  | cfgstSvnCommit (who : Who) (value : Word)
  -- host and management
  | hostRead (addr len : Nat)
  | hostWrite (addr : Nat) (bytes : List Byte) (ep : Bool)
  | dmaTailWrite (who : Who) (ch : Nat) (value : Nat)
  | dmaDescriptorRun (ch : Nat) (answer : HostAnswer)
  | dmaHostReadTimeout (ch : Nat)
  | mctpControl (msg : MctpMsg)
  | pldmSensorRead (sensor : PldmSensor)
  | pldmFirmwareUpdate (req : PldmUpdate)
  | vendorFaultLogRead (die : Die) (index : Nat)
  | vendorRegisterRead (addr : Nat)
  | vendorPackageReset
  | maintenanceChallenge
  | maintenanceResponse (keySlot : Nat) (signature : List Byte)
  | jtagBypass
  | jtagIdcode
  | jtagSamplePreload
  | jtagExtest
  | jtagPrivate (op : JtagPrivate)
  -- register pages
  | blkLockWrite (who : Who) (page : Nat) (value : Word)
  | blkCtrlFreeze (who : Who) (page : Nat) (value : Word)
  | blkCtrlClear (who : Who) (page : Nat) (value : Word)
  | blkIrqClear (who : Who) (page : Nat) (value : Word)
  | faultRecordWrite (page : Nat)
  | faultLogIdxWrite (who : Who) (die : Die) (value : Word)
  | faultLogRdWrite (who : Who) (die : Die) (value : Word)
  /-- `size` is 4 or 8 bytes; `addr` is an offset in register space. -/
  | registerWrite (who : Who) (addr size : Nat) (value : Word)
  | partnerSignalDetect (port : Nat)
  | powerExitDone (die : Die)
  | perstDeassert
  | railLoss (rail : Rail)
  | spareWaitExpiry (slot : Nat)
  | repairHoldExpiry (stack half : Nat)
deriving DecidableEq, Repr

end Sys2Proof
end

