-- ==== Sys2Proof/Decode.lean ====
section
/-!
DEFINITION. The command a word of the opcode table spells: the table gives no row any bits, so no word spells a command. Beside
it the 128-bit words of the cores' own instructions (R79 to R81, R84 to R86), as the command each stands for.
-/
namespace Sys2Proof

/-- The command of a word, by the table's bits: the table gives none (log 1). -/
def decodeTableWord (_nbits _w : Nat) : Option Instr := none

/-- The fields of format S (R79). -/
def sFields (w : Nat) : SF where
  rd := BitVec.ofNat 4 (w / 2 ^ 8)
  rs1 := BitVec.ofNat 4 (w / 2 ^ 12)
  rs2 := BitVec.ofNat 4 (w / 2 ^ 16)
  imm := BitVec.ofNat 64 (w / 2 ^ 64)

/-- The fields of format M (R79). -/
def mFields (w : Nat) : MF where
  opS := BitVec.ofNat 6 (w / 2 ^ 8)
  opM := BitVec.ofNat 6 (w / 2 ^ 14)
  opX := BitVec.ofNat 6 (w / 2 ^ 20)
  rs := BitVec.ofNat 4 (w / 2 ^ 26)
  rt := BitVec.ofNat 4 (w / 2 ^ 30)
  imm := BitVec.ofNat 64 (w / 2 ^ 64)

/-- The fields of format T (R79, R81). -/
def tFields (w : Nat) : TF where
  od := BitVec.ofNat 6 (w / 2 ^ 8)
  oa := BitVec.ofNat 6 (w / 2 ^ 14)
  ob := BitVec.ofNat 6 (w / 2 ^ 20)
  oc := BitVec.ofNat 6 (w / 2 ^ 26)
  fmtD := BitVec.ofNat 4 (w / 2 ^ 32)
  fmtA := BitVec.ofNat 4 (w / 2 ^ 36)
  fmtB := BitVec.ofNat 4 (w / 2 ^ 40)
  rnd := BitVec.ofNat 2 (w / 2 ^ 44)
  sat := w / 2 ^ 46 % 2 == 1
  shape := BitVec.ofNat 3 (w / 2 ^ 47)
  sblk := BitVec.ofNat 2 (w / 2 ^ 50)
  sfmt := w / 2 ^ 52 % 2 == 1
  imm := BitVec.ofNat 64 (w / 2 ^ 64)

/-- The control instructions, from opcode 0x00 on (R84). -/
def controlOps : List (Sid → Stream → SF → Instr) :=
  [.nop, .sli, .sadd, .smul, .sand, .sor, .sxor, .sshl, .sshr, .srd, .sldp, .sstp, .br, .dldi, .dld, .dbase, .waitc, .fence,
   .yield, .halt, .endStream]

/-- The access-stream instructions of formats M and S, from opcode 0x40 on (R85). -/
def accessOps : List ((Sid → Stream → MF → Instr) ⊕ (Sid → Stream → SF → Instr)) :=
  [.inl .ld, .inl .st, .inl .gather, .inl .qpush, .inl .qpop, .inl .sta, .inr .atadd, .inr .sld, .inl .scmd, .inr .sfence, .inl .lxsub]

/-- The execute-stream instructions, from opcode 0x80 on (R86). -/
def executeOps : List (Sid → Stream → TF → Instr) :=
  [.mload, .mma, .vadd, .vsub, .vmul, .vfma, .vmax, .vmin, .vexp2, .vlog2, .vrcp, .vrsq, .vcvt, .vrmax, .vrsum, .vfill, .xcopy,
   .tmark]

/-- The instruction of a 128-bit word in a stream of a strand; none for a reserved opcode (R79, R82). -/
def decodeCore (i : Sid) (str : Stream) (w : Nat) : Option Instr :=
  let op := w % 256
  if op < 0x40 then (controlOps[op]?).map (fun c => c i str (sFields w))
  else if op < 0x80 then (accessOps[op - 0x40]?).map (fun c => match c with | .inl m => m i str (mFields w) | .inr c => c i str (sFields w))
  else (executeOps[op - 0x80]?).map (fun c => c i str (tFields w))

end Sys2Proof
end

