-- ==== Sys2Proof/Config.lean ====
section
/-!
DEFINITION. What the manual leaves to the part. Every constant here is opaque: no proof can see a value of it, so a
statement that mentions one holds for every part the manual allows. Values the manual fixes never stand here.
-/
namespace Sys2Proof.Config

/-- The five functions whose FP32 result R124 bounds and does not fix; the near-bank units (R154), the combiner and
the Basin (R202, R204) are units of their own, since the manual does not say that they share the vector unit's bits. -/
inductive Fn where
  | vexp2 | vlog2 | vrcp | vrsq
  | nbuExp2 | mergeExp2 | basinLog2
deriving DecidableEq, Repr

/-- Free value (log 4): the FP32 bits a part would give for a function and an input, before the bound of R124 is
applied. The machine uses them only where they meet the bound. -/
opaque transcendental : Fn → BitVec 32 → BitVec 32

/-- Free value (log 5): the value a part leaves where the manual calls bits unspecified. The argument is the
machine's count of free values taken so far. -/
opaque freeByte : Nat → BitVec 8

/-- Free value (log 6): the fixed hash of R294, of source module, destination module and partition. -/
opaque routeHash : Nat → Nat → Nat → Nat

/-- Free value (log 7): the way a Pool fill replaces among the ways it may use (R244: pseudo-least-recently-used over
a set index by a fixed hash of R243, neither given), of the partition, its misses so far and the line: what other
partitions do has no part in it (R245). -/
opaque poolVictim : Nat → Nat → Nat → Nat

/-- Free value (log 7): the fixed hash of R243 that gives a Pool line its set, of the line's number. -/
opaque poolSet : Nat → Nat

/-- Free value (log 89): one less than the packets of a VC and class that a partner's buffers take before the first is
acknowledged (R291 gives no size), by VC and, 4 higher, by class. -/
opaque rxBuffer : Nat → Nat

/-- Free value (log 8): the fused leakage function of R373, of core voltage in mV and die diode in 1/16 °C, in mA. -/
opaque leak : Nat → Int → Nat

/-- Free value (log 9): the regression fit of R373 over the last windows: the smallest normalised singular value of their
data in 1/256, and the eight coefficients in 1/65536. The manual gives the criterion, not how the data are normalised nor how
a coefficient is rounded; the residual is computed from the coefficients. -/
opaque regressionFit : List (List Nat) → Nat × List Int

/-- Free value (log 9): whether a raise keeps the package within its cap (R373), of the die's estimated current in 1/65536 mA,
the package total in µW and the clock asked for. The manual does not say how the estimate is carried to the higher clock. -/
opaque raiseFits : Int → Nat → Nat → Bool

/-- Free value (log 24): how many near-bank units a throttled stack's governor lets run (R185: fewer than 375), by count of
free values. -/
opaque throttledGov : Nat → Nat

/-- Free value (log 24): how many near-bank units the governor of a stack that is not throttled lets run (R173, R186: 375
to 512, by a law the manual does not give), by count of free values. -/
opaque freeGov : Nat → Nat

/-- Free value (log 88): whether an ordinary read finds the yield allowance of its bank pair spent (R175), by count of free
values. -/
opaque yieldSpent : Nat → Bool

/-- Free value (log 118): the vertical data connection that the corrected symbol of a stack unit crossed, as its group × 256 plus
its number (R258 gives each symbol one connection and does not say which), of the unit's address and the time. -/
opaque connectionOf : Nat → Nat → Nat

/-- Free value (log 10): verification of an ECDSA P-384 signature by a fused key slot over a digest (R406, R425). The
manual names the algorithm by reference only. -/
opaque signatureValid : Nat → List (BitVec 8) → List (BitVec 8) → Bool

/-- Free value (log 11): the 32 B nonce of R425, by count of challenges. -/
opaque nonce : Nat → List (BitVec 8)

/-- Free value (log 12): a boot stamp of R282, by count of boots. The manual gives its width and not its making. -/
opaque bootStamp : Nat → BitVec 32

/-- Free value (log 13): what Quiley's sampler draws (R325, R328), of the request slot and the token's number. The
manual gives the sampler's parameters and not its arithmetic. -/
opaque sampledToken : Nat → Nat → BitVec 32

/-- Free value (log 25): local address of the mailbox of the Quiley of a module, to which a primary writes its tokens
(R337; the manual gives no place for it). -/
opaque mailbox : Nat → Nat

/-- Free value (log 25): the arrival counter beside that mailbox (R337). -/
opaque mailCounter : Nat → Nat

/-- Free value (log 25): the bytes of a message between two Quileys, whose form the manual does not give. -/
opaque mailBytes : Mail → List (BitVec 8)

/-- Free value (log 25): what a Quiley takes from the bytes written to its mailbox. -/
opaque readMail : List (BitVec 8) → Option Mail

/-- Free value (log 26): the retention voltage in mV of a core rail or an SRAM rail in Calm (R388 names it and gives no
value), by select. -/
opaque retentionMv : Nat → Nat

/-- Free value (log 27): what the host's link trains to (R410 lists what the endpoint can; the other end chooses), by count
of free values: the low three bits pick a rate of 1 to 6, the rest a width. -/
opaque hostLink : Nat → Nat × Nat

/-- Free value (log 28): ports a packet crosses on its way to a module (R329 counts them for a shadow peer; a package knows
its own next port only). -/
opaque hopsTo : Nat → Nat

end Sys2Proof.Config
end

