-- ==== Sys2Proof/Machine/State.lean ====
section
/-!
DEFINITION. The state of one OL-2416 package: plain data, holding every piece of state the manual gives the part, the
reasons a step can stop, and the state right after a cold reset.

Sparse tables (`Map`) are lists with strictly rising keys and no entry equal to the table's default; two equal machines
are equal data. The registers of the register pages live in one table, `regs`, keyed by their offset in register space
(R427); an unlisted register reads as the reset value that Machine/Regs.lean gives it. What an engine holds beside its
registers has a field of its own below.
-/
namespace Sys2Proof.Machine

/-- The package stops with a fault. No command of this model raises one: every error the manual describes is a
completion, a record or a halt of a strand, and each is a next state. -/
inductive Fault where
  /-- Raised by no command; it stands for a part driven outside its absolute maximum ratings (R459), of which the
  manual says that no other statement holds. Safe. -/
  | ratingsExceeded
deriving DecidableEq, Repr

/-- A command without a meaning. -/
inductive Refusal where
  /-- Raised by an arm of exec whose command has no meaning yet. Safe. -/
  | notModelled (mnemonic : String)
deriving DecidableEq, Repr

/-- The two stack capacities (R3). -/
inductive Variant where
  | f | c
deriving DecidableEq, Repr

/-- What the part's fuses and its marking fix (R3, R20, R380, R406, R407, R438). -/
structure Fuses where
  variant : Variant
  /-- The die whose host and management copies are active (R20). -/
  activeDie : Die
  /-- The eight physical core instances each die's factory repair map held as spares (R438). -/
  spares : Pair (List Nat)
  /-- Fused security-version counts (R407). -/
  hkSvn : Nat
  sccSvn : Nat
  /-- Revocation bits of the four key slots (R406). -/
  keyRevoked : List Bool
  /-- Fused core voltage in mV for each clock point, in units of 50 MHz (R380). -/
  voltMv : Map Nat
deriving DecidableEq, Repr

/-- The low-speed pins (R457) and the rails (R451). -/
structure Pins where
  pkgRstN : Bool
  perstN : Bool
  thermTripN : Bool
  pwrAlertN : Bool
  /-- Rails within their limits (R451). -/
  rails : List Rail
  /-- Reference clocks lost (R456). -/
  clkLost : List RefClk
deriving DecidableEq, Repr

/-! ### Cores and strands -/

/-- The states of a strand (R42). -/
inductive StrandStat where
  | free | loading | ready | running | waiting | parked | halted
deriving DecidableEq, Repr

/-- One 256 B entry of a data queue (R68); `bad` when a word of it is uncorrectable (R263). -/
structure QEntry where
  bytes : List Byte
  bad : Bool
deriving DecidableEq, Repr

/-- A stationary block with its shape, formats and scales (R102 to R108). -/
structure Block where
  shape : Nat
  fmt : Nat
  sblk : Nat
  sfmt : Bool
  /-- Loaded rows along K (size1) and columns (size0). -/
  k : Nat
  n : Nat
  /-- Element bits, row-major, k × n. -/
  vals : List Nat
  /-- Scale bytes, ceil(k ÷ L) × n, empty without scales. -/
  scales : List Nat
deriving DecidableEq, Repr

/-- A counter wait in progress (R97). `elapsed8` is the resident time in eighths of a ns up to `since8`. -/
structure CtrWait where
  va : Nat
  pa : Nat
  target : Word
  rd : Nat
  timeoutUs : Nat
  elapsed8 : Nat
  since8 : Nat
  /-- The value last observed. -/
  seen : Word
deriving DecidableEq, Repr

/-- What a stream waits for before its next instruction can begin or go on (R69, R70). -/
inductive Blocked where
  | queue (q : Nat)
  | other
  /-- A FENCE, or an SFENCE where `stack` holds, that waits: it commits by itself once what it waits for has completed, and
  nothing of its stream begins before that (R223). -/
  | fence (stack : Bool)
deriving DecidableEq, Repr

/-- The memory instructions of R88. -/
inductive MemKind where
  | ld | st | gather | sta | atadd | sld | scmd | lxsub
deriving DecidableEq, Repr

/-- One dimension-0 row of a memory shape: its virtual address, its elements, and where its bytes lie, as global address,
length and pool bit (R75, R144). -/
structure Run where
  va : Nat
  elems : Nat
  pieces : List (Nat × Nat × Bool)
deriving DecidableEq, Repr

/-- Where the data of a load goes. -/
inductive Dest where
  | none
  | scalar (rd : Nat)
  /-- Scratchpad runs: address and element count, with the element width in bits. -/
  | spad (runs : List (Nat × Nat)) (bits : Nat)
  | queue (q : Nat) (bits : Nat)
deriving DecidableEq, Repr

/-- A memory instruction in flight (R88, R222). -/
structure Inflight where
  id : Nat
  kind : MemKind
  runs : List Run
  /-- Virtual byte spans the instruction reads or writes, for R221. -/
  writes : Bool
  dest : Dest
  /-- The halt reason and argument of an error met, if any. -/
  err : Option (Nat × Word)
  /-- Outstanding requests to other packages. -/
  remote : List Nat
  /-- STA: the counter's virtual and global address, once the data is performed. -/
  counter : Option (Nat × Nat)
  /-- ATADD's addend and the old value taken; an SCMD's virtual address. -/
  value : Word
  /-- Merge entry of a multicast load. -/
  mcast : Option Nat
  /-- Bytes answered and not yet pushed into the destination queue. -/
  rest : Option (List QEntry)
  /-- Bytes answered so far by remote reads, by request. -/
  got : List (Nat × List Byte)
  byteOff : Nat
  /-- Byte offset of the instruction in its kernel image (R100, R101). -/
  place : Nat
  /-- Scratchpad spans the instruction touches until it completes, and whether it writes them (R72). -/
  spans : List (Int × Int × Bool)
  /-- Its writes, if it has any, are all performed. -/
  performed : Bool
deriving DecidableEq, Repr

/-- A queue-bound instruction that has begun and not committed (R69, R93): entries popped so far for each operand, entries
still to be pushed, and what stands of its results already. -/
structure QProgress where
  popped : List (Nat × List Byte)
  /-- Queue and entry, in order. -/
  toPush : List (Nat × QEntry)
  computed : Bool
  /-- For each destination in order, the elements placed in the scratchpad or the entries pushed so far. -/
  made : List Nat
deriving DecidableEq, Repr

/-- A group of ATTENDs a strand has open (R207). -/
structure OpenGroup where
  key : Nat
  handle : Nat
  gen : Nat
  home : Die
  q : Nat
  dim : Nat
  vfmt : Nat
  dstSpa : Nat
  membersM1 : Nat
  named : List Nat
deriving DecidableEq, Repr

/-- A strand (R41, R67), in the context that holds it or, when parked, in its saved image (R348). -/
structure Strand where
  stat : StrandStat
  part : Nat
  /-- The launch, by die, ring and index. -/
  launch : Nat
  index : Nat
  argVa : Word
  prio : Nat
  queueMask : Nat
  imageLen : Nat
  kernelVa : Nat
  wdUs : Nat
  tag : Nat
  apc : Nat
  epc : Nat
  /-- Scalar registers; keys 0–15 the access stream, 16–31 the execute stream; unlisted reads zero. -/
  scal : Map Word
  /-- Operand descriptors; keys 0–31 the access stream, 32–63 the execute stream; unlisted reads zero. -/
  desc : Map DescWord
  /-- Logical queues 0–3 AQ, 4–7 EQ. -/
  queues : Map (List QEntry)
  /-- Physical queue of each assigned logical queue. -/
  qmap : Map Nat
  shadow : Option Block
  /-- Scalars whose SLD or ATADD is in flight (R72), by key of `scal`. -/
  busy : List Nat
  /-- Resident cycles up to `cycSince`, in 1/8000 of a core cycle. -/
  cycles : Nat
  cycSince : Nat
  tiles : Nat
  /-- Tile watchdog: elapsed issue time in eighths of a ns up to `wdSince8`, and whether it runs (R96). -/
  wdElapsed8 : Nat
  wdSince8 : Nat
  waitA : Option CtrWait
  waitE : Option CtrWait
  /-- Saved elapsed time of a wait killed by pre-emption (R99), in eighths of a ns, by stream. -/
  savedA : Option Nat
  savedE : Option Nat
  endA : Bool
  endE : Bool
  blockA : Option Blocked
  blockE : Option Blocked
  progA : Option QProgress
  progE : Option QProgress
  inflight : List Inflight
  nextId : Nat
  groups : List OpenGroup
  /-- Uncompleted stack commands of the strand, as stack and command number, with the SCMD's virtual address. -/
  cmds : List (Nat × Nat × Nat)
  /-- A completed stack command with status 2 or 3 that SFENCE has not yet reported: its SCMD's virtual address. -/
  badCmd : Option Nat
  /-- SCHED has asked the strand to park (R351, R353). -/
  parkAsked : Bool
  /-- The launch a strand was parked for, under the third row of R353. -/
  parkedFor : Option Nat
  /-- Place in the order of parking (R351 step 5). -/
  parkOrder : Nat
  /-- The execute stream has just committed a TMARK (R94). -/
  atMark : Bool
  /-- Multicast loads issued so far for each tag (R118). -/
  mcastCount : Map Nat
  /-- When it last ceased to be Ready or Running (R350). -/
  lastRun : Nat
deriving DecidableEq, Repr

/-- A kernel image resident in a core's instruction memory (R46, R234). -/
structure Image where
  part : Nat
  va : Nat
  len : Nat
  /-- Bytes by offset; unlisted reads zero. -/
  bytes : List Host.Cell
  /-- Offsets of 8 B words that fail SECDED (R263), and those whose error has been delivered once (R269). -/
  bad : List Nat
  told : List Nat
deriving DecidableEq, Repr

/-- A logical core: what its streams, its array and its turn hold. -/
structure Core where
  holdA : Option Nat
  holdE : Option Nat
  lastA : Nat
  lastE : Nat
  holdSinceA : Nat
  holdSinceE : Nat
  /-- The strand that last issued MLOAD, by launch and index (R87). -/
  arrOwner : Option (Nat × Nat)
  arrShape : Nat
  /-- Reason of the last halt in each context (R101). -/
  reasons : Map Nat
  images : List Image
  /-- Contexts reserved by launches that wait in step 2 of R46. -/
  reserved : List (Nat × Nat)
  /-- Parked strands, saved in the partition's image (R348): their context and state. -/
  parked : List (Nat × Strand)
  /-- The partition that holds a core in turns, the start of its turn, and what its turn is at (R350, R351). -/
  holder : Option Nat
  turnStart : Nat
  turnAsked : Bool
  /-- When a strand last left one of its contexts, and up to when its time has been charged (R350, R357). -/
  leftAt : Nat
  chargedAt : Nat
  /-- Being retired (R276). -/
  retiring : Bool
  /-- Halted through JTAG, and allowed one instruction more (R424). -/
  jtagHalt : Bool
  jtagStep : Bool
  /-- The partition whose data the scratchpad holds (R235). -/
  spadPart : Option Nat
deriving DecidableEq, Repr

/-- The role the repair map gives a physical core (R438). -/
structure CoreRole where
  logical : Option Nat
  retired : Bool
deriving DecidableEq, Repr

/-! ### SCHED -/

/-- The stages of a launch (R46). -/
inductive LaunchStage where
  | checked | started | ending | done
deriving DecidableEq, Repr

/-- A launch between step 1 and step 5 of R46. -/
structure Launch where
  die : Die
  ring : Nat
  index : Nat
  part : Nat
  descPa : Nat
  kernelVa : Nat
  imageLen : Nat
  perCore : Nat
  prio : Nat
  order : Bool
  coreMask : Nat
  argVa : Word
  donePa : Option Nat
  deadline : Nat
  wdUs : Nat
  tag : Nat
  stage : LaunchStage
  /-- Status and detail once decided; the first to take effect stands (R53). -/
  result : Option (Nat × Nat)
  missed : Bool
  thermalSeen : Bool
  unmodelledSeen : Bool
  missDone : Bool
  /-- It has been found to lack contexts, queues or instruction memory, and waits in step 2 of R46 (R49). -/
  waits : Bool
  /-- When it was checked, and its place in the order of starts. -/
  at_ : Nat
  seq : Nat
deriving DecidableEq, Repr

/-- A held or running translation invalidation (R58): the words as written. -/
structure Inval where
  word0 : Word
  word1 : Word
deriving DecidableEq, Repr

/-- A cached translation of a logical core (R58): the leaf a core may still use. -/
structure TlbEntry where
  die : Die
  core : Nat
  part : Nat
  /-- Virtual page base and log2 of its size. -/
  va : Nat
  log2 : Nat
  leaf : Word
deriving DecidableEq, Repr

/-- A merge entry of the multicast unit (R118). -/
structure McastEntry where
  id : Nat
  die : Die
  launch : Nat
  tag : Nat
  k : Nat
  membersM1 : Nat
  ga : Nat
  shape : DescWord
  part : Nat
  bytes : Nat
  /-- The data fetched, once the fetch has completed. -/
  data : Option (List Byte)
  /-- Strands (by key) that have issued their k-th load, and those served. -/
  joined : List Nat
  served : List Nat
  fetchedAt : Nat
  /-- The hold time has ended: later loads are solo. -/
  freed : Bool
  /-- The strand whose load opened it. -/
  fetcher : Nat
  /-- The unit's fetch has begun (R118): its requests to other packages, their answers, and the error met. -/
  asked : Bool
  remote : List Nat
  got : List (Nat × List Byte)
  err : Option (Nat × Word)
  /-- A word of its data is uncorrectable (R257, R263). -/
  bad : Bool
deriving DecidableEq, Repr

/-! ### The layout engine -/

/-- A layout descriptor (R138) in its partition's queue. -/
structure LayoutDesc where
  bytes : List Byte
  part : Nat
  statusPa : Nat
  donePa : Option Nat
  /-- Checked under R140 and accepted. -/
  checked : Bool
  /-- When it was accepted. -/
  readyAt : Nat
  /-- Units (elements, blocks or rows) done so far. -/
  pos : Nat
  /-- Bucket: the buckets of the rows whose keys have been read, in source order (R146). -/
  keys : List Nat
  /-- A copy of Quiley's: the request's number, the head of its package, the page and its new map entry (R214, R334). -/
  moved : Option (Nat × Nat × Nat × Nat)
  /-- Status, detail and argument once it has finished or stopped. -/
  result : Option (Nat × Nat × Word)
  cancelled : Bool
deriving DecidableEq, Repr

/-- A die's layout engine (R137, R145). -/
structure Layout where
  queue : List LayoutDesc
  /-- Partition of the last slice, for the round-robin, and when that slice ended. -/
  last : Nat
  lastEnd : Nat
deriving DecidableEq, Repr

/-! ### Stacks, Basin -/

/-- An online-softmax partial of one query vector (R201). Values are FP32 bits. -/
structure Partial where
  m : BitVec 32
  l : BitVec 32
  o : List (BitVec 32)
deriving DecidableEq, Repr

/-- A slice of a stack command: the NBU, the pages (ATTEND) or the task and row range (GEMV), and its cost (R170). -/
structure Slice where
  nbu : Nat
  pages : List Nat
  rows : List (Nat × Nat)
  cost : Nat
  started : Bool
  /-- When it started. -/
  since : Nat
deriving DecidableEq, Repr

/-- An accepted stack command that has not completed (R162 to R170). -/
structure StkCmd where
  uid : Nat
  part : Nat
  opcode : Nat
  bytes : List Byte
  /-- The strand that issued it, by key, and its launch; none for the SCC. -/
  strand : Option (Nat × Nat)
  /-- Slices not yet ended, in slice order. -/
  slices : List Slice
  cut : Bool
  ran : Nat
  slowdown : Nat
  status : Nat
  killed : Bool
  /-- ATTEND: the page references read from its page map by index (R193), pages attended (index and page reference), and
  candidates not yet scored (index and stack offset of the key). -/
  listed : List (Nat × Nat)
  pages : List (Nat × Nat)
  cands : List (Nat × Nat)
  /-- Units of the operand region as they stood before a later write, by offset ÷ 32; none where its data was lost (R179). -/
  early : List (Nat × Option (List Byte))
  scores : List (Nat × BitVec 32)
  /-- Partials by NBU and query vector. -/
  parts : List (Nat × Nat × Partial)
  /-- The partials have been sent to the Basin, or the results have been written. -/
  sent : Bool
  /-- The results are visible (R180). -/
  visible : Bool
  /-- Operand and result slots, as NBU, first slot and number, and operand spans of stack offsets (R165, R166, R193). -/
  slots : List (Nat × Nat × Nat)
  results : List (Nat × Nat × Nat)
  spans : List (Nat × Nat)
  /-- When its slices were cut or its work for the page-summary unit stood ready, and the index of a page whose data was
  uncorrectable with the last position that the lost units hold. -/
  cutAt : Nat
  badPage : Option (Nat × Nat)
deriving DecidableEq, Repr

/-- A command write that has reached a port and is not yet judged (R162). -/
structure PortWrite where
  part : Nat
  bytes : List Byte
  strand : Option (Nat × Nat)
  va : Nat
  inflight : Nat
  admitted : Bool
deriving DecidableEq, Repr

/-- One stack: what its SE holds beside its registers and its storage (R149 to R187). -/
structure Stack where
  /-- Its interface trained (R400). -/
  trained : Bool
  port : List PortWrite
  cmds : List StkCmd
  nextUid : Nat
  /-- Mode writes held under R160. -/
  heldMode : List Nat
  /-- A change in progress asks for this mode, by half. -/
  going0 : Option Bool
  going1 : Option Bool
  /-- The slice each NBU runs: NBU ↦ command number. -/
  running : Map Nat
  /-- Commands with a context on an NBU, by NBU (R156). -/
  contexts : Map (List Nat)
  /-- Partition served last by each NBU (R172). -/
  lastPart : Map Nat
  lastSel : Nat
  /-- When the page-summary unit last ended a chunk (R358). -/
  selEnd : Nat
  /-- Ownership by granule, as STK_OWN_DATA shows it: the partition, and 16 where it is valid (R153, R186). -/
  own : Map Nat
  /-- Logical NBU indices that are unavailable (R158). -/
  unavailable : List Nat
  /-- DRAM dies whose spare NBU is in use; the physical unit retired. -/
  nbuRetired : Map Nat
  /-- Spare rows used by bank (die × 64 + bank), and rows replaced. -/
  rowsUsed : Map Nat
  rowsReplaced : List (Nat × Nat)
  vcUsed : Map Nat
  retiredGranules : List Nat
  gov : Nat
  /-- When each NBU's bank pair last yielded to an ordinary access, plus 1; 0 for never (R175). -/
  yieldAt : Map Nat
  /-- When a slice last left each half's queues (R336). -/
  sliceAt : Map Nat
  /-- The row that the scrubber has touched on a bank pair since its last slice ended, plus 1 (R267). -/
  rowAt : Map Nat
  /-- Errors in words of the NBUs' vector buffers, 1 correctable and 2 not, and whether a word of the SE's staging is
  uncorrectable (R257, R263); the buffers' errors as they were found, 1 for uncorrectable, with their times (R270). -/
  bufErr : Map Nat
  stageErr : Bool
  bufLog : Map (List (Nat × Nat))
  /-- Times of corrections by connection, group × 256 plus number (R270). -/
  vcLog : Map (List Nat)
deriving DecidableEq, Repr

/-- A reservation of a Basin group (R205, R209). -/
structure Group where
  handle : Nat
  gen : Nat
  part : Nat
  slots : Nat
  membersM1 : Nat
  dstDie : Die
  dstCore : Nat
  dstSpa : Nat
  dim : Nat
  select : Bool
  /-- Running partials, one per slot. -/
  acc : List Partial
  /-- Members whose partials (or statuses) have arrived, and how many sent partials. -/
  arrived : List Nat
  merged : Nat
  poisoned : Bool
  selRecord : List Byte
  /-- The strand that opened it, by key; none for the SCC. -/
  strand : Option Nat
  issued : Nat
  /-- Stacks and command numbers of the members accepted; members that have completed or were refused. -/
  members : List (Nat × Nat)
  ended : Nat
  broken : Bool
  /-- A word of its slots is uncorrectable (R257, R263). -/
  bad : Bool
deriving DecidableEq, Repr

/-- A partial on its way to the Basin (R206). -/
structure Arrival where
  handle : Nat
  gen : Nat
  member : Nat
  stack : Nat
  parts : List Partial
  status : Nat
  selRecord : List Byte
  /-- Head dimension of its command, and whether that only selects. -/
  dim : Nat
  select : Bool
deriving DecidableEq, Repr

/-- A waiting reservation (R208): partition, slots, and the strand whose SCMD waits, by key, none for the SCC's request
with its members, destination core and address. -/
structure RsvWait where
  part : Nat
  slots : Nat
  strand : Option Nat
  membersM1 : Nat
  dstCore : Nat
  dstSpa : Nat
  /-- The group of Quiley's own commands that waits for it. -/
  step : Option Nat
deriving DecidableEq, Repr

/-- One die's Basin. -/
structure Basin where
  groups : List Group
  /-- Generation of each handle. -/
  gens : Map Nat
  /-- Waiting reservations, in order of arrival. -/
  waits : List RsvWait
  arrivals : List Arrival
deriving DecidableEq, Repr

/-! ### Pool, Reservoir, integrity -/

/-- A line of a Pool (R243, R245). -/
structure PoolLine where
  part : Nat
  line : Nat
  way : Nat
  /-- It fails its check (R248, R257). -/
  bad : Bool
deriving DecidableEq, Repr

/-- A fill in flight (R248). -/
structure PoolFill where
  part : Nat
  line : Nat
  dropped : Bool
deriving DecidableEq, Repr

structure Pool where
  lines : List PoolLine
  fills : List PoolFill
deriving DecidableEq, Repr

/-- The check state of a unit of storage (R257 to R264); an unlisted unit is sound. -/
structure UnitState where
  corr : Bool
  uncorr : Bool
  poison : Bool
  injected : Bool
  /-- The poison has been delivered once (R269). -/
  delivered : Bool
  /-- It has been found uncorrectable, and counted (R262). -/
  found : Bool
deriving DecidableEq, Repr

/-- A scrubber (R265 to R267). -/
structure Scrubber where
  /-- Next unit of the pass, as an offset in the stack or the controller. -/
  cursor : Nat
  queue : List Nat
  /-- Errors met, for the thresholds of R270: twice the unit's address, plus 1 for an uncorrectable one, and the time. -/
  recent : List (Nat × Nat)
  passStart : Nat
  /-- When the pass before it started. -/
  lastStart : Nat
  /-- The pass under way has been kept from a unit by slices (R265, R267). -/
  starved : Bool
deriving DecidableEq, Repr

/-- A maintenance activity (R277, R278). -/
inductive Activity where
  | rowRepair (stack off : Nat)
  | nbuSwap (stack nbu : Nat)
  | vcSwap (stack group conn : Nat)
  | coreRetire (die : Die) (phys : Nat)
  | stackRefresh (stack mult : Nat)
  | rvrRefresh (c mult : Nat)
  | scrub (res : Resource)
  | calibration (res : Resource)
deriving DecidableEq, Repr

/-- A maintenance request: what, since when, whether it runs and whether starvation was reported. -/
structure Maint where
  act : Activity
  at_ : Nat
  running : Bool
  starved : Bool
deriving DecidableEq, Repr

/-! ### Fabric -/

/-- A port (R281 to R303), beside its VL registers. -/
structure Port where
  everUp : Bool
  txIdle : Bool
  linkSeq : Nat
  ackSeq : Nat
  /-- Packets queued and not sent; packets sent and not acknowledged. -/
  queue : List Packet
  unacked : List Packet
  lastTx : Nat
  lastRx : Nat
  retryTimes : List Nat
  failedLanes : List Nat
  retrainAt : Option Nat
  noCredit : List (Nat × Bool)
  /-- Start of the frame of R292 that runs, and the half units each class has used in it: 0 Control, 1 Maintenance, 2 and
  partition. -/
  frameAt : Nat
  frameUsed : Map Nat
  /-- Half a unit sent, and received, that the counters do not show yet. -/
  txHalf : Bool
  rxHalf : Bool
  /-- The per-direction asymmetry that training has measured, in ns (R298); none until it is known. -/
  asym : Option Int
deriving DecidableEq, Repr

/-- What an outstanding remote request belongs to. -/
inductive ReqOwner where
  | strand (sid : Sid) (id : Nat)
  /-- The fetch of a merge entry (R118). -/
  | mcast (entry : Nat)
  | shadow (die : Die)
  /-- A token that Quiley writes to a shadow peer, and a page that it reads back from one, with the local address the bytes go
  to: by the request's number (R334, R337). -/
  | token (uid : Nat)
  | page (uid addr : Nat)
  /-- A message to the Quiley of a peer, whose arrival counter is still to be advanced (R337). -/
  | mail (part peer : Nat)
  /-- Its instruction was killed: the data is discarded (R93). -/
  | gone
deriving DecidableEq, Repr

/-- An outstanding remote request (R290). -/
structure Request where
  id : Nat
  die : Die
  module : Nat
  kind : Nat
  va : Nat
  off : Nat
  issued : Nat
  /-- When its response timer expires (R290). -/
  due : Nat
  /-- A LOSS of its destination arrived after it was issued (R304). -/
  doomed : Bool
  owner : ReqOwner
deriving DecidableEq, Repr

/-- A shadow descriptor (R306) in the engine's queue. -/
structure Shadow where
  pa : Nat
  part : Nat
  running : Bool
  /-- First bad remote status and poison met. -/
  remoteErr : Option Nat
  poisoned : Bool
  outstanding : List Nat
  counted : Bool
  cancelled : Bool
  rejected : Bool
  sentAll : Bool
  /-- Writes sent so far. -/
  sent : Nat
deriving DecidableEq, Repr

/-- The time tree of the package (R297 to R300). -/
structure TimeTree where
  /-- t1 of the exchange in flight. -/
  t1 : Option Nat
  misses : Nat
  lastTick : Nat
  /-- Slew still to apply, in ns. -/
  slew : Int
  onBackup : Nat
deriving DecidableEq, Repr

/-! ### Serving -/

/-- The states of a request (R314). -/
inductive ReqStat where
  | queued | prefill | decoding | held | orphaned | finished | cancelled | failed | released
deriving DecidableEq, Repr

/-- A request in Quiley's table (R314 to R318). -/
structure Serve where
  slot : Nat
  function : Nat
  pair : Nat
  part : Nat
  stat : ReqStat
  entry : SqEntry
  committed : Nat
  delivered : Nat
  /-- In the step being run, and masked out of it. -/
  inStep : Bool
  masked : Bool
  /-- Not to commit in this step (R334, R335). -/
  skip : Bool
  peer : Option Nat
  protectedUpTo : Nat
  /-- Status-3 wait of R334, since when. -/
  spareWait : Option Nat
  /-- Orphan: the primary, its identity, and since when. -/
  primary : Option Nat
  orphanAt : Nat
  warmReady : Bool
  /-- A final event written frees the slot (R323). -/
  final : Bool
  /-- The lane has committed its last token and waits for the shadow's confirmation: the reason of its FINISHED. -/
  ending : Option Nat
  /-- Committed length its tokens count from, tokens drawn so far, and held because a package it needs is lost (R335). -/
  base : Nat
  sampled : Nat
  away : Bool
  /-- Its number, which no other request has. -/
  uid : Nat
  /-- PREFILLED has been written, or is not due (R325). -/
  told : Bool
  /-- The cmd_ids of its stack commands, and its launches on the rings, by key (R327). -/
  cmdIds : List Nat
  launches : List Nat
  /-- SUMMARISE commands still to be sent in a gap (R324): stack and bytes; and whether those of prefill have been made. -/
  sums : List (Nat × List Byte)
  summed : Bool
  /-- Page copies still to be submitted in a gap: head, page and new map entry (R214, R334). -/
  moves : List (Nat × Nat × Nat)
  /-- Reads of pages from the peer that have not been answered (R334). -/
  fetches : Nat
  /-- Positions for which shadow descriptors have been submitted (R337). -/
  shadowTo : Nat
  /-- Known tokens still to be fed in place of sampling, and the event to write once it can continue: 0x0A WARM, 0x0B
  RESUMED, 0 none (R339). -/
  catchUp : Nat
  tell : Nat
  /-- The table slot that its image at the peer is kept under (R337, R339). -/
  imageAt : Nat
  /-- Known tokens by the position they are fed at, and the token that its next step takes as input (R337, R339). -/
  known : List (Nat × BitVec 32)
  input : Option (BitVec 32)
  /-- Peers that it has left and that still hold its registration (R338, R340). -/
  oldPeers : List Nat
deriving DecidableEq, Repr

/-- A stack command of a step that Quiley has built (R326): its stack, partition and bytes, and for an ATTEND the number of
its Basin group. -/
structure StepCmd where
  stack : Nat
  part : Nat
  bytes : List Byte
  group : Option Nat
deriving DecidableEq, Repr

/-- A Basin reservation of Quiley's for a group whose members have not all been sent: the group's number, the home die,
handle, generation, and members sent (R206, R211). -/
structure StepGroup where
  group : Nat
  die : Die
  handle : Nat
  gen : Nat
  sent : Nat
deriving DecidableEq, Repr

/-- A queue pair (R316), beside its registers: the completion tail, the phase, and the waiting events, each with the
request slot that it frees, plus 1, or 0. -/
structure QPair where
  cqTail : Nat
  phase : Bool
  waiting : List (List Nat)
  stopped : Bool
deriving DecidableEq, Repr

/-- A step Quiley has issued (R330). -/
structure ServeStep where
  number : Nat
  start : Nat
  deadline : Nat
  die : Die
  monitor : Nat
  counter : Nat
  slots : List Nat
  /-- Its launches, by key, and the model slot that each belongs to (R326, R335). -/
  launches : List Nat
  models : List Nat
deriving DecidableEq, Repr

/-- The policy of a partition (R319). -/
structure Policy where
  decodeW : Nat
  decodeL : Nat
  gapUs : Nat
  maxRequests : Nat
  holdS : Nat
deriving DecidableEq, Repr

/-- Quiley (R312 to R340). -/
structure Quiley where
  running : Bool
  reqs : List Serve
  /-- Requests of other packages registered here as their shadow peer (R337). -/
  registrations : List Serve
  /-- Models by partition × 16 + slot. -/
  models : Map (Option ModelPackage)
  policy : Map Policy
  pairs : Map QPair
  /-- The step each partition runs. -/
  steps : Map (Option ServeStep)
  stepCount : Map Nat
  /-- Counters and table slots (whose buffers are the pages of that slot) quarantined until a time (R335). -/
  quarantine : List (Nat × Nat)
  quarantined : List (Nat × Nat)
  /-- Stack halves whose Shared commands Quiley holds (R336): stack × 2 + half, and since when it was idle. -/
  repairHold : List (Nat × Nat)
  /-- When the leader's SCC took the queues up (R313). -/
  resumedAt : Nat
  /-- Request slots that the step watched by a monitor carries, by die × 64 + monitor (R359). -/
  watches : Map (List Nat)
  /-- The number of the next request. -/
  nextUid : Nat
  /-- Stack commands of steps not yet sent, in the order in which they go; and groups with members still to be sent. -/
  unsent : List StepCmd
  groups : List StepGroup
  /-- When the gap after each partition's last step ends (R329). -/
  gapUntil : Map Nat
  /-- Page copies that have ended: what they moved and their status (R214). -/
  landed : List ((Nat × Nat × Nat × Nat) × Nat)
deriving DecidableEq, Repr

/-! ### Housekeeping -/

/-- A current channel (R368 to R372), beside its registers. Currents are in mA, voltages in mV. -/
structure Chan where
  /-- Successive samples below the low-range point, and invalid samples a switch still has to come. -/
  lowRun : Nat
  invalidLeft : Nat
  /-- Voltages of the invalid samples that wait for interpolation, oldest first, and the last valid sample. -/
  pendMv : List Nat
  lastValid : Nat
  tripRun : Nat
  mismatchRun : Nat
  /-- Since when every sample has been below warn_a; since when a failed channel has read valid. -/
  belowSince : Option Nat
  goodSince : Option Nat
  /-- The last sample as the package total counts it, and its voltage. -/
  capMa : Nat
  mv : Nat
  /-- Energy below one µJ, in pJ. -/
  ePj : Nat
deriving DecidableEq, Repr

/-- The command types of the AVSBus that the package uses (R378). No rule has the HKC send a status read or read a voltage
back. -/
inductive AvsKind where
  | setVolt | readVolt | readCur | readTemp | status | off
deriving DecidableEq, Repr

/-- Waiting AVSBus transactions (R379): urgency class, rail select, command type, target in mV, and tries so far. -/
structure AvsReq where
  urgency : Nat
  sel : Nat
  kind : AvsKind
  mv : Nat
  tries : Nat
deriving DecidableEq, Repr

/-- One die's housekeeping controller, beside its registers. -/
structure Hk where
  /-- Core clock limits in units of 50 MHz: power (R39) and thermal (R375), 38 for none; the clock at which the thermal
  limit began; and the 1.2 GHz holds of R365 and R383. -/
  powerLim : Nat
  thermLim : Nat
  thermEntry : Nat
  holdPll : Bool
  holdCap : Bool
  /-- A raise that waits for its voltage; the time before which none is begun after a failed one (R380), and that before which
  none is begun for the cap while the estimator is stale (R374). -/
  raiseTo : Option Nat
  raiseNotBefore : Nat
  staleNotBefore : Nat
  chans : List Chan
  /-- Die diode readings of the last 8 ms, newest first; the stack diodes' readings, a list for each. -/
  history : List Int
  stackHist : List (List Int)
  rateOn : Bool
  uvRun : Nat
  /-- The die diode is at its throttle threshold; the cores are stopped (R375, R377). -/
  throttling : Bool
  stopped : Bool
  /-- The rails still to turn off in a power-down (R377), none while none runs; the rail turned off last, and when. -/
  downRails : Option (List Rail)
  offRail : Option Rail
  offAt : Nat
  avs : List AvsReq
  /-- Regulator currents in mA and temperatures in 1/16 °C as last read, by select (R367). -/
  railCur : Map Int
  railTemp : Map Int
  /-- Estimator coefficients c0–c7 in 1/65536 (R373), quiet windows in a row, recent windows, time of the last update. -/
  coeff : List Int
  quietRun : Nat
  windows : List (List Nat)
  refAt : Nat
  /-- Rail and port whose turn it is in the scan round, the eye margins by port, the time of the round, and that of each
  reading: a diode at its number, a rail's voltage 16 above its channel, a regulator 32 above its select, an eye margin 48 above
  its port (R367). -/
  roundRail : Nat
  roundPort : Nat
  eyes : Map Nat
  readAt : Nat
  times : Map Nat
  /-- Heartbeats (R382 to R384): the peer's boot stamp and epoch as last received, the time of the last one, none once their
  loss is declared, and since when they have come without a gap. -/
  stamp : BitVec 32
  peerEpoch : Nat
  lastBeat : Option Nat
  beatsSince : Option Nat
  lastCap : Nat
  /-- The other die's total in µW, as the sideband last carried it (R37, R366). -/
  peerUw : Nat
  /-- Wedge detection (R385). -/
  probeMisses : Nat
  beatSeen : Nat
  beatAt : Nat
  /-- A wake that came during an entry (R396). -/
  wakePending : Bool
  diodeNow : Int
deriving DecidableEq, Repr

/-- Package-level power control of the leader (R37 to R39). -/
structure PowerCap where
  total : Nat
  /-- First sample above 2,800 W, and whether the sustained cap holds until a quiet 100 ms. -/
  t0 : Option Nat
  spent : Bool
  below2800 : Option Nat
  below2700 : Option Nat
  alert3300 : Bool
  /-- The total has been evaluated since the clocks were last raised a step. -/
  fresh : Bool
deriving DecidableEq, Repr

/-- What the repair map holds of a stack (R158, R270). -/
structure StackRepair where
  stack : Nat
  nbuRetired : Map Nat
  unavailable : List Nat
  rowsUsed : Map Nat
  rowsReplaced : List (Nat × Nat)
  vcUsed : Map Nat
  retiredGranules : List Nat
deriving DecidableEq, Repr

/-- The repair map (R270, R403): what changed since the factory. -/
structure RepairMap where
  stks : List StackRepair
  roles : Map (Option CoreRole)
  /-- Ports whose spare lane is in use, with the lane it stands for (R289). -/
  lanes : List (Nat × Nat)
deriving DecidableEq, Repr

/-- One copy of one area of the configuration store (R403). -/
structure StoreCopy where
  sequence : Nat
  committed : Bool
  crcOk : Bool
  /-- Data area: module ID recorded; repairs recorded. Firmware area: versions of the two images. -/
  moduleId : Option Nat
  repairs : RepairMap
  hkVer : Nat
  sccVer : Nat
deriving DecidableEq, Repr

/-- A store write in progress or waiting (R404): area, target copy, and operations done. -/
structure StoreWrite where
  area : Nat
  copy : Nat
  ops : Nat
  /-- What the write carries, taken as it began. -/
  moduleId : Option Nat
  repairs : RepairMap
  hkVer : Nat
  sccVer : Nat
deriving DecidableEq, Repr

/-- The configuration store (R403 to R407). -/
structure Store where
  dataA : StoreCopy
  dataB : StoreCopy
  fwA : StoreCopy
  fwB : StoreCopy
  /-- Copies in use: false A, true B. -/
  dataUse : Bool
  fwUse : Bool
  writing : Option StoreWrite
  pendingData : Bool
  pendingFw : Bool
  /-- Identity to record with the next data write. -/
  persistId : Option Nat
  /-- Versions of the images now running (R407), and a fuse programming that waits for temperature. -/
  runHk : Nat
  runScc : Nat
  svnWaiting : Bool
  /-- Areas whose last write was stopped before its commit, not yet found by a boot. -/
  stopped : List Nat
deriving DecidableEq, Repr

/-- A deadline monitor (R361), beside its registers. -/
structure Monitor where
  armedLate : Bool
  recorded : Bool
deriving DecidableEq, Repr

/-- A fault record (R439). -/
structure FaultRec where
  time : Nat
  source : BitVec 32
  code : Nat
  flags : Nat
  arg : Word
  detail : Word
deriving DecidableEq, Repr

/-- What leaves the package, oldest first. -/
inductive Out where
  /-- A host read completion: data, Unsupported Request, or EP. -/
  | cplData (bytes : List Byte)
  | cplUr
  | cplEp
  | errNonfatal (kind : Nat)
  /-- An access of the SCC, of a strand to a register or of a packet completes with an error at its requester (R24, R34). -/
  | accessError (who : Who)
  | msix (function vector : Nat)
  /-- A write into host memory by a function. -/
  | hostWr (function addr : Nat) (bytes : List Byte)
  /-- A packet sent on a port; one queued for a port stands with the port. -/
  | sent (port : Nat) (pkt : Packet)
  /-- A replay from a packet number asked of a port's partner (R296). -/
  | askReplay (port seq : Nat)
  | mgmt (bytes : List Nat)
  | mgmtNotAvailable
  | platformEvent (kind : Nat)
  /-- What a JTAG instruction shifts out: 0 BYPASS, 1 IDCODE, 2 SAMPLE/PRELOAD, 3 EXTEST, 4 a private instruction, with its
  data. -/
  | jtag (what : Nat) (data : List Byte)
  /-- An I3C in-band interrupt: a new fault record (R419). -/
  | i3cInterrupt
  /-- A heartbeat a die sends over the bridge sideband (R382): its epoch, its claim and its boot stamp. -/
  | heartbeat (die : Die) (epoch : Nat) (claim : Bool) (stamp : BitVec 32)
deriving DecidableEq, Repr

/-- Host-side state of the endpoint and the management side (R410 to R425). -/
structure Ports2 where
  linkUp : Bool
  /-- Functions that have been reset and not yet configured. -/
  inReset : List Nat
  eid : Option Nat
  i3cAddr : Option Nat
  /-- The challenge outstanding, by its number, and the time before which none is answered (R425). -/
  challenge : Option Nat
  challenges : Nat
  challengeNotBefore : Nat
  /-- The update agent being served, and the bytes each component has received (R423). -/
  agent : Option Nat
  updHk : List Byte
  updScc : List Byte
  verified : Bool
  boots : Nat
  /-- MSI-X tables by (function × 32 + vector) × 4 + word, the vector control word with its mask bit inverted; vectors pending
  while masked, by function × 32 + vector (R411, R412). -/
  msixTab : Map Word
  msixPend : List Nat
  /-- DMA channels whose last descriptor ended with an error (R416). -/
  dmaErr : List Nat
deriving DecidableEq, Repr

/-- One write of the step under way: bytes at an address, a span made zero, or a span copied to another place. -/
inductive MemOp where
  | put (addr : Nat) (bytes : List Byte)
  | clear (addr len : Nat)
  | copy (src dst len : Nat)
deriving DecidableEq, Repr

/-- A request held at a stopped domain's crossing (R34, R395). -/
inductive Held where
  | hostWrite (addr : Nat) (bytes : List Byte) (ep : Bool)
  | hostRead (addr len : Nat)
  /-- A request of another package; `mute` where its source was lost meanwhile and its response is discarded (R305). -/
  | packet (port : Nat) (pkt : Packet) (mute : Bool)
  /-- A management read of a register, and the MGMT packet that asked, with its port, where one did (R420, R422). -/
  | mgmtRead (asker : Option (Nat × Packet)) (addr : Nat)
  | regWrite (who : Who) (addr size : Nat) (value : Word)
  /-- A private operation of the test port (R424). -/
  | jtag (op : JtagPrivate)
deriving DecidableEq, Repr

/-- The package. -/
structure State where
  /-- Waiting commands, first in, first out. -/
  pending : List Instr
  fuses : Fuses
  pins : Pins
  /-- System time in ns (R297). -/
  now : Nat
  /-- Time in which each die's cores could issue, in eighths of a ns (R96, R376). -/
  issue8 : Pair Nat
  /-- Core cycles of each die, in 1/8000 of a cycle. -/
  cycle8 : Pair Nat
  /-- The registers of the register pages, by offset in register space; unlisted reads its reset value. -/
  regs : Map Word
  /-- Snapshots of frozen counters, by offset in register space (R435). -/
  snap : Map Word
  /-- Stack, Reservoir and scratchpad storage and record rings, by local address; unlisted reads zero. -/
  mem : List Host.Cell
  /-- The writes of the step under way, newest first; empty between steps (the model's own). -/
  bus : List MemOp
  /-- Check state of units, by unit base address; unlisted is sound. -/
  units : Map UnitState
  /-- Strands, by key of their context; unlisted is Free. -/
  strands : Map (Option Strand)
  cores : Map (Option Core)
  /-- Physical cores whose role differs from the factory map. -/
  roles : Map (Option CoreRole)
  launches : List Launch
  /-- Submitted descriptors that were killed before SCHED read them, by die, ring and index (R53). -/
  doomed : List Nat
  /-- Merge entries of the multicast units of both dies (R118). -/
  mcast : List McastEntry
  nextMcast : Nat
  tlb : List TlbEntry
  inval : List Inval
  parkSeq : Nat
  layout : Pair Layout
  stk : Map (Option Stack)
  basin : Pair Basin
  pool : Pair Pool
  scrub : Map (Option Scrubber)
  /-- Errors met in a core's SRAM that are not injected, by core: twice the bank, plus 1 for an uncorrectable one, and the
  time (R270). -/
  sramErrs : Map (List (Nat × Nat))
  maint : List Maint
  /-- Raw GiB, failure and initialisation of Reservoir controllers are registers; initialising ones are listed here. -/
  rvrInit : List Nat
  rvrNormal : Map Nat
  ports : Map (Option Port)
  requests : List Request
  /-- Requests that wait for one of a die's 4,096 to end (R290), with their packets. -/
  reqWait : List (Request × Packet)
  nextReq : Pair Nat
  /-- Inbound windows, by partition × 32 + window × 4 + word (R289). -/
  windows : Map Word
  /-- Half a unit forwarded that a die's VROUTE_TRANSIT_UNITS does not show yet (R310). -/
  transitHalf : Pair Bool
  /-- Routing table, by entry (R293). -/
  routes : Map Word
  /-- LOSS packets seen, by lost module and boot stamp (R303), and modules in grace with the time of arrival. -/
  lossSeen : List (Nat × BitVec 32)
  lossGrace : List (Nat × Nat)
  shadow : Pair (List Shadow)
  time : TimeTree
  quiley : Quiley
  hk : Pair Hk
  /-- Since when, at the earliest, the conditions of R389 may have held on each die, and those of R391. -/
  lullFrom : Pair Nat
  calmFrom : Nat
  /-- What boot needs to know, where the reset has ended and a store write still runs (R398). -/
  bootWaits : Option BootFacts
  cap : PowerCap
  store : Store
  monitors : Map (Option Monitor)
  /-- Records queued by each block for its die's log, by page offset (R441). -/
  recQueue : Map (List FaultRec)
  /-- The fault logs, by die × 4096 + position. -/
  faultLog : Map (Option FaultRec)
  /-- Record number latched for each die, and the record, zero when stale. -/
  logLatch : Pair (Option FaultRec)
  host : Ports2
  held : List Held
  out : List Out
  /-- Free values taken so far (the model's own). -/
  fresh : Nat
deriving DecidableEq, Repr

/-! ### Reset -/

/-- The fuses of the part the model starts from (log 14). -/
def Fuses.factory : Fuses where
  variant := .f
  activeDie := .windward
  spares := ⟨[96, 97, 98, 99, 100, 101, 102, 103], [96, 97, 98, 99, 100, 101, 102, 103]⟩
  hkSvn := 0
  sccSvn := 0
  keyRevoked := [false, false, false, false]
  voltMv := [(24, 650), (25, 668), (26, 686), (27, 704), (28, 721), (29, 739), (30, 757), (31, 775), (32, 793), (33, 811),
    (34, 829), (35, 846), (36, 864), (37, 882), (38, 900)]

/-- Pins with VDD_HK up and PKG_RST_N held low by the board (R452 steps 1 and 2). -/
def Pins.coldReset : Pins where
  pkgRstN := false
  perstN := false
  thermTripN := true
  pwrAlertN := true
  rails := [.hk]
  clkLost := []

/-- A channel at reset (R368). -/
def Chan.reset : Chan where
  lowRun := 0
  invalidLeft := 0
  pendMv := []
  lastValid := 0
  tripRun := 0
  mismatchRun := 0
  belowSince := some 0
  goodSince := none
  capMa := 0
  mv := 0
  ePj := 0

/-- A housekeeping controller at cold reset: no limit in force. -/
def Hk.reset : Hk where
  powerLim := 38
  thermLim := 38
  thermEntry := 38
  holdPll := false
  holdCap := false
  raiseTo := none
  raiseNotBefore := 0
  staleNotBefore := 0
  chans := [Chan.reset, Chan.reset, Chan.reset, Chan.reset, Chan.reset]
  history := []
  stackHist := [[], [], [], [], [], [], [], []]
  rateOn := false
  uvRun := 0
  throttling := false
  stopped := false
  downRails := none
  offRail := none
  offAt := 0
  avs := []
  railCur := []
  railTemp := []
  coeff := [0, 0, 0, 0, 0, 0, 0, 0]
  quietRun := 0
  windows := []
  refAt := 0
  roundRail := 0
  roundPort := 0
  eyes := []
  readAt := 0
  times := []
  stamp := 0
  peerEpoch := 0
  lastBeat := none
  beatsSince := none
  lastCap := 0
  peerUw := 0
  probeMisses := 0
  beatSeen := 0
  beatAt := 0
  wakePending := false
  diodeNow := 0

/-- A copy of the configuration store that holds nothing valid (R403). -/
def StoreCopy.empty : StoreCopy where
  sequence := 0
  committed := false
  crcOk := false
  moduleId := none
  repairs := ⟨[], [], []⟩
  hkVer := 0
  sccVer := 0

/-- A committed copy with a sequence number. -/
def StoreCopy.factory (seq : Nat) : StoreCopy where
  sequence := seq
  committed := true
  crcOk := true
  moduleId := none
  repairs := ⟨[], [], []⟩
  hkVer := 0
  sccVer := 0

/-- The store of a part that has never been written since the factory (log 14). -/
def Store.factory : Store where
  dataA := StoreCopy.factory 1
  dataB := StoreCopy.empty
  fwA := StoreCopy.factory 1
  fwB := StoreCopy.empty
  dataUse := false
  fwUse := false
  writing := none
  pendingData := false
  pendingFw := false
  persistId := none
  runHk := 0
  runScc := 0
  svnWaiting := false
  stopped := []

/-- Quiley before it starts (R399 step 9). -/
def Quiley.absent : Quiley where
  running := false
  reqs := []
  registrations := []
  models := []
  policy := []
  pairs := []
  steps := []
  stepCount := []
  quarantine := []
  repairHold := []
  resumedAt := 0
  watches := []
  quarantined := []
  nextUid := 0
  unsent := []
  groups := []
  gapUntil := []
  landed := []

/-- The package right after a cold reset (R397): VDD_HK is up, PKG_RST_N is low, every register reads its reset value,
nothing is stored, nothing runs and no command waits. -/
def State.reset : State where
  pending := []
  fuses := Fuses.factory
  pins := Pins.coldReset
  now := 0
  issue8 := ⟨0, 0⟩
  cycle8 := ⟨0, 0⟩
  regs := []
  snap := []
  mem := []
  bus := []
  units := []
  strands := []
  cores := []
  roles := []
  launches := []
  doomed := []
  mcast := []
  nextMcast := 0
  tlb := []
  inval := []
  parkSeq := 0
  layout := ⟨⟨[], 15, 0⟩, ⟨[], 15, 0⟩⟩
  stk := []
  basin := ⟨⟨[], [], [], []⟩, ⟨[], [], [], []⟩⟩
  pool := ⟨⟨[], []⟩, ⟨[], []⟩⟩
  scrub := []
  sramErrs := []
  maint := []
  rvrInit := []
  rvrNormal := []
  ports := []
  requests := []
  reqWait := []
  nextReq := ⟨0, 0⟩
  windows := []
  routes := []
  transitHalf := ⟨false, false⟩
  lossSeen := []
  lossGrace := []
  shadow := ⟨[], []⟩
  time := ⟨none, 0, 0, 0, 0⟩
  quiley := Quiley.absent
  hk := ⟨Hk.reset, Hk.reset⟩
  lullFrom := ⟨0, 0⟩
  calmFrom := 0
  bootWaits := none
  cap := ⟨0, none, false, none, none, false, false⟩
  store := Store.factory
  monitors := []
  recQueue := []
  faultLog := []
  logLatch := ⟨none, none⟩
  host := ⟨false, [], none, none, none, 0, 0, none, [], [], false, 0, [], [], []⟩
  held := []
  out := []
  fresh := 0

end Sys2Proof.Machine
end

