-- ==== Sys2Proof/Machine/Bits.lean ====
section
/-!
DEFINITION. Tables, bit fields, byte order and dies: the small arithmetic every meaning shares.
-/
namespace Sys2Proof

/-! ### Dies -/

/-- The die's number (R19). -/
def Die.idx : Die → Nat
  | .windward => 0
  | .leeward => 1

def Die.other : Die → Die
  | .windward => .leeward
  | .leeward => .windward

/-- The die with a number; every odd number is Leeward. -/
def dieOf (n : Nat) : Die :=
  if n % 2 = 0 then .windward else .leeward

def Pair.get {α : Type} (p : Pair α) : Die → α
  | .windward => p.w
  | .leeward => p.l

def Pair.set {α : Type} (p : Pair α) (d : Die) (v : α) : Pair α :=
  match d with
  | .windward => ⟨v, p.l⟩
  | .leeward => ⟨p.w, v⟩

/-- The key of a strand context: 768 to a die, 8 to a logical core. -/
def Sid.key (i : Sid) : Nat := (i.die.idx * 96 + i.core) * 8 + i.ctx

/-! ### Sparse tables -/

/-- The entry at a key, the default where none is listed. -/
def mget {α : Type} (d : α) : Map α → Nat → α
  | [], _ => d
  | (k, v) :: r, i => if i = k then v else mget d r i

/-- The table without a key. -/
def mdel {α : Type} : Map α → Nat → Map α
  | [], _ => []
  | (k, v) :: r, i => if i = k then mdel r i else (k, v) :: mdel r i

/-- The table with an entry at a key, keys kept rising. -/
def mput {α : Type} (i : Nat) (x : α) : Map α → Map α
  | [] => [(i, x)]
  | (k, v) :: r => if i < k then (i, x) :: (k, v) :: r else if i = k then (i, x) :: r else (k, v) :: mput i x r

/-- The table with the value at a key; the default is not listed. -/
def mset {α : Type} [DecidableEq α] (d : α) (m : Map α) (i : Nat) (x : α) : Map α :=
  if x = d then mdel m i else mput i x m

/-- Keys strictly rising above a bound, and no entry equal to the default. -/
def mwfFrom {α : Type} [DecidableEq α] (d : α) : Nat → Map α → Bool
  | _, [] => true
  | b, (k, v) :: r => decide (b ≤ k) && decide (v ≠ d) && mwfFrom d (k + 1) r

/-- The canonical form of a table. -/
def mwf {α : Type} [DecidableEq α] (d : α) (m : Map α) : Bool := mwfFrom d 0 m

/-- The table's entries changed by a function of key and value; entries that become the default are dropped. -/
def mmap {α : Type} [DecidableEq α] (d : α) (f : Nat → α → α) : Map α → Map α
  | [] => []
  | (k, v) :: r => if f k v = d then mmap d f r else (k, f k v) :: mmap d f r

/-! ### Bit fields -/

/-- Bits [lo+n-1:lo] of a number. -/
def bits (x lo n : Nat) : Nat := x / 2 ^ lo % 2 ^ n

/-- Bit `lo` of a number. -/
def bit (x lo : Nat) : Bool := x / 2 ^ lo % 2 == 1

/-- The number with bits [lo+n-1:lo] replaced. -/
def setBits (x lo n v : Nat) : Nat := x - bits x lo n * 2 ^ lo + v % 2 ^ n * 2 ^ lo

def boolNat (b : Bool) : Nat := if b then 1 else 0

/-- A 64-bit word from a number. -/
def w64 (n : Nat) : Word := BitVec.ofNat 64 n

/-- The two's complement value of the low `n` bits. -/
def signed (x n : Nat) : Int := if x % 2 ^ n < 2 ^ (n - 1) then (x % 2 ^ n : Nat) else (x % 2 ^ n : Nat) - (2 ^ n : Nat)

/-- An integer in `n` bits of two's complement. -/
def unsignedOf (x : Int) (n : Nat) : Nat := (x % (2 ^ n : Nat)).toNat

def ceilDiv (a b : Nat) : Nat := (a + b - 1) / b

/-- Number of set bits among the low `n`. -/
def popcount (x : Nat) : Nat → Nat
  | 0 => 0
  | n + 1 => popcount x n + x / 2 ^ n % 2

/-- The positions of the set bits among the low `n`, rising. -/
def bitList (x n : Nat) : List Nat := (List.range n).filter (fun i => bit x i)

/-! ### Byte order (R14: little-endian) -/

/-- The number a byte list spells, first byte least significant. -/
def leNat : List Byte → Nat
  | [] => 0
  | b :: r => b.toNat + 256 * leNat r

/-- The low `n` bytes of a number, least significant first. -/
def leBytes : Nat → Nat → List Byte
  | 0, _ => []
  | n + 1, x => BitVec.ofNat 8 x :: leBytes n (x / 256)

/-- `len` bytes of a list from an offset, zero past its end. -/
def byteSlice (b : List Byte) (off len : Nat) : List Byte :=
  let r := (b.drop off).take len
  r ++ List.replicate (len - r.length) 0

/-- The little-endian number in `len` bytes at an offset. -/
def leAt (b : List Byte) (off len : Nat) : Nat := leNat (byteSlice b off len)

/-- A byte list with other bytes written over it from an offset. -/
def overlay (b : List Byte) (off : Nat) (x : List Byte) : List Byte :=
  b.take off ++ x ++ b.drop (off + x.length)

/-- A list cut into pieces of `n` bytes, `fuel` at most. -/
def chunks {α : Type} (n : Nat) : Nat → List α → List (List α)
  | 0, _ => []
  | fuel + 1, l => if l.isEmpty then [] else l.take n :: chunks n fuel (l.drop n)

/-! ### Lists -/

/-- Replace the first entry a test picks. -/
def replaceFirst {α : Type} (p : α → Bool) (f : α → α) : List α → List α
  | [] => []
  | x :: r => if p x then f x :: r else x :: replaceFirst p f r

/-- The next of the numbers 0–15 in a list after a last one, in round-robin order (R145, R172, R350). -/
def nextRound (last : Nat) (ready : List Nat) : Option Nat :=
  ((List.range 16).map (fun i => (last + 1 + i) % 16)).find? (fun p => ready.contains p)

def listMax (l : List Nat) : Nat := l.foldl Nat.max 0

/-- The least of a list by a key, the first among equals. -/
def minBy {α : Type} (key : α → Nat) : List α → Option α
  | [] => none
  | x :: r =>
    match minBy key r with
    | none => some x
    | some y => if key x ≤ key y then some x else some y

/-- ceil(log2 n), 0 for 0 and 1. -/
def clog2 (n : Nat) : Nat := if n ≤ 1 then 0 else Nat.log2 (n - 1) + 1

end Sys2Proof
end

