-- ==== Sys2Proof/Machine/Flags.lean ====
section
/-!
DEFINITION. Number formats, exact values, rounding and conversion, with the two flags a result element can raise
(R111 to R114, R126 to R129, R133, R134), and the four functions that the manual bounds and does not fix (R124).
-/
namespace Sys2Proof.Machine

/-- An exact value: a NaN, an infinity, or (−1)^neg × m × 2^e. -/
inductive Num where
  | nan
  | inf (neg : Bool)
  | fin (neg : Bool) (m : Nat) (e : Int)
deriving DecidableEq, Repr

/-- A floating-point element format (R126). `noInf`: overflow has no infinity; `noNan`: it has no NaN either. -/
structure FloatFmt where
  eb : Nat
  mb : Nat
  bias : Nat
  noInf : Bool
  noNan : Bool
deriving DecidableEq, Repr

/-- The floating-point format of a fmt code, none for the integer codes (R81, R126). -/
def floatFmt (c : Nat) : Option FloatFmt :=
  match c with
  | 0 => some ⟨8, 23, 127, false, false⟩
  | 1 => some ⟨8, 7, 127, false, false⟩
  | 2 => some ⟨4, 3, 7, true, false⟩
  | 3 => some ⟨5, 2, 15, false, false⟩
  | 4 => some ⟨3, 2, 3, true, true⟩
  | 5 => some ⟨2, 3, 1, true, true⟩
  | 6 => some ⟨2, 1, 1, true, true⟩
  | _ => none

/-- Width in bits of a fmt code (R126). -/
def fmtBits (c : Nat) : Nat :=
  match c with
  | 0 => 32 | 1 => 16 | 2 => 8 | 3 => 8 | 4 => 6 | 5 => 6 | 6 => 4 | 7 => 8 | 8 => 32 | 9 => 3 | _ => 0

/-- An integer as an exact value. -/
def Num.ofInt (x : Int) : Num := .fin (decide (x < 0)) x.natAbs 0

/-- The value of an element's bits (R126, R127). -/
def decodeNum (c x : Nat) : Num :=
  match floatFmt c with
  | none => Num.ofInt (signed x (fmtBits c))
  | some f =>
    let m := bits x 0 f.mb
    let e := bits x f.mb f.eb
    let s := bit x (f.mb + f.eb)
    if f.noInf then
      if !f.noNan && e == 2 ^ f.eb - 1 && m == 2 ^ f.mb - 1 then .nan
      else if e = 0 then .fin s m (1 - f.bias - f.mb) else .fin s (m + 2 ^ f.mb) ((e : Int) - f.bias - f.mb)
    else if e = 2 ^ f.eb - 1 then (if m = 0 then .inf s else .nan)
    else if e = 0 then .fin s m (1 - f.bias - f.mb)
    else .fin s (m + 2 ^ f.mb) ((e : Int) - f.bias - f.mb)

/-- The value of a scale byte (R129). -/
def decodeScale (e4m3 : Bool) (b : Nat) : Num :=
  if e4m3 then decodeNum 2 b else if b = 0xFF then .nan else .fin false 1 ((b : Int) - 127)

/-! ### Exact arithmetic (R111) -/

def Num.isNan : Num → Bool
  | .nan => true
  | _ => false

def Num.isZero : Num → Bool
  | .fin _ 0 _ => true
  | _ => false

def Num.neg : Num → Num
  | .nan => .nan
  | .inf s => .inf !s
  | .fin s m e => .fin (!s) m e

def Num.signBit : Num → Bool
  | .nan => false
  | .inf s => s
  | .fin s _ _ => s

/-- Signed magnitude at a common exponent. -/
def scaledInt (s : Bool) (m : Nat) (e q : Int) : Int :=
  let v : Int := m * 2 ^ (e - q).toNat
  if s then -v else v

/-- Exact product; infinity times zero is NaN. -/
def Num.mul (a b : Num) : Num :=
  match a, b with
  | .nan, _ => .nan
  | _, .nan => .nan
  | .inf s, .inf t => .inf (s != t)
  | .inf s, .fin t m _ => if m = 0 then .nan else .inf (s != t)
  | .fin s m _, .inf t => if m = 0 then .nan else .inf (s != t)
  | .fin s m e, .fin t n f => .fin (s != t) (m * n) (e + f)

/-- Exact sum; opposite infinities give NaN, and a zero sum is −0 only when both are −0. -/
def Num.add (a b : Num) : Num :=
  match a, b with
  | .nan, _ => .nan
  | _, .nan => .nan
  | .inf s, .inf t => if s = t then .inf s else .nan
  | .inf s, .fin _ _ _ => .inf s
  | .fin _ _ _, .inf t => .inf t
  | .fin s m e, .fin t n f =>
    let q := min e f
    let v := scaledInt s m e q + scaledInt t n f q
    if v = 0 then .fin (s && t && m == 0 && n == 0) 0 0 else .fin (decide (v < 0)) v.natAbs q

/-- Order of two values that are not NaN; −0 and +0 are equal. -/
def Num.lt (a b : Num) : Bool :=
  match a, b with
  | .nan, _ => false
  | _, .nan => false
  | .inf s, .inf t => s && !t
  | .inf s, .fin _ _ _ => s
  | .fin _ _ _, .inf t => !t
  | .fin s m e, .fin t n f => let q := min e f; decide (scaledInt s m e q < scaledInt t n f q)

/-- The greater of two values; NaN if either is, and −0 lies below +0 (R122). -/
def Num.max (a b : Num) : Num :=
  if a.isNan || b.isNan then .nan
  else if a.lt b then b
  else if b.lt a then a
  else if a.isZero && a.signBit then b else a

/-- The lesser of two values under the same order. -/
def Num.min (a b : Num) : Num :=
  if a.isNan || b.isNan then .nan
  else if a.lt b then a
  else if b.lt a then b
  else if b.isZero && b.signBit then b else a

/-! ### Rounding -/

/-- floor(log2(n ÷ d × 2^e)) for n, d > 0. -/
def floorLog (n d : Nat) (e : Int) : Int :=
  let k : Int := (Nat.log2 n : Int) - Nat.log2 d
  let below : Bool := if 0 ≤ k then decide (n < d * 2 ^ k.toNat) else decide (n * 2 ^ (-k).toNat < d)
  (if below then k - 1 else k) + e

/-- n ÷ d × 2^e in whole units of 2^q, rounded under rnd: 0 nearest even, 1 toward zero, 2 stochastic with the sixteen
bits `r` added just below the last kept bit (R113). -/
def roundMag (n d : Nat) (e q : Int) (rnd r : Nat) : Nat :=
  let num := if q ≤ e then n * 2 ^ (e - q).toNat else n
  let den := if q ≤ e then d else d * 2 ^ (q - e).toNat
  let k := num / den
  let rem := num % den
  if rnd = 1 then k
  else if rnd = 2 then (num * 65536 + r * den) / (den * 65536)
  else if den < 2 * rem || (2 * rem == den && k % 2 == 1) then k + 1 else k

/-- A result element: its bits, and whether it counts as NaN and as overflowed (R114). -/
structure Elem where
  bits : Nat
  nan : Bool
  ovf : Bool
deriving DecidableEq, Repr

/-- Bits of a finite magnitude k × 2^q that the format holds. -/
def packFloat (f : FloatFmt) (s : Bool) (k : Nat) (q : Int) : Nat :=
  let sign := boolNat s * 2 ^ (f.mb + f.eb)
  if k = 0 then sign
  else
    let ex := floorLog k 1 q
    let emin : Int := 1 - f.bias
    if ex < emin then sign + roundMag k 1 q (emin - f.mb) 1 0
    else
      let m := roundMag k 1 q (ex - f.mb) 1 0
      sign + (ex + f.bias).toNat * 2 ^ f.mb + (m - 2 ^ f.mb)

/-- Bits of the largest finite value of a format, without its sign. -/
def largestBits (f : FloatFmt) : Nat :=
  if f.noNan then 2 ^ (f.eb + f.mb) - 1
  else if f.noInf then 2 ^ (f.eb + f.mb) - 2
  else (2 ^ f.eb - 1) * 2 ^ f.mb - 1

/-- The largest finite value of a fmt code; 3 for INT3 (R126, R134). -/
def largest (c : Nat) : Num :=
  match floatFmt c with
  | some f => decodeNum c (largestBits f)
  | none => .fin false (2 ^ (fmtBits c - 1) - 1) 0

/-- The canonical NaN of a format, or its largest value where it has none (R111, R112). -/
def nanBits (f : FloatFmt) : Nat :=
  if f.noNan then largestBits f
  else if f.noInf then 2 ^ (f.eb + f.mb) - 1
  else (2 ^ f.eb - 1) * 2 ^ f.mb + 2 ^ (f.mb - 1)

/-- (−1)^s × n ÷ d × 2^e rounded once into a floating-point format (R112). -/
def roundFloat (f : FloatFmt) (rnd : Nat) (sat : Bool) (r : Nat) (s : Bool) (n d : Nat) (e : Int) : Elem :=
  let sign := boolNat s * 2 ^ (f.mb + f.eb)
  if n = 0 then ⟨sign, false, false⟩
  else
    let q := Max.max (floorLog n d e - f.mb) (1 - f.bias - f.mb)
    let k := roundMag n d e q rnd r
    let big := Num.lt (decodeNumBits f) (.fin false k q)
    if big then
      if sat || rnd == 1 || f.noNan then ⟨sign + largestBits f, false, true⟩
      else if f.noInf then ⟨nanBits f, true, true⟩
      else ⟨sign + (2 ^ f.eb - 1) * 2 ^ f.mb, false, true⟩
    else ⟨packFloat f s k q, false, false⟩
where
  /-- The largest finite value of the format. -/
  decodeNumBits (f : FloatFmt) : Num :=
    let b := largestBits f
    .fin false (bits b 0 f.mb + 2 ^ f.mb) ((bits b f.mb f.eb : Int) - f.bias - f.mb)

/-- (−1)^s × n ÷ d × 2^e rounded once into a two's complement integer of w bits (R112). A value beyond its range
wraps without sat, for INT3 too, which has no row in R112 (DESIGN CHOICE, log 126). -/
def roundInt (w rnd : Nat) (sat : Bool) (r : Nat) (s : Bool) (n d : Nat) (e : Int) : Elem :=
  let k := roundMag n d e 0 rnd r
  let v : Int := if s then -(k : Int) else k
  let hi : Int := 2 ^ (w - 1) - 1
  let lo : Int := -(2 ^ (w - 1))
  if v < lo ∨ hi < v then
    if sat then ⟨unsignedOf (if s then lo else hi) w, false, true⟩ else ⟨unsignedOf v w, false, true⟩
  else ⟨unsignedOf v w, false, false⟩

/-- Conversion of an exact value to a fmt code by one rounding (R112). -/
def convert (c rnd : Nat) (sat : Bool) (r : Nat) (x : Num) : Elem :=
  match floatFmt c with
  | some f =>
    match x with
    | .nan => ⟨nanBits f, true, false⟩
    | .inf s =>
      let sign := boolNat s * 2 ^ (f.mb + f.eb)
      if sat || f.noNan then ⟨sign + largestBits f, false, true⟩
      else if f.noInf then ⟨nanBits f, true, false⟩
      else ⟨sign + (2 ^ f.eb - 1) * 2 ^ f.mb, false, false⟩
    | .fin s m e => roundFloat f rnd sat r s m 1 e
  | none =>
    let w := fmtBits c
    match x with
    | .nan => ⟨0, true, false⟩
    | .inf s => ⟨if s then 2 ^ (w - 1) else 2 ^ (w - 1) - 1, false, true⟩
    | .fin s m e => roundInt w rnd sat r s m 1 e

/-- Conversion of an exact quotient by one rounding (R134, R204). -/
def convertDiv (c rnd : Nat) (sat : Bool) (r : Nat) (a b : Num) : Elem :=
  match a, b with
  | .fin s m e, .fin t n g =>
    if n = 0 then convert c rnd sat r (if m = 0 then .nan else .inf (s != t))
    else
      match floatFmt c with
      | some f => roundFloat f rnd sat r (s != t) m n (e - g)
      | none => roundInt (fmtBits c) rnd sat r (s != t) m n (e - g)
  | .fin s _ _, .inf t => convert c rnd sat r (.fin (s != t) 0 0)
  | .inf s, .fin t _ _ => convert c rnd sat r (.inf (s != t))
  | _, _ => convert c rnd sat r .nan

/-- Round to nearest even in FP32, as a value. -/
def rne32 (x : Num) : Num := decodeNum 0 (convert 0 0 false 0 x).bits
/-- Round to nearest even in BF16, as a value. -/
def rneBf16 (x : Num) : Num := decodeNum 1 (convert 1 0 false 0 x).bits
/-- FP32 bits of a value. -/
def bits32 (x : Num) : BitVec 32 := BitVec.ofNat 32 (convert 0 0 false 0 x).bits
def num32 (b : BitVec 32) : Num := decodeNum 0 b.toNat

/-- The random bits of stochastic rounding (R113). -/
def srBits (seed tile e : Nat) : Nat :=
  let m := 2 ^ 32
  let x0 := Nat.xor (Nat.xor (seed % m) (tile * 0x9e3779b9 % m)) (e * 0x85ebca6b % m)
  let x1 := Nat.xor x0 (x0 / 2 ^ 16) * 0x7feb352d % m
  let x2 := Nat.xor x1 (x1 / 2 ^ 15) * 0x846ca68b % m
  bits (Nat.xor x2 (x2 / 2 ^ 16)) 16 16

/-! ### Sums in fixed order -/

/-- One level of a balanced tree of adjacent pairs. -/
def treeLevel (f : Num → Num → Num) : List Num → List Num
  | a :: b :: r => f a b :: treeLevel f r
  | l => l

/-- A balanced tree over 2^n values. -/
def treeFold (f : Num → Num → Num) : Nat → List Num → Num
  | 0, l => l.headD (.fin false 0 0)
  | n + 1, l => treeFold f n (treeLevel f l)

/-- Sum of FP32 values rounded to nearest even. -/
def add32 (a b : Num) : Num := rne32 (a.add b)

/-- One lane of R123: the elements l, l + 256, … in ascending order. -/
def laneFold (f : Num → Num → Num) (z : Num) (a : List Num) (l : Nat) : Num :=
  ((List.range ((a.length + 255 - l) / 256)).map (fun i => a.getD (l + 256 * i) z)).foldl f z

/-- VRSUM's and VRMAX's fixed order (R123). -/
def vReduce (f : Num → Num → Num) (z : Num) (a : List Num) : Num :=
  treeFold f 8 ((List.range 256).map (laneFold f z a))

/-- The exact sum of products of two lists (R110). -/
def dotExact : List Num → List Num → Num
  | a :: r, b :: t => match r, t with
    | [], _ => a.mul b
    | _, [] => a.mul b
    | _, _ => (a.mul b).add (dotExact r t)
  | _, _ => .fin false 0 0

/-! ### Quantising (R134) -/

/-- The largest magnitude of a block. -/
def amax (l : List Num) : Num :=
  l.foldl (fun a x => match x with | .fin _ m e => a.max (.fin false m e) | .inf _ => .inf false | .nan => a) (.fin false 0 0)

/-- The least k with x ≤ y × 2^k, for positive finite values. -/
def ceilLogRatio (x y : Num) : Int :=
  match x, y with
  | .fin _ m e, .fin _ n f =>
    if m = 0 ∨ n = 0 then 0
    else
      let k := floorLog m n (e - f)
      -- the quotient is a power of two exactly when m = n × 2^(k − e + f)
      let j := k - (e - f)
      if (if 0 ≤ j then m == n * 2 ^ j.toNat else m * 2 ^ (-j).toNat == n) then k else k + 1
  | _, _ => 0

/-- The scale byte that quantises a block, and whether the block is bad (R134). -/
def quantScale (c : Nat) (e4m3 : Bool) (l : List Num) : Nat :=
  if l.any (fun x => match x with | .fin _ _ _ => false | _ => true) then (if e4m3 then 0x7F else 0xFF)
  else
    let a := amax l
    let lm := largest c
    if a.isZero then 0
    else if e4m3 then
      ((List.range 0x7F).find? (fun b => b ≠ 0 && !((decodeNum 2 b).mul lm).lt a)).getD 0x7E
    else (Max.max (-127) (Min.min 127 (ceilLogRatio a lm)) + 127).toNat

/-- The quantiser's INT3 values end at −3: a result of −4, which only a clamped scale gives, becomes −3 and counts as
overflowed (R128, R134, log 87). -/
def int3Floor (c : Nat) (x : Elem) : Elem := if c = 9 ∧ x.bits = 4 then ⟨5, false, true⟩ else x

/-- A block quantised: its scale byte and its values (R134). `r` gives the random bits of each element. -/
def quantBlock (c : Nat) (e4m3 : Bool) (rnd : Nat) (sat : Bool) (l : List (Num × Nat)) : Nat × List Elem :=
  let sb := quantScale c e4m3 (l.map (·.1))
  let bad := l.any (fun x => match x.1 with | .fin _ _ _ => false | _ => true)
  let zero := (amax (l.map (·.1))).isZero
  (sb, l.map (fun x => if bad || zero then ⟨0, false, false⟩ else int3Floor c (convertDiv c rnd sat x.2 x.1 (decodeScale e4m3 sb))))

/-! ### The bounded functions (R124) -/

/-- Fractional bits of the reference arithmetic. -/
def refBits : Nat := 96

/-- The product of the constants 2^(2^−i) over the set bits of a fraction, from bit `i` down; `c` is the constant for
bit `i` and `f` the fraction's bits that are left. -/
def expFrac : Nat → Nat → Nat → Nat → Nat
  | 0, _, _, acc => acc
  | n + 1, c, f, acc =>
    let acc' := if f / 2 ^ n % 2 = 1 then acc * c / 2 ^ refBits else acc
    expFrac n (Nat.sqrt (c * 2 ^ refBits)) f acc'

/-- 2^x for a finite x, to 96 fractional bits of its mantissa. -/
def refExp2 (s : Bool) (m : Nat) (e : Int) : Num :=
  let q : Int := -(refBits : Int)
  let mag := roundMag m 1 e q 1 0
  let v : Int := if s then -(mag : Int) else mag
  let n := v / (2 ^ refBits : Nat)
  let f := (v % (2 ^ refBits : Nat)).toNat
  .fin false (expFrac refBits (Nat.sqrt (2 * 2 ^ (2 * refBits))) f (2 ^ refBits)) (n - refBits)

/-- Bits of log2 of a mantissa in [1, 2), most significant first. -/
def logFrac : Nat → Nat → Nat → Nat
  | 0, _, acc => acc
  | n + 1, y, acc =>
    let z := y * y / 2 ^ refBits
    if 2 * 2 ^ refBits ≤ z then logFrac n (z / 2) (2 * acc + 1) else logFrac n z (2 * acc)

/-- log2 of a positive finite value. -/
def refLog2 (m : Nat) (e : Int) : Num :=
  let k := floorLog m 1 e
  let y := roundMag m 1 (e - k) (-(refBits : Int)) 1 0
  Num.add (Num.ofInt k) (.fin false (logFrac refBits y 0) (-(refBits : Int)))

/-- The weight of the last place of FP32 at a value's magnitude. -/
def ulp32 (x : Num) : Num :=
  match x with
  | .fin _ m e => if m = 0 then .fin false 1 (-149) else .fin false 1 (Max.max (floorLog m 1 e - 23) (-149))
  | _ => .fin false 1 (-149)

/-- A candidate lies within a bound of the reference. -/
def within (x ref bound : Num) : Bool :=
  match x with
  | .fin _ _ _ =>
    match x.add ref.neg with
    | .fin _ m e => !(bound.lt (.fin false m e))
    | _ => false
  | _ => false

/-- The part's own candidate where it meets the bound, otherwise the reference rounded to nearest (log 4). -/
def boundedResult (f : Config.Fn) (x ref bound : Num) : Num :=
  let c := num32 (Config.transcendental f (bits32 x))
  if within c ref bound then c else rne32 ref

/-- k ulp of FP32 at a value. -/
def ulps (k : Nat) (x : Num) : Num := Num.mul (.fin false k 0) (ulp32 x)

/-- VEXP2 (R124), for the unit `f`. -/
def fExp2 (f : Config.Fn) (x : Num) : Num :=
  match x with
  | .nan => .nan
  | .inf true => .fin false 0 0
  | .inf false => .inf false
  | .fin s m e =>
    if !(Num.lt x (.fin false 128 0)) then .inf false
    else if m = 0 then .fin false 1 0
    else
      let k := roundMag m 1 e 0 1 0
      let whole := if 0 ≤ e then true else k * 2 ^ (-e).toNat == m
      if whole && (!s || decide (k ≤ 149)) then .fin false 1 (if s then -(k : Int) else k)
      else
        let ref := if s && decide (200 < k) then .fin false 0 0 else refExp2 s m e
        boundedResult f x ref (ulps 2 ref)

/-- VLOG2 (R124), for the unit `f`. -/
def fLog2 (f : Config.Fn) (x : Num) : Num :=
  match x with
  | .nan => .nan
  | .inf true => .nan
  | .inf false => .inf false
  | .fin s m e =>
    if m = 0 then .inf true
    else if s then .nan
    else
      let k := floorLog m 1 e
      if m == 2 ^ Nat.log2 m then Num.ofInt k
      else
        let ref := refLog2 m e
        let near := !(x.lt (.fin false 1 (-1))) && !(Num.lt (.fin false 2 0) x)
        boundedResult f x ref (if near then .fin false 1 (-22) else ulps 2 ref)

/-- An exact quotient of integers to 96 bits past its leading bit. -/
def refDiv (n d : Nat) (e : Int) : Num :=
  let q := floorLog n d e - refBits
  .fin false (roundMag n d e q 1 0) q

/-- VRCP (R124). -/
def fRcp (x : Num) : Num :=
  match x with
  | .nan => .nan
  | .inf s => .fin s 0 0
  | .fin s m e =>
    if m = 0 then .inf s
    else
      let ref := refDiv 1 m (-e)
      let big := Num.lt (largest 0) ref
      let r := if m == 2 ^ Nat.log2 m then rne32 ref
        else if big then .inf false
        else boundedResult .vrcp (.fin false m e) ref (ulps 1 ref)
      if s then r.neg else r

/-- VRSQ (R124). -/
def fRsq (x : Num) : Num :=
  match x with
  | .nan => .nan
  | .inf s => if s then .nan else .fin false 0 0
  | .fin s m e =>
    if m = 0 then .inf s
    else if s then .nan
    else
      -- x = n × 2^(2h); 1/√x = 2^−h ÷ √n, with √n taken to 96 bits
      let odd := e % 2 != 0
      let n := if odd then 2 * m else m
      let h := (if odd then e - 1 else e) / 2
      let root := Nat.sqrt (n * 2 ^ (2 * refBits))
      let ref := refDiv (2 ^ refBits) root (-h)
      if root * root == n * 2 ^ (2 * refBits) && n == 2 ^ Nat.log2 n then ref
      else boundedResult .vrsq x ref (ulps 1 ref)

end Sys2Proof.Machine
end

