-- ==== Sys2Proof/Machine/Regs.lean ====
section
/-!
DEFINITION. The register pages as the manual lists them: where each register lies (R427, R428, R437), its width, its
fields with their access codes and reset values, and the plain reading and writing of one register's home.
-/
namespace Sys2Proof.Machine

/-- The access codes (R432). -/
inductive Acc where
  | ro | rw | rw1c | wo | rwl | ros
deriving DecidableEq, Repr

/-- A field: its bits, access code and reset value, and the range outside which a write leaves it unchanged. -/
structure Field where
  lo : Nat
  n : Nat
  acc : Acc
  reset : Nat
  range : Option (Nat × Nat)
deriving DecidableEq, Repr

/-- A register, or an array of `count` registers `stride` bytes apart, at an offset of its page. -/
structure RegDesc where
  off : Nat
  count : Nat
  stride : Nat
  width : Nat
  fields : List Field
deriving DecidableEq, Repr

namespace Blk
def core := 0x01
def pool := 0x02
def layout := 0x03
def bridge := 0x04
def basin := 0x05
def sched := 0x06
def scc := 0x07
def stk := 0x10
def se := 0x11
def scrub := 0x12
def rvr := 0x20
def vl := 0x30
def vroute := 0x31
def arrive := 0x32
def time := 0x33
def pcie := 0x40
def mgmt := 0x41
def hk := 0x50
def therm := 0x51
def meas := 0x52
def avs := 0x53
def pwrst := 0x54
def cfgst := 0x55
def lead := 0x56
def fault := 0x60
end Blk

/-- Offset in register space of a block's page (R427). -/
def pg (d : Die) (t i : Nat) : Nat := d.idx * 0x10000000 + t * 0x100000 + i * 0x1000

/-- Die, block type, instance and page offset of an offset in register space. -/
def regDie (a : Nat) : Die := dieOf (a / 0x10000000)
def regType (a : Nat) : Nat := a / 0x100000 % 0x100
def regInst (a : Nat) : Nat := a / 0x1000 % 0x100
def regOff (a : Nat) : Nat := a % 0x1000

/-- The control page of a partition in a stack's window (R187) has its registers in the same table, above the register
space. -/
def ctlPage (stack part : Nat) : Nat := 0x40000000 + stack * 0x100000 + part * 0x1000

/-- Instances of a block type on a die (R428). -/
def instances (active : Die) (d : Die) (t : Nat) : Nat :=
  if t = 0x01 then 104
  else if t = 0x10 ∨ t = 0x11 then 8
  else if t = 0x12 then 14
  else if t = 0x20 then 6
  else if t = 0x30 then 12
  else if t = 0x40 ∨ t = 0x55 then if d = active then 1 else 0
  else if t ∈ [0x02, 0x03, 0x04, 0x05, 0x06, 0x07, 0x31, 0x32, 0x33, 0x41, 0x50, 0x51, 0x52, 0x53, 0x54, 0x56, 0x60]
  then 1
  else 0

/-- Pages in the housekeeping domain (R429). -/
def hkPage (t : Nat) : Bool := t == 0x33 || (decide (0x50 ≤ t) && decide (t ≤ 0x56)) || t == 0x60

/-! ### Field and register notations -/

def fRo (lo n r : Nat) : Field := ⟨lo, n, .ro, r, none⟩
def fRw (lo n r : Nat) : Field := ⟨lo, n, .rw, r, none⟩
def fRwl (lo n r : Nat) : Field := ⟨lo, n, .rwl, r, none⟩
def fRwlIn (lo n r a b : Nat) : Field := ⟨lo, n, .rwl, r, some (a, b)⟩
def fRwIn (lo n r a b : Nat) : Field := ⟨lo, n, .rw, r, some (a, b)⟩
def fW1c (lo n : Nat) : Field := ⟨lo, n, .rw1c, 0, none⟩
def fWo (lo n : Nat) : Field := ⟨lo, n, .wo, 0, none⟩
def fRos (lo n : Nat) : Field := ⟨lo, n, .ros, 0, none⟩

def one (off width : Nat) (f : List Field) : RegDesc := ⟨off, 1, 1, width, f⟩
/-- A read-only counter. -/
def ctr (off width : Nat) : RegDesc := one off width [fRo 0 width 0]
def arr (off count stride width : Nat) (f : List Field) : RegDesc := ⟨off, count, stride, width, f⟩

/-- The common header (R435). -/
def headerRegs : List RegDesc :=
  [one 0x000 32 [fRo 0 32 0], one 0x004 32 [fRo 0 8 0, fRo 8 8 1, fRo 16 8 0xB0], one 0x008 32 [fRo 0 32 0],
   one 0x00C 32 [fRw 0 1 0, fRw 1 1 0, fW1c 2 1], one 0x010 32 [fRw 0 1 0, fWo 1 1], one 0x014 32 [fRo 0 4 0],
   one 0x018 32 [fW1c 0 1, fRo 1 3 0], one 0x01C 32 [fRw 0 4 0], one 0x020 32 [fRos 0 23], one 0x028 64 [fRos 0 64],
   one 0x030 32 [fRos 0 32], one 0x038 64 [fRos 0 64]]

/-- CORE page (R125, R101, R438, R268, R276). -/
def coreRegs : List RegDesc :=
  [ctr 0x040 64, ctr 0x048 32, ctr 0x04C 32, ctr 0x050 32, ctr 0x054 32, ctr 0x058 32, ctr 0x05C 32,
   arr 0x100 32 4 32 [fRo 0 32 0], one 0x180 32 [fRo 0 32 0],
   one 0x200 32 [fRw 0 1 0, fW1c 1 1, fRw 16 8 0], one 0x208 64 [fRw 0 64 0], one 0x210 64 [fRw 0 64 0],
   one 0x220 32 [fWo 0 1]]

/-- POOL page (R249). -/
def poolRegs : List RegDesc :=
  [ctr 0x040 64, ctr 0x048 64, ctr 0x050 32, ctr 0x054 32, arr 0x100 16 4 32 [fRwl 0 16 0xFFFF],
   one 0x140 32 [fRwl 0 16 0], one 0x144 32 [fRo 0 32 0], arr 0x180 16 0x10 64 [fRo 0 64 0],
   arr 0x188 16 0x10 64 [fRo 0 64 0]]

/-- Four-bit limits for sixteen partitions, all reset to one value. -/
def nibbles (v : Nat) : List Field := (List.range 16).map (fun p => fRwl (4 * p) 4 v)

/-- LAYOUT page (R148). -/
def layoutRegs : List RegDesc :=
  [ctr 0x040 64, ctr 0x048 64, ctr 0x050 32, ctr 0x054 32, ctr 0x058 32, one 0x100 32 [fRo 0 32 0],
   one 0x104 32 [fRw 0 4 0, fRw 4 1 0, fRw 5 1 0], one 0x108 64 (nibbles 4), one 0x110 64 [fRw 0 64 0]]

/-- BRIDGE, SE and ARRIVE pages (R438). -/
def bridgeRegs : List RegDesc := [ctr 0x040 32, ctr 0x044 32, ctr 0x048 64]
def seRegs : List RegDesc := [ctr 0x040 64, ctr 0x048 32, ctr 0x04C 32]
def arriveRegs : List RegDesc := [ctr 0x040 32, ctr 0x044 32]

/-- BASIN page (R212). -/
def basinRegs : List RegDesc :=
  [ctr 0x040 64, ctr 0x048 64, ctr 0x050 32, ctr 0x054 32, ctr 0x058 32, one 0x100 64 (nibbles 1),
   one 0x108 32 [fRo 0 32 0], one 0x110 64 [fRw 0 4 0, fRw 4 4 0, fRw 8 4 0, fRw 12 7 0, fRw 20 21 0, fRw 41 1 0, fRw 42 10 0],
   one 0x118 32 [fRo 0 18 0]]

/-- SCHED page (R50, R53, R120, R347, R438). -/
def schedRegs : List RegDesc :=
  [arr 0x100 64 0x20 64 [fRwl 0 64 0], arr 0x108 64 0x20 32 [fRwl 0 4 4, fRwl 4 1 0, fRwl 5 1 0, fRwl 6 2 0],
   arr 0x10C 64 0x20 32 [fRo 0 32 0], arr 0x110 64 0x20 32 [fRo 0 16 0], arr 0x114 64 0x20 32 [fRw 0 16 0],
   one 0x900 32 [fRwlIn 0 17 1000 100 100000], one 0x904 32 [fRo 0 1 0], one 0x908 64 [fRwl 0 1 0, fRwl 21 21 0],
   one 0x910 64 [fW1c 0 64], one 0x918 64 [fWo 0 6, fWo 16 16], one 0x980 64 [fRwl 16 26 0], one 0x988 64 [fRwl 16 26 0],
   one 0x990 64 [fRw 0 4 0, fRw 4 1 0, fRw 16 42 0], one 0x998 64 [fWo 0 1, fRo 1 1 1, fRw 16 42 0],
   one 0x9A0 32 [fRo 0 17 0], arr 0xA00 16 8 64 [fRwl 0 1 0, fRwl 13 29 0],
   one 0xB00 32 [fRwlIn 0 7 8 1 64], one 0xB08 64 (nibbles 1), one 0xB10 32 [fRo 0 32 0],
   arr 0xC00 16 0x40 32 [fRwl 0 1 0, fRwl 1 1 0, fRwl 2 1 0, fRwlIn 3 10 1000 1 1000, fRwlIn 16 16 1 1 65535],
   arr 0xC04 16 0x40 32 [fRwl 0 16 0, fRwl 16 6 0, fRwl 22 6 0],
   arr 0xC08 16 0x40 32 [fRwl 0 32 0], arr 0xC0C 16 0x40 32 [fRwl 0 32 0], arr 0xC10 16 0x40 32 [fRwl 0 32 0],
   arr 0xC18 16 0x40 64 [fRo 0 64 0], arr 0xC20 16 0x40 64 [fRo 0 64 0], arr 0xC28 16 0x40 64 [fRo 0 64 0],
   arr 0xC30 16 0x40 32 [fRo 0 32 0], arr 0xC34 16 0x40 32 [fRo 0 32 0], arr 0xC38 16 0x40 64 [fRo 0 64 0]]

/-- SCC page: queue pairs of 17 functions × 4 (R316). -/
def sccRegs : List RegDesc :=
  [arr 0x400 68 0x20 64 [fRw 0 64 0], arr 0x408 68 0x20 64 [fRw 0 64 0],
   arr 0x410 68 0x20 32 [fRw 0 4 4, fRw 4 4 4, fRw 8 1 0, fRw 9 1 0, fRw 16 5 0], arr 0x414 68 0x20 32 [fRo 0 32 0],
   arr 0x418 68 0x20 32 [fRw 0 16 0], arr 0x41C 68 0x20 32 [fRw 0 16 0]]

/-- STK page (R186). -/
def stkRegs : List RegDesc :=
  [ctr 0x040 64, ctr 0x048 32, ctr 0x04C 32, ctr 0x050 64, ctr 0x058 32, one 0x05C 32 [fRo 0 2 0, fRo 8 8 0],
   one 0x100 32 [fRwl 0 1 0, fRwl 1 1 0, fRo 8 1 0, fRo 9 1 0, fRo 16 1 0, fRo 17 1 0], one 0x104 32 [fRw 0 16 0],
   one 0x108 32 [fRw 0 4 0, fRw 4 1 0], one 0x110 64 (nibbles 1), one 0x118 32 [fRo 0 10 0], arr 0x120 16 4 32 [fRo 0 32 0]]

/-- SCRUB page (R280). -/
def scrubRegs : List RegDesc :=
  [ctr 0x040 32, ctr 0x044 32, ctr 0x048 32, ctr 0x04C 32, ctr 0x050 32, ctr 0x054 32, ctr 0x058 32,
   one 0x100 32 [fRwlIn 0 16 1440 60 43200, fRwl 16 1 1], one 0x104 32 [fRo 0 18 0],
   one 0x108 32 [fRwl 0 1 1, fRwl 1 1 1, fRwl 2 1 1, fRwlIn 8 8 100 1 255], one 0x10C 32 [fRo 0 32 0],
   one 0x110 32 [fRw 0 1 0, fW1c 1 1, fRw 2 3 0, fRw 16 16 0], one 0x118 64 [fRw 0 64 0], one 0x120 64 [fRw 0 64 0],
   one 0x128 64 [fWo 0 2, fWo 8 36]]

/-- RVR page (R255). -/
def rvrRegs : List RegDesc :=
  [ctr 0x040 64, ctr 0x048 64, ctr 0x050 32, one 0x100 32 [fRo 0 24 0], one 0x104 32 [fRo 0 5 0],
   one 0x108 32 [fRwlIn 0 4 4 1 8]]

/-- VL page (R309). -/
def vlRegs : List RegDesc :=
  [ctr 0x040 32, ctr 0x044 32, ctr 0x048 64, ctr 0x050 64, ctr 0x058 64, ctr 0x060 32, ctr 0x064 32,
   one 0x100 32 [fRwl 0 1 1, fRwl 1 1 0], one 0x104 32 [fRo 0 3 0, fRo 3 1 0, fRo 4 4 0xF, fRo 8 3 0],
   one 0x108 32 [fRo 0 21 0], one 0x10C 32 [fRo 0 32 0], arr 0x140 16 4 32 [fRwl 0 12 0]]

/-- VROUTE page (R310). -/
def vrouteRegs : List RegDesc :=
  [ctr 0x040 32, ctr 0x044 32, ctr 0x048 32, ctr 0x04C 32, ctr 0x050 32, ctr 0x058 64, one 0x100 32 [fRw 0 9 0],
   one 0x108 64 [fRwl 0 25 0], one 0x110 32 [fRw 0 9 0], one 0x118 64 [fRwl 0 64 0],
   one 0x120 32 [fRwlIn 0 5 31 1 31, fRwlIn 16 16 1000 100 65535], one 0x130 64 [fWo 0 64], one 0x138 32 [fRo 0 7 0],
   one 0x13C 32 [fRw 0 4 0, fRw 4 1 0]]

/-- TIME page (R311). -/
def timeRegs : List RegDesc :=
  [one 0x100 64 [fRo 0 64 0],
   one 0x108 32 [fRwl 0 1 0, fRwl 1 5 0, fRwl 6 1 0, fRwl 7 5 0, fRwl 12 1 0, fRwl 13 5 0, fRwl 18 1 0, fRwlIn 24 8 8 1 255],
   one 0x10C 32 [fRo 0 12 0], one 0x110 32 [fRo 0 32 0]]

/-- PCIE and MGMT pages (R426), with the sixteen DMA channels of R415. -/
def pcieRegs : List RegDesc :=
  [ctr 0x040 32, ctr 0x044 32, ctr 0x048 32, ctr 0x04C 32, one 0x100 32 [fRo 0 9 0], one 0x108 64 [fRwl 0 64 0],
   arr 0x400 16 0x20 64 [fRwl 0 64 0], arr 0x408 16 0x20 32 [fRwl 0 4 4, fRwl 4 1 0, fRwl 5 1 0, fRwl 6 2 0],
   arr 0x40C 16 0x20 32 [fRo 0 32 0], arr 0x410 16 0x20 32 [fRo 0 16 0], arr 0x414 16 0x20 32 [fRw 0 16 0]]
def mgmtRegs : List RegDesc :=
  [ctr 0x040 32, ctr 0x044 32, one 0x100 32 [fRwl 0 7 0x62, fRwl 7 1 0],
   one 0x104 32 [fRo 0 3 0, fW1c 3 1, fRo 4 1 0], one 0x108 32 [fRwl 0 16 0]]

/-- High range of a current channel in A (R368). -/
def highRangeA (d : Die) (c : Nat) : Nat :=
  match c, d with
  | 0, _ => 2400
  | 1, _ => 300
  | 2, .windward => 800
  | 2, .leeward => 300
  | 3, .windward => 400
  | 3, .leeward => 80
  | _, .windward => 40
  | _, .leeward => 10

/-- HK, THERM, MEAS, AVS and LEAD pages (R387). -/
def hkRegs : List RegDesc :=
  [one 0x100 32 [fRo 0 4 0, fRo 16 16 0], one 0x104 32 [fRwlIn 0 8 1 1 255, fRwlIn 8 16 100 10 60000], one 0x108 32 [fRw 0 32 0]]
def thermRegs : List RegDesc :=
  [arr 0x100 9 4 32 [fRo 0 21 0], one 0x140 32 [fRwl 0 8 95, fRwl 8 8 100, fRwl 16 8 110],
   one 0x144 32 [fRwlIn 0 6 8 1 32, fRwlIn 8 4 3 1 10], one 0x148 32 [fRo 0 3 0, fRo 3 3 7, fRo 8 6 35]]
def measRegs (d : Die) : List RegDesc :=
  (List.range 5).flatMap (fun c =>
    [ctr (0x100 + c * 0x20) 32, one (0x104 + c * 0x20) 32 [fRo 0 16 0], ctr (0x108 + c * 0x20) 64, ctr (0x110 + c * 0x20) 32,
     one (0x114 + c * 0x20) 32 [fRo 0 1 0, fW1c 1 1, fW1c 2 1, fRo 3 1 0],
     one (0x118 + c * 0x20) 32 [fRwl 0 16 (highRangeA d c), fRwl 16 16 (highRangeA d c)]]) ++
  [one 0x200 32 [fRo 0 16 0], one 0x204 32 [fRo 0 31 0], one 0x208 32 [fRwlIn 0 12 10 1 3600, fRwlIn 12 8 16 1 255]]
def avsRegs : List RegDesc := [ctr 0x040 32, one 0x100 32 [fRo 0 1 0, fW1c 1 1, fRo 2 3 0]]
def leadRegs : List RegDesc := [ctr 0x040 32, one 0x100 32 [fRo 0 32 0], one 0x104 32 [fRo 0 5 0]]

/-- PWRST and CFGST pages (R408, R409). -/
def pwrstRegs : List RegDesc :=
  [ctr 0x040 32, ctr 0x044 32, ctr 0x048 32, one 0x100 32 [fRwl 0 1 1, fRwl 1 1 1],
   one 0x104 32 [fRwlIn 0 14 50 10 10000, fRwlIn 14 12 10 1 3600], one 0x108 32 [fRo 0 2 3, fRo 2 2 0, fRo 4 4 0, fRo 8 8 0],
   one 0x10C 32 [fRwlIn 0 10 100 1 1000, fRwl 10 1 1], one 0x110 32 [fWo 0 1],
   one 0x114 32 [fRw 0 16 0, fRo 16 2 0, fWo 18 1], one 0x118 32 [fRos 0 3]]
def cfgstRegs : List RegDesc :=
  [ctr 0x040 32, ctr 0x044 32, one 0x100 32 [fRo 0 8 0], one 0x104 32 [fRo 0 32 0], one 0x108 32 [fRo 0 32 0],
   one 0x10C 32 [fRo 0 15 0], one 0x110 32 [fWo 0 1]]

/-- FAULT page (R442, R363). -/
def faultRegs : List RegDesc :=
  [one 0x040 32 [fRos 0 32], one 0x044 32 [fRos 0 32], one 0x048 32 [fRos 0 32], one 0x100 32 [fRos 0 32], one 0x104 32 [fRw 0 32 0],
   one 0x108 32 [fRw 0 32 0], one 0x10C 32 [fRo 0 2 0], arr 0x120 8 4 32 [fRo 0 32 0],
   arr 0x800 64 0x20 64 [fRw 0 64 0], arr 0x808 64 0x20 64 [fRw 0 64 0], arr 0x810 64 0x20 64 [fRw 0 64 0],
   arr 0x818 64 0x20 32 [fRw 0 1 0, fRw 1 4 0, fRwIn 16 16 1000 1 65535], arr 0x81C 64 0x20 32 [fRo 0 8 0]]

/-- Control page of a stack window (R187). -/
def ctlRegs : List RegDesc :=
  [one 0x000 32 [fWo 0 32], one 0x008 32 [fWo 0 1], one 0x010 32 [fRo 0 11 0], one 0x018 32 [fRo 0 32 0],
   one 0x01C 32 [fRw 0 32 0], one 0x020 32 [fRo 0 32 0]]

/-- The registers of a block type above its header. -/
def blockRegs (d : Die) (t : Nat) : List RegDesc :=
  match t with
  | 0x01 => coreRegs
  | 0x02 => poolRegs
  | 0x03 => layoutRegs
  | 0x04 => bridgeRegs
  | 0x05 => basinRegs
  | 0x06 => schedRegs
  | 0x07 => sccRegs
  | 0x10 => stkRegs
  | 0x11 => seRegs
  | 0x12 => scrubRegs
  | 0x20 => rvrRegs
  | 0x30 => vlRegs
  | 0x31 => vrouteRegs
  | 0x32 => arriveRegs
  | 0x33 => timeRegs
  | 0x40 => pcieRegs
  | 0x41 => mgmtRegs
  | 0x50 => hkRegs
  | 0x51 => thermRegs
  | 0x52 => measRegs d
  | 0x53 => avsRegs
  | 0x54 => pwrstRegs
  | 0x55 => cfgstRegs
  | 0x56 => leadRegs
  | 0x60 => faultRegs
  | _ => []

/-- A register description covers a page offset exactly at one of its registers. -/
def RegDesc.covers (r : RegDesc) (off : Nat) : Bool :=
  decide (r.off ≤ off) && (off - r.off) % r.stride == 0 && decide ((off - r.off) / r.stride < r.count)

/-- The register at an offset in register space, if one starts there. -/
def regAt (a : Nat) : Option RegDesc :=
  if 0x40000000 ≤ a then ctlRegs.find? (·.covers (regOff a))
  else if regOff a < 0x40 then headerRegs.find? (·.covers (regOff a))
  else (blockRegs (regDie a) (regType a)).find? (·.covers (regOff a))

/-- A register's reset value from its fields. -/
def RegDesc.resetNat (r : RegDesc) : Nat := r.fields.foldl (fun x f => x + f.reset * 2 ^ f.lo) 0

/-- The value an unlisted register reads as. -/
def regReset (a : Nat) : Word :=
  match regAt a with
  | some r => w64 r.resetNat
  | none => 0

/-! ### A register's home -/

/-- The stored value of a register. -/
def State.reg (s : State) (a : Nat) : Word := mget (regReset a) s.regs a

/-- Store a register's value. -/
def State.setReg (s : State) (a : Nat) (v : Word) : State := { s with regs := mset (regReset a) s.regs a v }

/-- A field of a stored register. -/
def State.fld (s : State) (a lo n : Nat) : Nat := bits (s.reg a).toNat lo n

def State.flag (s : State) (a lo : Nat) : Bool := bit (s.reg a).toNat lo

/-- Set a field of a stored register. -/
def State.setFld (s : State) (a lo n v : Nat) : State := s.setReg a (w64 (setBits (s.reg a).toNat lo n v))

def State.setFlag (s : State) (a lo : Nat) (b : Bool) : State := s.setFld a lo 1 (boolNat b)

/-- Add to a counter that wraps at its width (R434). -/
def State.count (s : State) (a width k : Nat) : State := s.setReg a (w64 (((s.reg a).toNat + k) % 2 ^ width))

/-- Add to a counter that saturates at its width. -/
def State.countSat (s : State) (a width k : Nat) : State :=
  s.setReg a (w64 (Nat.min ((s.reg a).toNat + k) (2 ^ width - 1)))

end Sys2Proof.Machine
end

