-- ==== Sys2Proof/Machine/Ops.lean ====
section
/-!
DEFINITION. The operations every command shares: what a local address names (R26 to R28), reading and writing memory at
its home, the check units and their poison (R257 to R264, R268, R462), faults and their capture (R436, R439, R441),
counters, free values, time, and the one way a meaning answers.
-/
namespace Sys2Proof.Machine

/-! ### Memory as data -/

/-- The byte at an address; an unlisted address reads zero (log 2). -/
def memGet : List Host.Cell → Nat → Byte
  | [], _ => 0
  | (k, v) :: r, a => if a = k then v else memGet r a

/-- One byte stored, addresses kept rising and zero bytes unlisted. -/
def memSet : List Host.Cell → Nat → Byte → List Host.Cell
  | [], a, b => if b = 0 then [] else [(a, b)]
  | (k, v) :: r, a, b =>
    if a < k then (if b = 0 then (k, v) :: r else (a, b) :: (k, v) :: r)
    else if a = k then (if b = 0 then r else (a, b) :: r)
    else (k, v) :: memSet r a b

/-- Consecutive bytes stored from an address. -/
def memPut : List Host.Cell → Nat → List Byte → List Host.Cell
  | m, _, [] => m
  | m, a, b :: r => memPut (memSet m a b) (a + 1) r

/-- A span made zero. -/
def memClear (m : List Host.Cell) (a len : Nat) : List Host.Cell :=
  m.filter (fun c => !(decide (a ≤ c.1) && decide (c.1 < a + len)))

/-- One write of a step. -/
def memApply (m : List Host.Cell) : MemOp → List Host.Cell
  | .put a b => memPut m a b
  | .clear a n => memClear m a n
  | .copy a b n =>
    ((m.filter (fun c => decide (a ≤ c.1) && decide (c.1 < a + n)))).foldl (fun x c => memSet x (c.1 - a + b) c.2)
      (memClear m b n)

/-- The writes of a step in the order they were made; the list holds the newest first. -/
def replay (m : List Host.Cell) : List MemOp → List Host.Cell
  | [] => m
  | op :: r => memApply (replay m r) op

/-- Addresses rising from a bound and no zero byte listed. -/
def memWfFrom : Nat → List Host.Cell → Bool
  | _, [] => true
  | b, (k, v) :: r => decide (b ≤ k) && decide (v ≠ 0) && memWfFrom (k + 1) r

/-- The canonical form of memory. -/
def Memory.wf (m : List Host.Cell) : Bool := memWfFrom 0 m

/-- A byte of a memory with a step's writes made on it. -/
def busRead (m : List Host.Cell) : List MemOp → Nat → Byte
  | [], x => memGet m x
  | .put a b :: r, x => if a ≤ x ∧ x < a + b.length then b.getD (x - a) 0 else busRead m r x
  | .clear a n :: r, x => if a ≤ x ∧ x < a + n then 0 else busRead m r x
  | .copy a b n :: r, x => if b ≤ x ∧ x < b + n then busRead m r (x - b + a) else busRead m r x

/-- A byte of memory, the writes of the step under way included. -/
def State.byte (s : State) (a : Nat) : Byte := busRead s.mem s.bus a

/-- `len` bytes from an address. -/
def State.bytes (s : State) (a len : Nat) : List Byte := (List.range len).map (fun i => s.byte (a + i))

/-- The little-endian number of `len` bytes. -/
def State.load (s : State) (a len : Nat) : Nat := leNat (s.bytes a len)

/-- Bytes put on the step's trail of writes. -/
def State.put (s : State) (a : Nat) (b : List Byte) : State :=
  if b.isEmpty then s else { s with bus := .put a b :: s.bus }

/-- A span made zero. -/
def State.clearMem (s : State) (a len : Nat) : State := { s with bus := .clear a len :: s.bus }

/-- A span copied, with the check state of its units. -/
def State.copyMem (s : State) (src dst len : Nat) : State :=
  let moved := s.units.filter (fun e => decide (src ≤ e.1) && decide (e.1 < src + len))
  let kept := s.units.filter (fun e => !(decide (dst ≤ e.1) && decide (e.1 < dst + len)))
  { s with bus := .copy src dst len :: s.bus, units := moved.foldl (fun m e => mput (e.1 - src + dst) e.2 m) kept }

/-- The one way a meaning answers: memory is the old memory with the step's writes applied, and the queue stays. -/
def commit (s t : State) : Host.Outcome State Fault Refusal :=
  .next { t with mem := replay s.mem t.bus, bus := [], pending := s.pending }

/-! ### Counters, free values, faults -/

/-- Add to a wrapping counter of a page. -/
def State.bump (s : State) (page off width k : Nat) : State := s.count (page + off) width k

/-- The next `n` free bytes (log 5). -/
def State.freeBytes (s : State) (n : Nat) : List Byte × State :=
  ((List.range n).map (fun i => Config.freeByte (s.fresh + i)), { s with fresh := s.fresh + n })

/-- The source word of a fault record (R439). -/
def sourceWord (page : Nat) : BitVec 32 :=
  BitVec.ofNat 32 (regInst page + regType page * 2 ^ 16 + (regDie page).idx * 2 ^ 24)

/-- The flags byte of a fault record (R439). -/
def recFlags (part : Option Nat) (inj intr : Bool) : Nat :=
  (match part with | some p => p % 16 + 64 | none => 0) + 16 * boolNat inj + 32 * boolNat intr

/-- The capture of a fault in its block's header (R436). -/
def State.capture (s : State) (page code : Nat) (part : Option Nat) (arg : Nat) (inj : Bool) : State :=
  let s1 := s.countSat (page + 0x30) 32 1
  if s1.flag (page + 0x20) 20 then s1.setFlag (page + 0x20) 21 true
  else
    let synd := code + (part.getD 0) % 16 * 2 ^ 16 + 2 ^ 20 + boolNat inj * 2 ^ 22
    (((s1.setReg (page + 0x20) (w64 synd)).setReg (page + 0x28) (w64 arg)).setReg (page + 0x38) (w64 s.now)).setFlag
      (page + 0x18) 0 true

/-- A promise with a deadline still to come latches an event that the admission model does not cover: every partition's, or
one's (R362). Deadlines are whole microseconds (R360). -/
def State.noteUnmodelled (s : State) (part : Option Nat) : State :=
  let mine (p : Nat) : Bool := match part with | some q => q == p | none => true
  let s1 : State := { s with launches := s.launches.map (fun l =>
    if l.deadline ≠ 0 ∧ !l.missed ∧ s.now ≤ l.deadline / 1000 * 1000 ∧ mine l.part then { l with unmodelledSeen := true } else l) }
  s1.monitors.foldl (fun t e =>
    let r := pg (dieOf (e.1 / 64)) Blk.fault 0 + 0x800 + e.1 % 64 * 0x20
    if t.flag (r + 0x1C) 0 && !t.flag (r + 0x1C) 1 && decide (s.now ≤ (t.reg r).toNat / 1000 * 1000) && mine (t.fld (r + 0x18) 1 4)
    then t.setFlag (r + 0x1C) 5 true else t) s1

/-- A block raises a fault: the capture, and a record queued for its die's log (R436, R441). -/
def State.raise (s : State) (page code : Nat) (part : Option Nat) (arg detail : Nat) (inj intr : Bool) : State :=
  let s0 := if intr then s.noteUnmodelled none else s
  let s1 := s0.capture page code part arg inj
  let q := mget [] s1.recQueue page
  if 8 ≤ q.length then s1.bump (pg (regDie page) Blk.fault 0) 0x044 32 1
  else
    let r : FaultRec := ⟨s.now, sourceWord page, code, recFlags part inj intr, w64 arg, w64 detail⟩
    { s1 with recQueue := mset [] s1.recQueue page (q ++ [r]) }

/-- A message-signalled interrupt: sent, or pending while its vector is masked (R412). -/
def State.msix (s : State) (f v : Nat) : State :=
  let k := f * 32 + v
  if bit (mget 0 s.host.msixTab (k * 4 + 3)).toNat 0 then { s with out := s.out ++ [.msix f v] }
  else if s.host.msixPend.contains k then s
  else { s with host := { s.host with msixPend := s.host.msixPend ++ [k] } }

/-! ### Places -/

/-- The bytes of a stack's span that are populated (R3, R26). -/
def State.stackBytes (s : State) : Nat := if s.fuses.variant = .f then 0x1000000000 else 0xC00000000

/-- What a local address names (R26). -/
inductive Loc where
  | stack (n o : Nat)
  | rvr (c o : Nat)
  | spad (die : Die) (core o : Nat)
  | win (n o : Nat)
  | reg (o : Nat)
  | hole
deriving DecidableEq, Repr

/-- The local physical map (R26). -/
def locOf (a : Nat) : Loc :=
  if a < 0x10000000000 then .stack (a / 0x1000000000) (a % 0x1000000000)
  else if a < 0x28000000000 then .rvr ((a - 0x10000000000) / 0x2000000000) ((a - 0x10000000000) % 0x2000000000)
  else if a < 0x30000000000 then .hole
  else if a < 0x30040000000 then
    .spad (dieOf ((a - 0x30000000000) / 0x20000000)) ((a - 0x30000000000) % 0x20000000 / 0x400000)
      ((a - 0x30000000000) % 0x400000)
  else if a < 0x38000000000 then .hole
  else if a < 0x38100000000 then .win ((a - 0x38000000000) / 0x10000000) ((a - 0x38000000000) % 0x10000000)
  else if a < 0x3FF00000000 then .hole
  else if a < 0x3FF20000000 then .reg (a - 0x3FF00000000)
  else .hole

def stackBase (n : Nat) : Nat := n * 0x1000000000
def rvrBase (c : Nat) : Nat := 0x10000000000 + c * 0x2000000000
def spadBase (d : Die) (core : Nat) : Nat := 0x30000000000 + d.idx * 0x20000000 + core * 0x400000
def winBase (n : Nat) : Nat := 0x38000000000 + n * 0x10000000
def regBase : Nat := 0x3FF00000000
/-- Bytes of a scratchpad (R19). -/
def spadBytes : Nat := 0x180000

def stackPage (n : Nat) : Nat := pg (dieOf (n / 8)) Blk.stk (n % 8)
def sePage (n : Nat) : Nat := pg (dieOf (n / 8)) Blk.se (n % 8)
def rvrPage (c : Nat) : Nat := pg (dieOf (c / 6)) Blk.rvr (c % 6)
def portPage (p : Nat) : Nat := pg (dieOf (p / 12)) Blk.vl (p % 12)
def faultPage (d : Die) : Nat := pg d Blk.fault 0
def schedPage (d : Die) : Nat := pg d Blk.sched 0
def basinPage (d : Die) : Nat := pg d Blk.basin 0
def layoutPage (d : Die) : Nat := pg d Blk.layout 0
def poolPage (d : Die) : Nat := pg d Blk.pool 0
def vroutePage (d : Die) : Nat := pg d Blk.vroute 0
def scrubStackPage (n : Nat) : Nat := pg (dieOf (n / 8)) Blk.scrub (n % 8)
def scrubRvrPage (c : Nat) : Nat := pg (dieOf (c / 6)) Blk.scrub (8 + c % 6)
/-- The page of the active die's PCIE, CFGST or SCC block (R428). -/
def State.active (s : State) : Die := s.fuses.activeDie

/-- The role a physical core instance has in the factory map (R438): the instances that are no spares hold the logical
numbers in rising order. -/
def State.factoryRole (s : State) (d : Die) (phys : Nat) : CoreRole :=
  let sp := s.fuses.spares.get d
  if phys ∈ sp ∨ 104 ≤ phys then ⟨none, false⟩
  else ⟨some (phys - (sp.filter (fun x => decide (x < phys))).length), false⟩

/-- The role a physical core has now. -/
def State.role (s : State) (d : Die) (phys : Nat) : CoreRole :=
  match mget none s.roles (d.idx * 104 + phys) with
  | some r => r
  | none => s.factoryRole d phys

def State.setRole (s : State) (d : Die) (phys : Nat) (r : CoreRole) : State :=
  { s with roles := mset none s.roles (d.idx * 104 + phys) (some r) }

/-- The physical instance that holds a logical number; none where the number is unavailable (R276). -/
def State.physOf (s : State) (d : Die) (core : Nat) : Option Nat :=
  (List.range 104).find? (fun p => (s.role d p).logical == some core)

/-- The CORE page of a logical core; the page of instance 0 stands in where the number is unavailable. -/
def State.corePage (s : State) (d : Die) (core : Nat) : Nat := pg d Blk.core ((s.physOf d core).getD 0)

/-- A stack as its SE holds it; unlisted: not trained, empty. -/
def Stack.empty : Stack where
  trained := false
  port := []
  cmds := []
  nextUid := 0
  heldMode := []
  going0 := none
  going1 := none
  running := []
  contexts := []
  lastPart := []
  lastSel := 15
  selEnd := 0
  own := []
  bufErr := []
  stageErr := false
  bufLog := []
  vcLog := []
  unavailable := []
  nbuRetired := []
  rowsUsed := []
  rowsReplaced := []
  vcUsed := []
  retiredGranules := []
  gov := 512
  yieldAt := []
  sliceAt := []
  rowAt := []

def State.stack (s : State) (n : Nat) : Stack := (mget none s.stk n).getD Stack.empty
def State.setStack (s : State) (n : Nat) (k : Stack) : State := { s with stk := mset none s.stk n (some k) }

/-- Usable bytes of a Reservoir controller (R28, R255). -/
def State.rvrUsable (s : State) (c : Nat) : Nat := s.fld (rvrPage c + 0x100) 16 8 * 0x20000000
def State.rvrFailed (s : State) (c : Nat) : Bool := s.flag (rvrPage c + 0x104) 1

/-- A span lies whole in storage that holds something (R27). -/
def State.holds (s : State) (a len : Nat) : Bool :=
  match locOf a with
  | .stack n o => decide (o + len ≤ s.stackBytes) && (s.stack n).trained
  | .rvr c o => decide (o + len ≤ s.rvrUsable c)
  | .spad d core o => decide (o + len ≤ spadBytes) && decide (core < 96) && (s.physOf d core).isSome
  | _ => false

/-- The span lies in a Reservoir controller that has failed (R254). -/
def State.lostAt (s : State) (a : Nat) : Bool :=
  match locOf a with
  | .rvr c _ => s.rvrFailed c
  | _ => false

/-- The Reservoir controller at an address is still being initialised, and its accesses are held (R399 step 11). -/
def State.heldAt (s : State) (a : Nat) : Bool :=
  match locOf a with
  | .rvr c _ => s.rvrInit.contains c
  | _ => false

/-- The address lies in a stack or in the Reservoir. -/
def isDram (a : Nat) : Bool := decide (a < 0x28000000000)

/-- Bytes of the check unit at an address (R257). -/
def unitSize (a : Nat) : Nat := if a < 0x10000000000 then 32 else if a < 0x28000000000 then 64 else 8
def unitBase (a : Nat) : Nat := a - a % unitSize a

/-- The page of the scrubber of a stack or Reservoir address. -/
def scrubPageOf (a : Nat) : Nat :=
  match locOf a with
  | .stack n _ => scrubStackPage n
  | .rvr c _ => scrubRvrPage c
  | _ => scrubStackPage 0

/-- A requester as the records of R440 name it: its kind, and its block's page, where the check of the stack code is made
(R258). -/
def askedBy (page kind : Nat) : Nat := page * 256 + kind

/-- The block that holds the data at an address: SE, RVR or CORE. -/
def State.detector (s : State) (a : Nat) : Nat :=
  match locOf a with
  | .stack n _ => sePage n
  | .rvr c _ => rvrPage c
  | .spad d core _ => s.corePage d core
  | _ => sePage 0

/-- The block that detects an error (R258, R440): the requester's for a stack, whose code is checked at the point of use;
otherwise the one that holds the data. -/
def State.detects (s : State) (by_ a : Nat) : Nat :=
  match locOf a with
  | .stack _ _ => if by_ / 256 = 0 then s.detector a else by_ / 256
  | _ => s.detector a

/-! ### Check units -/

def UnitState.sound : UnitState := ⟨false, false, false, false, false, false⟩

def State.unit (s : State) (a : Nat) : UnitState := mget UnitState.sound s.units (unitBase a)
def State.setUnit (s : State) (a : Nat) (u : UnitState) : State :=
  { s with units := mset UnitState.sound s.units (unitBase a) u }

def UnitState.bad (u : UnitState) : Bool := u.uncorr || u.poison

/-- The units with an error that a span meets, lowest first. -/
def State.badUnits (s : State) (a len : Nat) : List (Nat × UnitState) :=
  s.units.filter (fun e => decide (e.1 < a + len) && decide (a < e.1 + unitSize e.1))

/-- The first byte of a span that lies in a unit whose data cannot be delivered. -/
def State.firstBad (s : State) (a len : Nat) : Option Nat :=
  ((s.badUnits a len).find? (fun e => e.2.bad)).map (fun e => Nat.max a e.1)

def scrubKey (page : Nat) : Nat := (regDie page).idx * 16 + regInst page

def Scrubber.empty : Scrubber := ⟨0, [], [], 0, 0, false⟩

def State.scrubber (s : State) (page : Nat) : Scrubber := (mget none s.scrub (scrubKey page)).getD Scrubber.empty
def State.setScrubber (s : State) (page : Nat) (x : Scrubber) : State :=
  { s with scrub := mset none s.scrub (scrubKey page) (some x) }

/-- A unit's location placed in its scrubber's queue of 64, or counted as lost (R261). -/
def State.queueUnit (s : State) (a : Nat) : State :=
  let page := scrubPageOf a
  let x := s.scrubber page
  if x.queue.length < 64 then s.setScrubber page { x with queue := x.queue ++ [unitBase a] }
  else s.bump page 0x050 32 1

/-- Bank row of a stack offset: the offset of its first byte (R151). -/
def bankRow (o : Nat) : Nat := o - bits o 17 3 * 2 ^ 17 - bits o 0 8

/-- NBU and slot of a stack offset (R151, R152). -/
def nbuOf (o : Nat) : Nat := 32 * (8 * bits o 20 1 + bits o 8 3) + bits o 11 5
def slotOf (o : Nat) : Nat := bits o 21 15

/-- Bank of a stack offset, over the stack. -/
def bankOf (o : Nat) : Nat := nbuOf o / 32 * 64 + nbuOf o % 32 * 2 + bits o 16 1

/-- What a repair would mend has been repaired already (R277). -/
def State.alreadyDone (s : State) : Activity → Bool
  | .rowRepair n o => (s.stack n).rowsReplaced.contains (bankOf (bankRow o), slotOf (bankRow o))
  | .nbuSwap n u => mget 0 (s.stack n).nbuRetired (u / 32) == u % 32 + 1 && !(s.stack n).unavailable.contains u
  | .vcSwap n g c => mget 0 (s.stack n).vcUsed (g * 256 + c) == 1
  | _ => false

/-- A maintenance request joins those that wait; one identical to a waiting one is merged with it, and a repair of something
already repaired completes at once (R277). -/
def State.askMaint (s : State) (a : Activity) : State :=
  if s.alreadyDone a || s.maint.any (fun m => m.act == a && !m.running) then s else { s with maint := s.maint ++ [⟨a, s.now, false, false⟩] }

/-- A day in ns. -/
def dayNs : Nat := 86400000000000

/-- The errors of a scrubber's region that still count: of the last day, or since its last whole pass began (R270). -/
def State.liveErrs (s : State) (x : Scrubber) : List (Nat × Nat) :=
  x.recent.filter (fun e => decide (s.now < e.2 + dayNs) || decide (x.lastStart ≤ e.2))
def State.dayErrs (s : State) (x : Scrubber) : List (Nat × Nat) := (s.liveErrs x).filter (fun e => decide (s.now < e.2 + dayNs))

/-- An error of a stack's row: where its threshold is met and the repair is automatic, the row's repair is asked for (R270,
R271). -/
def State.noteRow (s : State) (n o a : Nat) (uncorr : Bool) : State :=
  let page := scrubPageOf a
  let x := s.scrubber page
  let u := unitBase a
  let row := bankRow o
  let same (e : Nat × Nat) : Bool := bankRow (e.1 / 2 - stackBase n) == row
  let met := uncorr || (s.dayErrs x).any (fun e => same e && e.1 % 2 == 0 && e.1 / 2 != u) ||
    (s.liveErrs x).any (fun e => e.1 == 2 * u && decide (x.lastStart ≤ e.2) && decide (e.2 < x.passStart))
  if met then
    let s1 := s.setScrubber page { x with recent := (s.liveErrs x).filter (fun e => !same e) }
    if s.flag (page + 0x108) 0 then s1.askMaint (.rowRepair n row) else s1
  else s.setScrubber page { x with recent := (2 * u + boolNat uncorr, s.now) :: s.liveErrs x }

/-- A correction at a symbol position: the sixteenth within 1 s at one connection asks for its swap, where that is automatic
(R270, R271). -/
def State.noteVc (s : State) (n a : Nat) : State :=
  let conn := Config.connectionOf a s.now % 8192
  let keep := (s.now :: mget [] (s.stack n).vcLog conn).filter (fun t => decide (s.now < t + 1000000000))
  let met := decide (16 ≤ keep.length)
  let s1 := s.setStack n { s.stack n with vcLog := mset [] (s.stack n).vcLog conn (if met then [] else keep) }
  if met && s.flag (scrubPageOf a + 0x108) 2 then s1.askMaint (.vcSwap n (conn / 256) (conn % 256)) else s1

/-- An error of an NBU's vector buffer: two uncorrectable or 64 corrected words in a day ask for the NBU's swap, where that is
automatic (R270, R271). -/
def State.noteBuf (s : State) (n nbu : Nat) (uncorr : Bool) : State :=
  let keep := ((boolNat uncorr, s.now) :: mget [] (s.stack n).bufLog nbu).filter (fun e => decide (s.now < e.2 + dayNs))
  let met := decide (2 ≤ (keep.filter (fun e => e.1 == 1)).length) || decide (64 ≤ (keep.filter (fun e => e.1 == 0)).length)
  let s1 := s.setStack n { s.stack n with bufLog := mset [] (s.stack n).bufLog nbu (if met then [] else keep) }
  if met && s.flag (scrubPageOf (stackBase n) + 0x108) 1 then s1.askMaint (.nbuSwap n nbu) else s1

/-- An error of the Reservoir: where the threshold of its 64 KiB is met, the retirement of the page is advised (R270). -/
def State.notePage (s : State) (a : Nat) (uncorr : Bool) : State :=
  let page := scrubPageOf a
  let x := s.scrubber page
  let u := unitBase a
  let k := u / 0x10000
  let me := (2 * u + boolNat uncorr, s.now)
  let here := (me :: s.dayErrs x).filter (fun e => e.1 / 2 / 0x10000 == k)
  if 2 ≤ (here.filter (fun e => e.1 % 2 == 1)).length ∨ 16 ≤ (((here.filter (fun e => e.1 % 2 == 0)).map (·.1)).dedup).length then
    (s.setScrubber page { x with recent := (s.liveErrs x).filter (fun e => e.1 / 2 / 0x10000 != k) }).raise page 0x0306 none
      (k * 0x10000) 0 false false
  else s.setScrubber page { x with recent := me :: s.liveErrs x }

/-- An error of a core's bank: two uncorrectable words in 30 days or 1,000 corrections in a day ask for the core's retirement
(R270, R276). -/
def State.noteBank (s : State) (d : Die) (core o : Nat) (uncorr : Bool) : State :=
  let key := d.idx * 96 + core
  let bank := 2 * (o / 0x8000)
  let keep := ((bank + boolNat uncorr, s.now) :: mget [] s.sramErrs key).filter (fun e =>
    decide (s.now < e.2 + (if e.1 % 2 = 1 then 30 else 1) * dayNs))
  let met := decide (2 ≤ (keep.filter (fun e => e.1 == bank + 1)).length) ||
    decide (1000 ≤ (keep.filter (fun e => e.1 == bank)).length)
  let s1 : State := { s with sramErrs := mset [] s.sramErrs key (if met then [] else keep) }
  match s.physOf d core with
  | some p => if met then s1.askMaint (.coreRetire d p) else s1
  | none => s1

/-- An error that is not injected enters the counts of R270; where a threshold is met and the repair is automatic, the
repair is requested, or the retirement of a Reservoir page is advised (R270, R271). -/
def State.noteError (s : State) (a : Nat) (uncorr : Bool) : State :=
  match locOf a with
  | .stack n o => if uncorr then s.noteRow n o a true else (s.noteRow n o a false).noteVc n a
  | .rvr _ _ => s.notePage a uncorr
  | .spad d core o => s.noteBank d core o uncorr
  | _ => s

/-- What delivering one unit with an error does besides the requester's own outcome: a correction is counted and queued
(R260, R261); poison is counted and recorded once (R262, R263, R269). SRAM words are not queued. -/
def State.touchUnit (by_ : Nat) (part : Option Nat) (s : State) (e : Nat × UnitState) : State :=
  let a := e.1
  if e.2.bad then
    let found := e.2.uncorr && !e.2.found
    let s1 := if isDram a then
        let t := if !found then s else
          (if e.2.injected then s.queueUnit a else (s.queueUnit a).noteError a true).bump (scrubPageOf a) 0x048 32 1
        t.bump (scrubPageOf a) 0x04C 32 1
      else if found && !e.2.injected then s.noteError a true
      else s
    let arg := match locOf a with | .spad _ _ o => o | _ => a
    (s1.raise (s1.detects by_ a) 0x0301 part arg (by_ % 256) e.2.injected (!e.2.delivered && !e.2.injected)).setUnit a
      { e.2 with delivered := true, found := true }
  else if isDram a then
    (if e.2.injected then s.queueUnit a else (s.queueUnit a).noteError a false).bump (scrubPageOf a) 0x044 32 1
  else if e.2.injected then s
  else s.noteError a false

/-- Bytes written at addresses of the Reservoir and read from it are counted by its controller (R255). -/
def State.countRvr (s : State) (a : Nat) (write : Bool) (n : Nat) : State :=
  match locOf a with
  | .rvr c _ => s.bump (rvrPage c) (if write then 0x048 else 0x040) 64 n
  | _ => s

/-- A demand read of a span by a requester (askedBy): the first address whose data is not delivered, if any. -/
def State.demand (s : State) (by_ : Nat) (part : Option Nat) (a len : Nat) : State × Option Nat :=
  let read (b : Option Nat) (e : Nat × UnitState) : Bool := !e.2.bad || (match b with | some x => decide (e.1 ≤ x) | none => true)
  (((s.badUnits a len).filter (read (s.firstBad a len))).foldl (State.touchUnit by_ part) (s.countRvr a false len), s.firstBad a len)

/-- The error a flip-mask leaves in a unit (R257, R268): sound, correctable or not. More errors than the code promises
to detect count as detected (log 15). -/
def flipState (a dataMask checkMask : Nat) : UnitState :=
  let symbols (w : Nat) : Nat :=
    ((List.range (64 / w)).filter (fun i => bits dataMask (i * w) w ≠ 0)).length +
    ((List.range (16 / w)).filter (fun i => bits checkMask (i * w) w ≠ 0)).length
  let n := if a < 0x10000000000 then symbols 8 else if a < 0x28000000000 then symbols 4
    else popcount dataMask 64 + popcount (checkMask % 256) 8
  ⟨n == 1, decide (1 < n), false, n != 0, false, false⟩

/-- The armed flip-mask of the unit at an address: the register it is armed in, the base of its word. -/
def State.flipArmed (s : State) (a : Nat) : Option (Nat × Nat) :=
  match locOf a with
  | .spad d core o =>
    let c := s.corePage d core + 0x200
    if s.flag c 0 && (s.reg (c + 8)).toNat == o - o % 8 then some (c, a - a % 8) else none
  | .hole => none
  | .win _ _ => none
  | .reg _ => none
  | _ =>
    let c := scrubPageOf a + 0x110
    let w := 8 * s.fld c 2 3
    if s.flag c 0 && (s.reg (c + 8)).toNat == unitBase a && decide (w < unitSize a) then some (c, unitBase a + w) else none

/-- A write that stores a byte of the selected word consumes the flip-mask (R268). A unit still uncorrectable, because the
write covers it only in part, stays so. -/
def State.consumeFlip (s : State) (unit a len : Nat) : State :=
  match s.flipArmed unit with
  | some (c, w) =>
    if a < w + 8 ∧ w < a + len then
      let t := (s.setFlag c 0 false).setFlag c 1 true
      if (s.unit unit).bad then t else t.setUnit unit (flipState unit (s.reg (c + 16)).toNat (s.fld c 16 16))
    else s
  | none => s

/-- The units of storage whose flip-mask a span could meet: at most one for each scrubber and core, found from the armed
address. -/
def State.armedUnits (s : State) (a len : Nat) : List Nat :=
  let u := unitSize a
  let first := a - a % u
  match locOf a with
  | .spad d core o =>
    let c := s.corePage d core + 0x200
    let x := spadBase d core + (s.reg (c + 8)).toNat
    if s.flag c 0 && decide (first ≤ x) && decide (x < a + len) && decide (o < spadBytes) then [x] else []
  | .stack _ _ =>
    let c := scrubPageOf a + 0x110
    let x := (s.reg (c + 8)).toNat
    if s.flag c 0 && decide (first ≤ x) && decide (x < a + len) then [x] else []
  | .rvr _ _ =>
    let c := scrubPageOf a + 0x110
    let x := (s.reg (c + 8)).toNat
    if s.flag c 0 && decide (first ≤ x) && decide (x < a + len) then [x] else []
  | _ => []

/-- What a write of a span does to the units it meets: a unit it covers whole is sound again; one it covers in part is
merged, with its correctable error counted and replaced (R462). An uncorrectable SRAM word stays so under a partial
write (log 16). -/
def State.refreshUnit (a len : Nat) (s : State) (e : Nat × UnitState) : State :=
  let whole := decide (a ≤ e.1) && decide (e.1 + unitSize e.1 ≤ a + len)
  if whole then s.setUnit e.1 UnitState.sound
  else if e.2.bad then s
  else
    let t := if e.2.injected then s else s.noteError e.1 false
    (if isDram e.1 then t.bump (scrubPageOf e.1) 0x044 32 1 else t).setUnit e.1 UnitState.sound

/-- Bytes stored at their home, with the effect on check units and flip-masks. -/
def State.storeBytes (s : State) (a : Nat) (b : List Byte) : State :=
  if b.isEmpty then s
  else
    let s1 := (s.badUnits a b.length).foldl (State.refreshUnit a b.length) s
    ((s1.armedUnits a b.length).foldl (fun t u => t.consumeFlip u a b.length) s1).put a b

/-- The unit at `u` would be covered only in part by a span, and is poisoned or uncorrectable (R264). -/
def State.refuses (s : State) (u a len : Nat) : Bool :=
  isDram u && (s.unit u).bad && !(decide (a ≤ u) && decide (u + unitSize u ≤ a + len))

/-- The read of a merge finds a unit uncorrectable or poisoned: a demand read, which returns poison, and counts and queues what
it is the first to find (R262, R462). -/
def State.mergeFind (s : State) (u : Nat) : State :=
  let e := s.unit u
  let s1 := s.bump (scrubPageOf u) 0x04C 32 1
  if e.uncorr && !e.found then
    ((if e.injected then s1.queueUnit u else (s1.queueUnit u).noteError u true).bump (scrubPageOf u) 0x048 32 1).setUnit u
      { e with found := true }
  else s1

/-- A write by an agent: the units it cannot write are left out, recorded (0x0304) and answered with the first address
refused (R264). -/
def State.write (s : State) (part : Option Nat) (a : Nat) (b : List Byte) : State × Option Nat :=
  if b.isEmpty then (s, none)
  else
    let len := b.length
    let hd := unitBase a
    let tl := unitBase (a + len - 1)
    let hr := s.refuses hd a len
    let tr := tl != hd && s.refuses tl a len
    let lo := if hr then Nat.min (hd + unitSize hd) (a + len) else a
    let hi := if tr then tl else a + len
    let s1 := s.storeBytes lo ((b.drop (lo - a)).take (hi - lo))
    if hr || tr then
      let at_ := if hr then a else tl
      let page := match locOf a with | .stack n _ => stackPage n | .rvr c _ => rvrPage c | _ => stackPage 0
      let s2 := (if hr then [hd] else []) ++ (if tr then [tl] else []) |>.foldl (fun t u => t.mergeFind u) s1
      (s2.raise page 0x0304 part at_ 0 (s.unit at_).injected false, some at_)
    else (s1, none)

/-- Every unit that a span meets becomes poisoned (R263). -/
def State.poison (s : State) (a len : Nat) : State :=
  if len = 0 then s
  else
    let u := unitSize a
    let n := (a % u + len + u - 1) / u
    (List.range n).foldl (fun t i => t.setUnit (unitBase a + i * u) ⟨false, false, true, false, false, false⟩) s

/-! ### Time -/

/-- Power state of a die: 0 Active, 1 Lull, 2 Calm, 3 off or in reset (R408). -/
def State.power (s : State) (d : Die) : Nat := s.fld (pg d Blk.pwrst 0 + 0x108) 0 2
/-- The die's core clock runs. -/
def State.coreClock (s : State) (d : Die) : Bool := s.power d == 0 && !(s.hk.get d).stopped && !s.pins.clkLost.contains (.sys d)
/-- Time in which the die's cores could issue, in eighths of a ns. -/
def State.time8 (s : State) (d : Die) : Nat := s.issue8.get d
/-- Core clock of a die in units of 50 MHz, and its gating duty in eighths (R387). -/
def State.clock50 (s : State) (d : Die) : Nat := s.fld (pg d Blk.therm 0 + 0x148) 8 6
def State.duty8 (s : State) (d : Die) : Nat := s.fld (pg d Blk.therm 0 + 0x148) 3 3 + 1

/-- Something that keeps the package out of Calm has ended: the conditions of R391 hold from now at the earliest. -/
def State.stir (s : State) : State := { s with calmFrom := s.now }

/-- The same for a die and Lull (R389). -/
def State.stirLull (s : State) (d : Die) : State := { s with lullFrom := s.lullFrom.set d s.now }

/-- n ns pass: system time, and on each die the time and the cycles in which its cores could issue (R96, log 18). -/
def State.passNs (s : State) (n : Nat) : State :=
  let run (d : Die) : Nat := if s.coreClock d then n * s.duty8 d else 0
  { s with
    now := s.now + n
    issue8 := ⟨s.issue8.w + run .windward, s.issue8.l + run .leeward⟩
    cycle8 := ⟨s.cycle8.w + run .windward * (s.clock50 .windward * 50), s.cycle8.l + run .leeward * (s.clock50 .leeward * 50)⟩ }

/-- The moment of a command that names the passing of a time: the clock stands at that moment or later (log 18). -/
def State.carry (s : State) (t : Nat) : State := if s.now < t then s.passNs (t - s.now) else s

/-- The clock stands where a die's issue time has reached a value. -/
def State.carryIssue (s : State) (d : Die) (t8 : Nat) : State :=
  if s.time8 d < t8 ∧ s.coreClock d then s.passNs (ceilDiv (t8 - s.time8 d) (s.duty8 d)) else s

end Sys2Proof.Machine
end

