-- ==== Sys2Proof/Machine/Translate.lean ====
section
/-!
DEFINITION. Partitions and their resources (R341 to R345), and translation: the walk of R54 to R57, interleaving (R241,
R242), and the translations a core caches (R58).
-/
namespace Sys2Proof.Machine

/-! ### Partitions -/

/-- Offset of partition p's block in a SCHED page. -/
def partOff (p : Nat) : Nat := 0xC00 + p * 0x40

/-- A partition may run; partition 0 always may (R347). -/
def State.partOn (s : State) (p : Nat) : Bool := p == 0 || s.flag (schedPage .windward + partOff p) 0
/-- A partition is Guaranteed; partition 0 never is (R341). -/
def State.partG (s : State) (p : Nat) : Bool := p != 0 && s.flag (schedPage .windward + partOff p) 1
def State.wdCapMs (s : State) (p : Nat) : Nat := s.fld (schedPage .windward + partOff p) 3 10
def State.weight (s : State) (p : Nat) : Nat := s.fld (schedPage .windward + partOff p) 16 16
def State.halves (s : State) (d : Die) (p : Nat) : Nat := s.fld (schedPage d + partOff p + 4) 0 16
def State.rvrMask (s : State) (d : Die) (p : Nat) : Nat := s.fld (schedPage d + partOff p + 4) 16 6
/-- The 96-bit core mask of a partition on a die. -/
def State.coreMask (s : State) (d : Die) (p : Nat) : Nat :=
  (s.reg (schedPage d + partOff p + 8)).toNat + (s.reg (schedPage d + partOff p + 12)).toNat * 2 ^ 32 +
    (s.reg (schedPage d + partOff p + 16)).toNat * 2 ^ 64
def State.namesHalf (s : State) (p stack half : Nat) : Bool := bit (s.halves (dieOf (stack / 8)) p) (2 * (stack % 8) + half)
def State.namesRvr (s : State) (p c : Nat) : Bool := bit (s.rvrMask (dieOf (c / 6)) p) (c % 6)
def State.namesCore (s : State) (p : Nat) (d : Die) (core : Nat) : Bool := bit (s.coreMask d p) core

/-- The Guaranteed partition that owns a stack half, if one does. -/
def State.gHalf (s : State) (stack half : Nat) : Option Nat :=
  (List.range 16).find? (fun p => s.partOn p && s.partG p && s.namesHalf p stack half)
def State.gRvr (s : State) (c : Nat) : Option Nat :=
  (List.range 16).find? (fun p => s.partOn p && s.partG p && s.namesRvr p c)

/-- Half of a stack offset (R151). -/
def halfOf (o : Nat) : Nat := bits o 20 1

/-- A partition's access to a place is admitted (R344, R345). -/
def State.admits (s : State) (p a : Nat) : Bool :=
  p == 0 ||
  (match locOf a with
   | .stack n o => match s.gHalf n (halfOf o) with | some g => g == p | none => true
   | .rvr c _ => match s.gRvr c with | some g => g == p | none => true
   | .spad d core _ => s.namesCore p d core
   | _ => true)

/-! ### The package's own addresses -/

/-- The package's module ID (R64). -/
def State.selfId (s : State) : Nat := s.fld (schedPage .windward + 0x9A0) 0 16
def gaModule (ga : Nat) : Nat := ga / 2 ^ 42
def gaLocal (ga : Nat) : Nat := ga % 2 ^ 42
def State.isLocal (s : State) (ga : Nat) : Bool := gaModule ga == s.selfId

/-! ### The walk -/

/-- How a walk ends: a leaf with the base and log2 size of its page, a translation fault, or a data error (R57). -/
inductive Walk where
  | ok (leaf : Nat) (va log2 : Nat)
  | fault
  | bad
deriving DecidableEq, Repr

/-- First and one-past-last byte of the table region (R438). -/
def State.ptRegion (s : State) (d : Die) : Nat × Nat :=
  (s.fld (schedPage d + 0x980) 16 26 * 0x10000, (s.fld (schedPage d + 0x988) 16 26 + 1) * 0x10000)

def State.inPt (s : State) (d : Die) (a len : Nat) : Bool :=
  decide ((s.ptRegion d).1 ≤ a) && decide (a + len ≤ (s.ptRegion d).2)

/-- A span meets the table region. -/
def State.meetsPt (s : State) (d : Die) (a len : Nat) : Bool :=
  decide (a < (s.ptRegion d).2) && decide ((s.ptRegion d).1 < a + len)

/-- The local address of byte x of a page whose leaf names local address a (R241). -/
def interleaved (mode a x : Nat) : Nat :=
  if mode = 1 then
    let u := a % 2 ^ 39 + x
    let g := u / 0x1000
    stackBase (8 * (a / 2 ^ 39 % 2) + g % 8) + g / 8 * 0x1000 + u % 0x1000
  else if mode = 2 then
    let u := a % 2 ^ 40 + x
    let g := u / 0x1000
    stackBase (8 * (g % 16 % 2) + g % 16 / 2) + g / 16 * 0x1000 + u % 0x1000
  else a + x

/-- The spans of local memory a page reaches (R56, R241). -/
def pageSpans (mode a log2 : Nat) : List (Nat × Nat) :=
  if mode = 1 then (List.range 8).map (fun k => (stackBase (8 * (a / 2 ^ 39 % 2) + k) + a % 2 ^ 39 / 8, 2 ^ log2 / 8))
  else if mode = 2 then (List.range 16).map (fun k => (stackBase k + a % 2 ^ 40 / 16, 2 ^ log2 / 16))
  else [(a, 2 ^ log2)]

/-- The structure of a leaf (R55, R242). -/
def leafFormOk (leaf log2 : Nat) : Bool :=
  let mode := bits leaf 6 2
  let ga := bits leaf 0 58 - bits leaf 0 16
  decide (16 ≤ log2) && ga % 2 ^ log2 == 0 && mode != 3 && (mode == 0 || decide (gaLocal ga < 0x10000000000))

/-- A leaf of partition p may map what it maps (R56, R345). -/
def State.leafAllowed (s : State) (d : Die) (p leaf log2 : Nat) : Bool :=
  let ga := bits leaf 0 58 - bits leaf 0 16
  let a := gaLocal ga
  p == 0 || !s.isLocal ga ||
    ((pageSpans (bits leaf 6 2) a log2).all (fun x => !s.meetsPt d x.1 x.2) &&
     (!(decide (regBase < a + 2 ^ log2) && decide (a < 0x3FF20000000)) || s.flag (schedPage .windward + partOff p) 2) &&
     ((List.range 16).all (fun n =>
        !(decide (winBase n < a + 2 ^ log2) && decide (a < winBase n + 0x10000000)) ||
        s.namesHalf p n 0 || s.namesHalf p n 1)))

/-- The levels of R54: shift, index bits, log2 of the table's size. -/
def walkLevels : List (Nat × Nat × Nat) := [(48, 10, 13), (39, 9, 12), (30, 9, 12), (21, 9, 12), (16, 5, 8)]

/-- The rest of a walk from a table. Each entry is read once, whole (R58); one in a controller that has failed is a data
error (R254). -/
def walkFrom (by_ : Nat) (d : Die) (p va : Nat) : List (Nat × Nat × Nat) → Nat → State → State × Walk
  | [], _, s => (s, .fault)
  | (sh, n, _) :: rest, table, s =>
    let e := table + bits va sh n * 8
    if !s.holds e 8 then (s, .fault)
    else if s.lostAt e then (s, .bad)
    else
      let r := s.demand (askedBy by_ 0x10) (some p) e 8
      if r.2.isSome then (r.1, .bad)
      else
        let x := r.1.load e 8
        if !bit x 0 then (r.1, .fault)
        else if bit x 1 then
          if decide (sh ≤ 30) && leafFormOk x sh && r.1.leafAllowed d p x sh then
            (r.1, .ok x (va / 2 ^ sh * 2 ^ sh) sh)
          else (r.1, .fault)
        else
          match rest with
          | [] => (r.1, .fault)
          | (_, _, t) :: _ =>
            let next := bits x 8 50 * 0x100
            if next % 2 ^ t == 0 && r.1.isLocal next && r.1.inPt d (gaLocal next) (2 ^ t) then
              walkFrom by_ d p va rest (gaLocal next) r.1
            else (r.1, .fault)

/-- A walk of partition p's tables on a die, by the block of a page (R54 to R57). -/
def walk (by_ : Nat) (d : Die) (p va : Nat) (s : State) : State × Walk :=
  let root := schedPage d + 0xA00 + p * 8
  if 2 ^ 58 ≤ va ∨ !s.flag root 0 then (s, .fault)
  else
    let t := s.fld root 13 29 * 0x2000
    if s.inPt d t 0x2000 then walkFrom by_ d p va walkLevels t s else (s, .fault)

/-- Permissions of R55. -/
inductive Perm where
  | r | w | x
deriving DecidableEq, Repr

def permBit : Perm → Nat
  | .r => 2
  | .w => 3
  | .x => 4

/-- A translated address. -/
inductive Trans where
  | ok (ga : Nat) (pool : Bool)
  | fault
  | bad
deriving DecidableEq, Repr

/-- The global address a leaf gives for a virtual address, if it permits the access (R57). -/
def leafAddr (leaf va base : Nat) (perm : Perm) : Trans :=
  if bit leaf (permBit perm) then
    let ga := bits leaf 0 58 - bits leaf 0 16
    .ok (gaModule ga * 2 ^ 42 + interleaved (bits leaf 6 2) (gaLocal ga) (va - base)) (bit leaf 5)
  else .fault

/-- Translation by an agent that caches nothing, the block of a page: SCHED, the layout engine (R137). -/
def State.translate (s : State) (by_ : Nat) (d : Die) (p va : Nat) (perm : Perm) : State × Trans :=
  match walk by_ d p va s with
  | (t, .ok leaf base _) => (t, leafAddr leaf va base perm)
  | (t, .fault) => (t, .fault)
  | (t, .bad) => (t, .bad)

/-- Translation by a core: a cached leaf is used until it is invalidated, and a walk's leaf is cached (R58, log 17). -/
def State.coreTranslate (s : State) (d : Die) (core p va : Nat) (perm : Perm) : State × Trans :=
  match s.tlb.find? (fun e => e.die == d && e.core == core && e.part == p && decide (e.va ≤ va) &&
      decide (va < e.va + 2 ^ e.log2)) with
  | some e => (s, leafAddr e.leaf.toNat va e.va perm)
  | none =>
    match walk (s.corePage d core) d p va s with
    | (t, .ok leaf base l) => ({ t with tlb := ⟨d, core, p, base, l, w64 leaf⟩ :: t.tlb }, leafAddr leaf va base perm)
    | (t, .fault) => (t, .fault)
    | (t, .bad) => (t, .bad)

/-- The pieces of a virtual span that no 4 KiB granule boundary cuts, as address and length (R241). -/
def granules (va len : Nat) : List (Nat × Nat) :=
  if len = 0 then []
  else
    let n := (va % 0x1000 + len + 0xFFF) / 0x1000
    (List.range n).map (fun i =>
      let lo := Nat.max va (va / 0x1000 * 0x1000 + i * 0x1000)
      let hi := Nat.min (va + len) (va / 0x1000 * 0x1000 + (i + 1) * 0x1000)
      (lo, hi - lo))

/-- How the translation of a span ends: its pieces as global address, length and pool bit, or the virtual address at
which it fails and why. -/
inductive Span where
  | ok (pieces : List (Nat × Nat × Bool))
  | fault (va : Nat)
  | bad (va : Nat)
deriving DecidableEq, Repr

/-- A span translated piece by piece with any translation. -/
def translateSpan (tr : State → Nat → State × Trans) : List (Nat × Nat) → State → State × Span
  | [], s => (s, .ok [])
  | (va, len) :: r, s =>
    match tr s va with
    | (t, .fault) => (t, .fault va)
    | (t, .bad) => (t, .bad va)
    | (t, .ok ga pool) =>
      match translateSpan tr r t with
      | (u, .ok ps) => (u, .ok ((ga, len, pool) :: ps))
      | x => x

/-- Leaves of one partition dropped from every core's cache, over a range of virtual addresses or all (R58). -/
def State.dropTlb (s : State) (p : Nat) (all : Bool) (first last : Nat) : State :=
  { s with tlb := s.tlb.filter (fun e => !(e.part == p && (all || (decide (e.va ≤ last) && decide (first < e.va + 2 ^ e.log2))))) }

end Sys2Proof.Machine
end

