-- ==== Sys2Proof/Machine/Operands.lean ====
section
/-!
DEFINITION. Operands of core instructions: selectors (R80), descriptors and their checks (R75 to R78), packing (R130,
R131), broadcasting (R76), memory shapes (R77), and the elements an operand names.
-/
namespace Sys2Proof.Machine

/-! ### Selectors -/

/-- What an operand selector names (R80). -/
inductive Sel where
  | desc (n : Nat)
  /-- Logical queues 0–3 AQ, 4–7 EQ. -/
  | queue (q : Nat)
  | none
  | reserved
deriving DecidableEq, Repr

def selOf (x : BitVec 6) : Sel :=
  if x.toNat < 32 then .desc x.toNat
  else if x.toNat < 40 then .queue (x.toNat - 32)
  else if x.toNat = 63 then .none
  else .reserved

/-! ### Descriptors -/

/-- A descriptor's fields (R75); sizes and strides of dimensions not in use read 1 and 0. -/
structure Desc where
  base : Nat
  esize : Nat
  ndim : Nat
  sizes : List Nat
  strides : List Int
deriving DecidableEq, Repr

/-- The fields of a descriptor register (R75). -/
def descOf (w : DescWord) : Desc :=
  let x := w.toNat
  let nd := bits x 24 2 + 1
  { base := bits x 0 21
    esize := bits x 21 3
    ndim := nd
    sizes := (List.range 4).map (fun i => if i < nd then bits x (64 + 16 * i) 16 else 1)
    strides := (List.range 4).map (fun i => if i < nd then signed (bits x (128 + 32 * i) 32) 32 else 0) }

/-- Element width in bits of an esize code (R75). -/
def esizeBits (e : Nat) : Nat :=
  match e with
  | 0 => 4 | 1 => 6 | 2 => 8 | 3 => 16 | _ => 32

/-- The esize that agrees with a fmt code (R81). -/
def fmtEsize (c : Nat) : Nat :=
  match c with
  | 0 => 4 | 1 => 3 | 2 => 2 | 3 => 2 | 4 => 1 | 5 => 1 | 6 => 0 | 7 => 2 | _ => 4

def Desc.size (d : Desc) (i : Nat) : Nat := d.sizes.getD i 1
def Desc.stride (d : Desc) (i : Nat) : Int := d.strides.getD i 0
def Desc.width (d : Desc) : Nat := esizeBits d.esize
def prod (l : List Nat) : Nat := l.foldl (· * ·) 1
def Desc.elems (d : Desc) : Nat := prod d.sizes
/-- Product of the sizes above dimension 0. -/
def Desc.rows (d : Desc) : Nat := prod (d.sizes.drop 1)
def Desc.packed (d : Desc) : Bool := d.stride 0 == 0

/-- Bytes of one run of n elements of w bits (R130). -/
def runBytes (n w : Nat) : Nat := ceilDiv (n * w) 8

/-- The index vectors of a list of sizes, first index fastest. -/
def indices : List Nat → List (List Nat)
  | [] => [[]]
  | n :: r => (indices r).flatMap (fun t => (List.range n).map (fun i => i :: t))

/-- Byte offset of a run from the base, by the indices of dimensions 1 and up (R75). -/
def runOffset : List Nat → List Int → Int
  | i :: r, st :: t => (i : Int) * st + runOffset r t
  | _, _ => 0

/-- The byte spans an operand touches, from its base: offset and length, in element order. A packed run is one span; a
strided run is one span an element. -/
def Desc.pieces (d : Desc) : List (Int × Nat) :=
  (indices (d.sizes.drop 1)).flatMap (fun ix =>
    let o := runOffset ix (d.strides.drop 1)
    if d.packed then [(o, runBytes (d.size 0) d.width)]
    else (List.range (d.size 0)).map (fun (i : Nat) => (o + (i : Int) * d.stride 0, runBytes 1 d.width)))

/-- Lowest byte offset and one past the highest (R78). -/
def Desc.extent (d : Desc) : Int × Int :=
  let lows := (List.range 4).map (fun i => Min.min (((d.size i : Int) - 1) * d.stride i) 0)
  let highs := (List.range 4).map (fun i => Max.max (((d.size i : Int) - 1) * d.stride i) 0)
  let last : Int := if d.packed then runBytes (d.size 0) d.width else runBytes 1 d.width
  (lows.foldl (· + ·) 0, highs.foldl (· + ·) 0 + last)

/-- The scratchpad span of an operand (R78). -/
def Desc.span (d : Desc) : Int × Int := ((d.base : Int) + d.extent.1, (d.base : Int) + d.extent.2)

def spansMeet (a b : Int × Int) : Bool := decide (a.1 < b.2) && decide (b.1 < a.2)

/-- The first halt reason a descriptor gives by its encoding: a reserved esize or size (R82). -/
def Desc.reservedBad (d : Desc) : Bool := decide (4 < d.esize) || d.sizes.any (· == 0)
/-- A sub-byte descriptor with a stride in dimension 0 (R75). -/
def Desc.subByteBad (d : Desc) : Bool := decide (d.esize < 2) && !d.packed
/-- A repeating dimension, which only a source may have (R76). -/
def Desc.repeats (d : Desc) : Bool := (List.range 3).any (fun i => decide (1 < d.size (i + 1)) && d.stride (i + 1) == 0)

/-- Sizes of a source that agree with a destination's: equal, or 1 and broadcast (R76). -/
def broadcasts (src dst : List Nat) : Bool :=
  (List.range 4).all (fun i => src.getD i 1 == dst.getD i 1 || src.getD i 1 == 1)

/-- Elements of a source laid over the sizes of its destination (R76). -/
def spread (src dst : List Nat) (l : List Nat) : List Nat :=
  if src == dst then l
  else
    let s (i : Nat) := src.getD i 1
    (indices dst).map (fun ix =>
      let j (i : Nat) := if s i = 1 then 0 else ix.getD i 0
      l.getD (j 0 + s 0 * (j 1 + s 1 * (j 2 + s 2 * j 3))) 0)

/-! ### Packing -/

/-- n elements of w bits from the bytes of a run (R130). -/
def unpackRun (w n : Nat) (b : List Byte) : List Nat :=
  let x := leNat b
  (List.range n).map (fun i => bits x (i * w) w)

/-- The bytes of a run, fill bits zero (R130). -/
def packRun (w : Nat) (l : List Nat) : List Byte :=
  leBytes (runBytes l.length w) ((l.zip (List.range l.length)).foldl (fun x e => x + e.1 % 2 ^ w * 2 ^ (e.2 * w)) 0)

/-- Elements cut into runs of n. -/
def rowsOf {α : Type} (n : Nat) (l : List α) : List (List α) := if n = 0 then [] else chunks n (l.length / n + 1) l

/-- The bytes of elements as a data queue carries them: each run starts at a byte (R131). -/
def queueBytes (w size0 : Nat) (l : List Nat) : List Byte := (rowsOf size0 l).flatMap (packRun w)

/-- Elements from the bytes of a data queue. -/
def unqueue (w size0 rows : Nat) (b : List Byte) : List Nat :=
  let rb := runBytes size0 w
  (List.range rows).flatMap (fun i => unpackRun w size0 ((b.drop (i * rb)).take rb))

/-- Bytes cut into entries of 256 B, the tail zero (R68). -/
def toEntries (b : List Byte) : List QEntry :=
  (chunks 256 (b.length / 256 + 1) b).map (fun e => ⟨e ++ List.replicate (256 - e.length) 0, false⟩)

/-! ### Scratchpad operands -/

/-- The bytes of an operand's pieces, in element order. -/
def State.operandBytes (s : State) (base : Nat) (d : Desc) : List (List Byte) :=
  d.pieces.map (fun p => s.bytes ((base : Int) + d.base + p.1).toNat p.2)

/-- The elements of a scratchpad operand, in element order. -/
def State.operandElems (s : State) (base : Nat) (d : Desc) : List Nat :=
  (s.operandBytes base d).flatMap (fun b => unpackRun d.width (if d.packed then d.size 0 else 1) b)

/-- The first scratchpad address of an operand that cannot be delivered, with the reads' effects (R74, R263). -/
def State.demandOperand (s : State) (part base : Nat) (d : Desc) : State × Option Nat :=
  d.pieces.foldl (fun acc p =>
    match acc.2 with
    | some _ => acc
    | none => acc.1.demand 1 (some part) ((base : Int) + d.base + p.1).toNat p.2) (s, none)

/-- Elements written to a scratchpad operand. -/
def State.putOperand (s : State) (base : Nat) (d : Desc) (l : List Nat) : State :=
  let n := if d.packed then d.size 0 else 1
  (d.pieces.zip (rowsOf n l)).foldl (fun t p =>
    t.storeBytes ((base : Int) + d.base + p.1.1).toNat (packRun d.width p.2)) s

/-- The elements of a scratchpad operand from number `k` on written, of which `l` lists the first ones all; an element that
shares its byte with an earlier one is written with it. -/
def State.putRest (s : State) (base : Nat) (d : Desc) (k : Nat) (l : List Nat) : State :=
  let n := if d.packed then d.size 0 else 1
  (d.pieces.zip (List.range d.pieces.length)).foldl (fun t p =>
    let b := packRun d.width ((l.drop (p.2 * n)).take n)
    let from_ := (k - p.2 * n) * d.width / 8
    if k < (p.2 + 1) * n then t.storeBytes (((base : Int) + d.base + p.1.1).toNat + from_) (b.drop from_) else t) s

/-- Elements that the first `n` bytes of a data queue give whole (R131). -/
def queueElems (w size0 n : Nat) : Nat := n / runBytes size0 w * size0 + Nat.min size0 (n % runBytes size0 w * 8 / w)

/-- Bytes of a data queue that the first `m` of its elements fill (R131). -/
def queueFill (w size0 m : Nat) : Nat := m / size0 * runBytes size0 w + m % size0 * w / 8

/-- Free bytes left in the span of a destination whose instruction was killed (R93). -/
def State.scramble (s : State) (base : Nat) (d : Desc) : State :=
  d.pieces.foldl (fun t p =>
    let f := t.freeBytes p.2
    f.2.storeBytes ((base : Int) + d.base + p.1).toNat f.1) s

/-! ### Memory shapes -/

/-- The virtual byte offsets of a memory shape's runs with their element counts: a packed run is one, a strided run is
one an element (R75, R77). -/
def Desc.memRuns (d : Desc) : List (Int × Nat) :=
  (indices (d.sizes.drop 1)).flatMap (fun ix =>
    let o := runOffset ix (d.strides.drop 1)
    if d.packed then [(o, d.size 0)]
    else (List.range (d.size 0)).map (fun (i : Nat) => (o + (i : Int) * d.stride 0, 1)))

/-- A 64-bit address from an integer. -/
def va64 (x : Int) : Nat := unsignedOf x 64

/-- The virtual span of a memory shape at an address (R221). -/
def Desc.memSpan (d : Desc) (va : Nat) : Int × Int := ((va : Int) + d.extent.1, (va : Int) + d.extent.2)

end Sys2Proof.Machine
end

