-- ==== Sys2Proof/Machine/Strand.lean ====
section
/-!
DEFINITION. Strands: where one lies, when its stream may issue (R91, R92), how an instruction waits, commits, halts
(R95, R100) or is killed (R42, R93), and the moving of queue entries (R68, R69).
-/
namespace Sys2Proof.Machine

/-! ### Keys -/

def coreKey (d : Die) (core : Nat) : Nat := d.idx * 96 + core
def strandKey (d : Die) (core ctx : Nat) : Nat := coreKey d core * 8 + ctx
def keySid (k : Nat) : Sid := ⟨dieOf (k / 768), k / 8 % 96, k % 8⟩
/-- Offset of a stream's registers in a strand's tables. -/
def streamIdx : Stream → Nat
  | .access => 0
  | .execute => 1
def launchKey (d : Die) (ring index : Nat) : Nat := (d.idx * 64 + ring) * 65536 + index % 65536

def Core.empty : Core where
  holdA := none
  holdE := none
  lastA := 7
  lastE := 7
  holdSinceA := 0
  holdSinceE := 0
  arrOwner := none
  arrShape := 0
  reasons := []
  images := []
  reserved := []
  parked := []
  holder := none
  turnStart := 0
  turnAsked := false
  leftAt := 0
  chargedAt := 0
  retiring := false
  jtagHalt := false
  jtagStep := false
  spadPart := none

def State.core (s : State) (d : Die) (n : Nat) : Core := (mget none s.cores (coreKey d n)).getD Core.empty
def State.setCore (s : State) (d : Die) (n : Nat) (c : Core) : State :=
  { s with cores := mset none s.cores (coreKey d n) (some c) }
def State.strand (s : State) (k : Nat) : Option Strand := mget none s.strands k
def State.setStrand (s : State) (k : Nat) (x : Strand) : State := { s with strands := mset none s.strands k (some x) }

/-- The strand holds its context and may run (R42). -/
def Strand.active (x : Strand) : Bool := x.stat == .ready || x.stat == .running || x.stat == .waiting
/-- The strand is on a core, parked or loading, and not yet ended. -/
def Strand.live (x : Strand) : Bool := x.active || x.stat == .loading || x.stat == .parked

/-! ### Registers of a stream (R67) -/

def Strand.pc (x : Strand) : Stream → Nat
  | .access => x.apc
  | .execute => x.epc
def Strand.setPc (x : Strand) (str : Stream) (v : Nat) : Strand :=
  match str with
  | .access => { x with apc := v }
  | .execute => { x with epc := v }
/-- A scalar register; s0 reads zero. -/
def Strand.sreg (x : Strand) (str : Stream) (r : BitVec 4) : Word :=
  if r = 0 then 0 else mget 0 x.scal (16 * streamIdx str + r.toNat)
/-- A scalar register written; s0 discards. -/
def Strand.setSreg (x : Strand) (str : Stream) (r : BitVec 4) (v : Word) : Strand :=
  if r = 0 then x else { x with scal := mset 0 x.scal (16 * streamIdx str + r.toNat) v }
def Strand.dreg (x : Strand) (str : Stream) (n : Nat) : DescWord := mget 0 x.desc (32 * streamIdx str + n)
def Strand.setDreg (x : Strand) (str : Stream) (n : Nat) (v : DescWord) : Strand :=
  { x with desc := mset 0 x.desc (32 * streamIdx str + n) v }
def Strand.ended (x : Strand) : Stream → Bool
  | .access => x.endA
  | .execute => x.endE
def Strand.ctrWait (x : Strand) : Stream → Option CtrWait
  | .access => x.waitA
  | .execute => x.waitE
def Strand.setCtrWait (x : Strand) (str : Stream) (w : Option CtrWait) : Strand :=
  match str with
  | .access => { x with waitA := w }
  | .execute => { x with waitE := w }
def Strand.saved (x : Strand) : Stream → Option Nat
  | .access => x.savedA
  | .execute => x.savedE
def Strand.setSaved (x : Strand) (str : Stream) (w : Option Nat) : Strand :=
  match str with
  | .access => { x with savedA := w }
  | .execute => { x with savedE := w }
def Strand.blocked (x : Strand) : Stream → Option Blocked
  | .access => x.blockA
  | .execute => x.blockE
def Strand.setBlocked (x : Strand) (str : Stream) (b : Option Blocked) : Strand :=
  match str with
  | .access => { x with blockA := b }
  | .execute => { x with blockE := b }
def Strand.prog (x : Strand) : Stream → Option QProgress
  | .access => x.progA
  | .execute => x.progE
def Strand.setProg (x : Strand) (str : Stream) (p : Option QProgress) : Strand :=
  match str with
  | .access => { x with progA := p }
  | .execute => { x with progE := p }
def Core.hold (c : Core) : Stream → Option Nat
  | .access => c.holdA
  | .execute => c.holdE
def Core.setHold (c : Core) (str : Stream) (h : Option Nat) (t : Nat) : Core :=
  match str with
  | .access => { c with holdA := h, lastA := h.getD c.lastA, holdSinceA := t }
  | .execute => { c with holdE := h, lastE := h.getD c.lastE, holdSinceE := t }
def Core.last (c : Core) : Stream → Nat
  | .access => c.lastA
  | .execute => c.lastE

/-! ### Queues of a strand (R65, R68) -/

def Strand.queue (x : Strand) (q : Nat) : List QEntry := mget [] x.queues q
def Strand.setQueue (x : Strand) (q : Nat) (l : List QEntry) : Strand := { x with queues := mset [] x.queues q l }
/-- The image's header declares a queue (R65). -/
def Strand.declares (x : Strand) (q : Nat) : Bool := bit x.queueMask q

/-- A stream may pop a queue, or push it (R68). -/
def mayPop (str : Stream) (q : Nat) : Bool :=
  match str with
  | .access => decide (4 ≤ q)
  | .execute => decide (q < 4)
def mayPush (str : Stream) (q : Nat) : Bool :=
  match str with
  | .access => decide (q < 4)
  | .execute => decide (4 ≤ q)

/-- A stream waits on a queue of its strand: one it pops is empty, or one it pushes is full. -/
def Strand.waitsQueue (x : Strand) (str : Stream) : Option Nat :=
  match x.blocked str with
  | some (.queue q) => if (if mayPop str q then (x.queue q).isEmpty else decide (32 ≤ (x.queue q).length)) then some q else none
  | _ => none

/-! ### Status -/

/-- The execute stream is at a kill point (R94). -/
def Strand.atKillPoint (x : Strand) : Bool := x.atMark || x.waitE.isSome || x.endE

/-- The strand has been asked to park and its execute stream is at a kill point: neither stream begins anything more while
the instructions that are never killed complete (R94). -/
def Strand.atHalt (x : Strand) : Bool := x.parkAsked && x.atKillPoint

/-- A stream of an active strand can go on as far as the state tells: what it waited for on a queue may have come. -/
def Strand.canGo (x : Strand) (str : Stream) : Bool :=
  !x.ended str && (x.ctrWait str).isNone &&
    (match x.blocked str with | none => true | some (.queue _) => (x.waitsQueue str).isNone | some _ => false)

/-- The status R42 gives an active strand from what its streams do. -/
def Strand.restat (x : Strand) (c : Core) (ctx now : Nat) : Strand :=
  if !x.active then x
  else
    let runs (str : Stream) : Bool := c.hold str == some ctx && x.canGo str
    let waits (str : Stream) : Bool := (x.ctrWait str).isSome || (x.waitsQueue str).isSome
    let stat : StrandStat := if runs .access || runs .execute then .running
      else if waits .access || waits .execute then .waiting else .ready
    { x with stat := stat, lastRun := if stat = .waiting ∧ x.stat ≠ .waiting then now else x.lastRun }

/-- Every active strand of a core given its status. -/
def State.restatCore (s : State) (d : Die) (core : Nat) : State :=
  let c := s.core d core
  (List.range 8).foldl (fun t i =>
    match t.strand (strandKey d core i) with
    | some x => if x.restat c i s.now = x then t else t.setStrand (strandKey d core i) (x.restat c i s.now)
    | none => t) s

/-! ### Issue -/

/-- Place of a context in the round-robin that starts after the last holder of a stream (R91). -/
def Core.turnOf (c : Core) (str : Stream) (ctx : Nat) : Nat := (ctx + 15 - c.last str) % 8

/-- Strand `y` in context `j` comes before strand `x` in context `i` on a stream of a core (R91, R92): by priority, then the
holder, then round-robin. -/
def Core.before (c : Core) (str : Stream) (j : Nat) (y : Strand) (i : Nat) (x : Strand) : Bool :=
  decide (x.prio < y.prio) || (x.prio == y.prio && (c.hold str == some j ||
    (c.hold str != some i && decide (c.turnOf str j < c.turnOf str i))))

/-- Another strand of the core that stands in the way of a strand on a stream: it has an instruction that holds the stream
(R92), or it can go on and comes first (R91, R92). A strand whose own instruction holds the stream is in nobody's way. -/
def State.streamBusy (s : State) (i : Sid) (str : Stream) (x : Strand) : Bool :=
  let c := s.core i.die i.core
  (List.range 8).any (fun j => j != i.ctx &&
    (match s.strand (strandKey i.die i.core j) with
     | some y => y.active &&
        ((y.prog str).isSome || ((x.prog str).isNone && y.canGo str && !y.atHalt && c.before str j y i.ctx x))
     | none => false))

/-- The stream holds an SCMD whose write waits at a full command queue (R162): a progress with nothing left to move. -/
def Strand.atWindow (x : Strand) (str : Stream) : Bool :=
  match x.prog str with
  | some p => p.computed && p.toPush.isEmpty
  | none => false

/-- A FENCE or SFENCE of the stream waits (R223). -/
def Strand.fenced (x : Strand) (str : Stream) : Bool :=
  match x.blocked str with
  | some (.fence _) => true
  | _ => false

/-- The strand's next instruction on a stream may be taken up now. -/
def State.mayIssue (s : State) (i : Sid) (str : Stream) (x : Strand) : Bool :=
  x.active && !x.ended str && !x.atWindow str && !x.atHalt && (x.ctrWait str).isNone && !x.fenced str &&
    s.coreClock i.die && (!(s.core i.die i.core).jtagHalt || (s.core i.die i.core).jtagStep) &&
    !s.streamBusy i str x

/-- A core whose stream is held by context `ctx` from time `t`, or from before. -/
def Core.taken (c : Core) (str : Stream) (ctx t : Nat) : Core :=
  { (if c.hold str = some ctx then c else c.setHold str (some ctx) t) with jtagStep := false }

/-- A core put back, where it differs. -/
def State.putCore (s : State) (d : Die) (n : Nat) (c : Core) : State := if c = s.core d n then s else s.setCore d n c

/-- The strand as it takes up an instruction: it waits for nothing, and the execute stream leaves its mark (R94). -/
def Strand.takes (x : Strand) (str : Stream) : Strand :=
  ({ x with atMark := x.atMark && decide (str = .access) } : Strand).setBlocked str none

/-- The stream is the strand's. -/
def State.takeStream (s : State) (i : Sid) (str : Stream) (x : Strand) : State :=
  ((s.putCore i.die i.core ((s.core i.die i.core).taken str i.ctx (s.time8 i.die))).setStrand i.key
    (x.takes str)).restatCore i.die i.core

/-- The instruction waits and holds nothing: it is taken up again later. -/
def State.waitOn (s : State) (i : Sid) (str : Stream) (b : Blocked) : State :=
  match s.strand i.key with
  | some x => (s.setStrand i.key (x.setBlocked str (some b))).restatCore i.die i.core
  | none => s

/-- The instruction commits: the pc passes it. -/
def Strand.advance (x : Strand) (str : Stream) : Strand := (x.setPc str (x.pc str + 16)).setProg str none

/-! ### Ending a strand -/

/-- An instruction in flight that is never killed once it has begun (R93). -/
def MemKind.stays : MemKind → Bool
  | .st => true
  | .sta => true
  | .atadd => true
  | .lxsub => true
  | .scmd => true
  | _ => false

/-- The die whose Pool may hold the line of an address (R243). -/
def lineDie (line : Nat) : Die :=
  match locOf (line * 128) with
  | .stack n _ => dieOf (n / 8)
  | .rvr c _ => dieOf (c / 6)
  | _ => .windward

/-- The parts of a span by 128 B line. -/
def lineSpans (a len : Nat) : List (Nat × Nat) :=
  if len = 0 then []
  else
    (List.range ((a % 128 + len + 127) / 128)).map (fun i =>
      let lo := Nat.max a (a / 128 * 128 + i * 128)
      let hi := Nat.min (a + len) (a / 128 * 128 + (i + 1) * 128)
      (lo, hi - lo))

/-- The merge entry of a load, while it is open. -/
def State.mergeOf (s : State) (m : Inflight) : Option McastEntry :=
  m.mcast.bind (fun id => s.mcast.find? (fun e => e.id == id && !e.freed))

/-- The data of a load is fetched by the multicast unit, whose fetch no ending of a member stops (R118). -/
def State.unitFetches (s : State) (m : Inflight) : Bool := (s.mergeOf m).isSome

/-- The fills a killed load began are given up with it: its data goes nowhere (R93, R248, log 7). A multicast unit's go on. -/
def State.forgetFills (s : State) (part : Nat) (m : Inflight) : State :=
  let lines := if s.unitFetches m then [] else m.runs.flatMap (fun r => r.pieces.flatMap (fun p =>
    if p.2.2 && s.isLocal p.1 then (lineSpans (gaLocal p.1) p.2.1).map (fun x => x.1 / 128) else []))
  lines.foldl (fun (t : State) l =>
    let d := lineDie l
    match (t.pool.get d).fills.find? (fun f => f.part == part && f.line == l) with
    | some f => { t with pool := t.pool.set d { t.pool.get d with fills := (t.pool.get d).fills.erase f } }
    | none => t) s

/-- The destination of a killed load holds free bytes (R93). -/
def State.scrambleDest (s : State) (d : Dest) : State :=
  match d with
  | .spad runs w => runs.foldl (fun t r => let f := t.freeBytes (runBytes r.2 w); f.2.storeBytes r.1 f.1) s
  | _ => s

/-- A command of a stack is to be killed (R182). -/
def State.markKilled (s : State) (n uid : Nat) : State :=
  let k := s.stack n
  if k.cmds.any (fun c => c.uid == uid && !c.killed && !c.visible) then
    s.setStack n { k with cmds := replaceFirst (fun c => c.uid == uid) (fun c => { c with killed := true }) k.cmds }
  else s

/-- A Basin handle and its slots are freed, and its generation advances (R206, R209). -/
def Basin.free (b : Basin) (h : Nat) : Basin :=
  { b with
    groups := b.groups.filter (fun g => g.handle != h)
    gens := mset 0 b.gens h ((mget 0 b.gens h + 1) % 64) }

/-- The live reservation of a handle and generation. -/
def Basin.group (b : Basin) (h gen : Nat) : Option Group := b.groups.find? (fun g => g.handle == h && g.gen == gen)

/-- A live group is broken: BASIN_BROKEN counts it, the members issued are killed, and it is freed once they have all
completed (R210). -/
def State.breakGroup (s : State) (d : Die) (h gen : Nat) : State :=
  match (s.basin.get d).group h gen with
  | none => s
  | some g =>
    if g.broken then s
    else
      let b := s.basin.get d
      let b1 := if g.ended = g.issued then b.free h
        else { b with groups := b.groups.map (fun y => if y.handle = h then { y with broken := true } else y) }
      let s1 := ({ s with basin := s.basin.set d b1 } : State).bump (basinPage d) 0x058 32 1
      g.members.foldl (fun u m => u.markKilled m.1 m.2) s1

/-- A strand's open groups are broken, and the members it has issued are killed (R210). -/
def State.breakGroups (s : State) (x : Strand) : State :=
  x.groups.foldl (fun t g => t.breakGroup g.home g.handle g.gen) s

/-- A strand no longer waits for Basin slots (R208). -/
def State.dropWaits (s : State) (key : Nat) : State :=
  let f (b : Basin) : Basin := { b with waits := b.waits.filter (fun w => w.strand != some key) }
  { s with basin := ⟨f s.basin.w, f s.basin.l⟩ }

/-- What every ending of a strand does to it: killable instructions are dropped, the others complete apart, its waits,
queues and groups are gone. -/
def Strand.cleared (x : Strand) (st : StrandStat) : Strand :=
  { x with
    stat := st
    parkOrder := 0
    inflight := x.inflight.filter (fun m => m.kind.stays)
    progA := none
    progE := none
    waitA := none
    waitE := none
    savedA := none
    savedE := none
    blockA := none
    blockE := none
    busy := []
    groups := []
    queues := []
    qmap := []
    parkAsked := false
    parkedFor := none
    atMark := false }

/-- A context gives up the streams it holds. The array keeps its block: it is the last MLOAD's, wherever that strand is
(R87). -/
def State.dropHolds (s : State) (i : Sid) : State :=
  let c := s.core i.die i.core
  let c1 := if c.holdA = some i.ctx then { c with holdA := none } else c
  let c2 := if c1.holdE = some i.ctx then { c1 with holdE := none } else c1
  s.setCore i.die i.core { c2 with leftAt := s.now }

/-- Requests of the killed instructions of a strand are nobody's: their data is discarded (R93). -/
def State.orphanReqs (s : State) (i : Sid) (ids : List Nat) : State :=
  if ids.isEmpty then s
  else
    let free (r : Request) : Request := match r.owner with
      | .strand j k => if j == i && ids.contains k then { r with owner := .gone } else r
      | _ => r
    { s with requests := s.requests.map free, reqWait := s.reqWait.map (fun e => (free e.1, e.2)) }

/-- A strand in its context ends with a status (R42, R93, R210). -/
def State.endStrand (s : State) (i : Sid) (x : Strand) (st : StrandStat) : State :=
  let dead := x.inflight.filter (fun m => !m.kind.stays)
  let s1 := (dead.foldl (fun (t : State) m => (t.forgetFills x.part m).scrambleDest m.dest) s).orphanReqs i (dead.map (·.id))
  (((s1.breakGroups x).dropWaits i.key).setStrand i.key (x.cleared st)).dropHolds i

/-- Parked strands of a core that a test picks are freed (R42, R353). -/
def State.freeParked (s : State) (p : Nat → Strand → Bool) : State :=
  s.cores.foldl (fun t e =>
    match e.2 with
    | some c =>
      let gone := c.parked.filter (fun y => p (e.1 * 8 + y.1) y.2)
      if gone.isEmpty then t
      else
        let t1 := gone.foldl (fun u y => u.breakGroups y.2) t
        { t1 with cores := mset none t1.cores e.1 (some { c with parked := c.parked.filter (fun y => !p (e.1 * 8 + y.1) y.2) }) }
    | none => t) s

/-- Strands a test picks are killed, resident and parked (R42). -/
def State.killStrands (s : State) (p : Nat → Strand → Bool) : State :=
  let s1 := s.strands.foldl (fun t e =>
    match e.2 with
    | some x => if (x.active || x.stat == .loading) && p e.1 x then t.endStrand (keySid e.1) x .free else t
    | none => t) s
  let s2 := s1.freeParked p
  s2.cores.foldl (fun t e => t.restatCore (keySid (e.1 * 8)).die (keySid (e.1 * 8)).core) s2

/-- The launch with a key. -/
def Launch.key (l : Launch) : Nat := launchKey l.die l.ring l.index

/-- A launch's result is decided by whichever of a halt and a kill takes effect first (R53). -/
def State.decideLaunch (s : State) (key status detail : Nat) : State :=
  { s with launches := s.launches.map (fun l =>
      if l.key == key && l.result.isNone then { l with result := some (status, detail), stage := if l.stage = .started then .ending else l.stage } else l) }

/-- The reason of a context's last halt, as its status block shows it (R101). -/
def State.noteReason (s : State) (i : Sid) (reason : Nat) : State :=
  let c := s.core i.die i.core
  s.setCore i.die i.core { c with reasons := mset 0 c.reasons i.ctx reason }

/-- A strand halts (R95, R100): one fault record, its streams stop, and SCHED kills the rest of its launch (R47). -/
def State.haltStrand (s : State) (i : Sid) (reason : Nat) (arg : Nat) : State :=
  match s.strand i.key with
  | none => s
  | some x =>
    let page := s.corePage i.die i.core
    let s1 := s.raise page (0x0100 + reason) (some x.part) arg (x.tag % 2 ^ 32 + i.ctx * 2 ^ 32) false (reason == 0x0A)
    let s2 := (s1.endStrand i x .halted).noteReason i reason
    let s3 := s2.decideLaunch x.launch 1 (reason + regInst page * 2 ^ 16)
    (s3.killStrands (fun k y => y.launch == x.launch && k != i.key)).restatCore i.die i.core

/-- A halt whose argument is the instruction's place (R100). -/
def State.halt (s : State) (i : Sid) (str : Stream) (reason : Nat) : State :=
  match s.strand i.key with
  | some x => s.haltStrand i reason (x.pc str % 2 ^ 17 + streamIdx str * 2 ^ 17)
  | none => s

/-! ### Fetch -/

/-- The image a strand runs. -/
def State.imageOf (s : State) (i : Sid) (x : Strand) : Option Image :=
  (s.core i.die i.core).images.find? (fun m => m.part == x.part && m.va == x.kernelVa)

/-- The opcodes of R84, R85 and R86; every other one is reserved (R82). -/
def opcodeKnown (o : Nat) : Bool :=
  decide (o ≤ 0x14) || (decide (0x40 ≤ o) && decide (o ≤ 0x4A)) || (decide (0x80 ≤ o) && decide (o ≤ 0x91))

/-- The 16 B of an image at an offset, as one number (R79). -/
def Image.word (m : Image) (pc : Nat) : Nat := leNat ((List.range 16).map (fun k => memGet m.bytes (pc + k)))

/-- The halt a fetch gives: the pc outside the image, a word that fails its check, or a reserved opcode (R82, R100,
R263). -/
def State.fetchBad (s : State) (i : Sid) (str : Stream) (x : Strand) : Option Nat :=
  let pc := x.pc str
  if x.imageLen < pc + 16 then some 0x0D
  else
    match s.imageOf i x with
    | some m =>
      if m.bad.any (fun o => decide (o < pc + 16) && decide (pc < o + 8)) then some 0x13
      else if opcodeKnown (memGet m.bytes pc).toNat then none else some 0x01
    | none => none

/-- The words of a strand's fetch that fail their check. -/
def Image.badAt (m : Image) (pc : Nat) : List Nat := m.bad.filter (fun o => decide (o < pc + 16) && decide (pc < o + 8))

/-- A fetch meets a bad word whose error has not been delivered before (R269). -/
def State.newBad (s : State) (i : Sid) (str : Stream) (x : Strand) : Bool :=
  match s.imageOf i x with
  | some m => (m.badAt (x.pc str)).any (fun o => !m.told.contains o)
  | none => false

/-- The errors of a fetch have been delivered; each new one counts for the core's instruction memory, which lies behind the
scratchpad in the counts by bank (R270). -/
def State.tellBad (s : State) (i : Sid) (str : Stream) (x : Strand) : State :=
  match s.imageOf i x with
  | some m =>
    let c := s.core i.die i.core
    let new := (m.badAt (x.pc str)).filter (fun o => !m.told.contains o)
    new.foldl (fun t o => t.noteBank i.die i.core (spadBytes + o) true) (s.setCore i.die i.core { c with
      images := c.images.map (fun y => if y = m then { y with told := (y.told ++ y.badAt (x.pc str)).dedup } else y) })
  | none => s

/-- An instruction of a stream is taken up: its strand's stream is free for it, its fetch succeeds, and the stream is its
own (R82); the body says the rest. -/
def issue (i : Sid) (str : Stream) (own : Option Stream) (body : Strand → State → State) (s : State) : State :=
  match s.strand i.key with
  | none => s
  | some x =>
    if !s.mayIssue i str x then s
    else
      let s1 := s.takeStream i str x
      match s1.fetchBad i str x with
      | some 0x13 =>
        let page := s1.corePage i.die i.core
        (((s1.raise page 0x0301 (some x.part) (x.pc str) 2 false (s1.newBad i str x)).tellBad i str x)).halt i str 0x13
      | some r => s1.halt i str r
      | none =>
        match own with
        | some o => if o = str then (match s1.strand i.key with | some y => body y s1 | none => s1) else s1.halt i str 0x01
        | none => match s1.strand i.key with | some y => body y s1 | none => s1

/-- The strand's registers change and the pc passes the instruction. -/
def State.commitStrand (s : State) (i : Sid) (str : Stream) (x : Strand) : State :=
  s.setStrand i.key (x.advance str)

/-- A FENCE or SFENCE that waits commits once what it waits for has completed; an SFENCE behind a command that ended with
status 2 or 3 halts its strand instead (R84, R85, R183, R223). -/
def State.settleFence (s : State) (i : Sid) : State :=
  match s.strand i.key with
  | none => s
  | some x =>
    let done (y : Strand) : State := (s.commitStrand i .access (y.setBlocked .access none)).restatCore i.die i.core
    if !x.active || x.atHalt then s
    else
      match x.blockA with
      | some (.fence false) => if x.inflight.isEmpty then done x else s
      | some (.fence true) =>
        if !x.cmds.isEmpty || x.inflight.any (fun m => m.kind == .scmd) then s
        else
          match x.badCmd with
          | some va => (s.setStrand i.key { x with badCmd := none }).haltStrand i 0x08 va
          | none => done x
      | _ => s

/-- A scalar of the stream awaits an SLD or ATADD (R72). -/
def Strand.isBusy (x : Strand) (str : Stream) (rs : List (BitVec 4)) : Bool :=
  rs.any (fun r => r != 0 && x.busy.contains (16 * streamIdx str + r.toNat))

/-- An access-stream scratchpad span conflicts with an instruction in flight (R72). -/
def Strand.spanBusy (x : Strand) (str : Stream) (sp : Int × Int) (writes : Bool) : Bool :=
  str == .access && x.inflight.any (fun m => m.spans.any (fun y => (y.2.2 || writes) && spansMeet (y.1, y.2.1) sp))

/-- An earlier instruction of the stream still writes the scratchpad: entries pushed now would be seen before those writes
(R73). -/
def Strand.padBehind (x : Strand) (id : Nat) : Bool :=
  (x.inflight.takeWhile (fun y => y.id != id)).any (fun y => match y.dest with | .spad _ _ => true | _ => false)

/-- A load's data is still to be asked of memory: of a merge entry only until the unit has it (R118). -/
def State.mayFetch (s : State) (m : Inflight) : Bool :=
  match s.mergeOf m with
  | some e => e.data.isNone
  | none => true

/-- A load with what its merge entry's fetch has asked for and received so far, which the unit holds (R118). -/
def State.withFetch (s : State) (m : Inflight) : Inflight :=
  match s.mergeOf m with
  | some e => { m with remote := e.remote, got := e.got, err := e.err }
  | none => m

/-- What a fetch has asked for stands with the merge entry, where the load has one. -/
def State.noteFetch (s : State) (m : Inflight) : State :=
  match s.mergeOf m with
  | some e => { s with mcast := s.mcast.map (fun y => if y.id = e.id then { y with asked := true, remote := m.remote, got := m.got, err := m.err } else y) }
  | none => s

/-! ### Queues -/

def entriesOf (bytes : Nat) : Nat := ceilDiv bytes 256

/-- Entries popped so far for operand number j. -/
def QProgress.have (p : QProgress) (j : Nat) : List Byte := ((p.popped.find? (fun e => e.1 == j)).map (·.2)).getD []

/-- Move to the instruction's progress what its queues hold of the entries it still needs. `needs` lists operand number,
queue and bytes. The flag says that an entry taken was uncorrectable. -/
def popNeeds : List (Nat × Nat × Nat) → Strand → QProgress → Strand × QProgress × Bool
  | [], x, p => (x, p, false)
  | (j, q, n) :: r, x, p =>
    let got := p.have j
    let want := entriesOf n - got.length / 256
    let take := (x.queue q).take want
    let x1 := if take.isEmpty then x else x.setQueue q ((x.queue q).drop want)
    let p1 := if take.isEmpty then p
      else { p with popped := (j, got ++ take.flatMap (·.bytes)) :: p.popped.filter (fun e => e.1 != j) }
    let rest := popNeeds r x1 p1
    (rest.1, rest.2.1, rest.2.2 || take.any (·.bad))

/-- What a queue-bound instruction makes of its inputs: the state with a halt reason and its argument, or the new state,
the entries to push, each with its queue, and what then stands of each result (QProgress). -/
inductive QResult where
  | halt (s : State) (reason : Nat) (arg : Option Nat)
  | ok (s : State) (push : List (Nat × QEntry)) (made : List Nat)

/-- Push entries in order while there is room; what is left, with the queue that is full. -/
def pushAll : List (Nat × QEntry) → Strand → Strand × List (Nat × QEntry)
  | [], x => (x, [])
  | (q, e) :: r, x => if (x.queue q).length < 32 then pushAll r (x.setQueue q (x.queue q ++ [e])) else (x, (q, e) :: r)

/-- A halt of an instruction whose place or address the record names. -/
def State.haltWith (s : State) (i : Sid) (str : Stream) (reason : Nat) (arg : Option Nat) : State :=
  match arg with
  | some a => s.haltStrand i reason a
  | none => s.halt i str reason

/-- A queue-bound instruction moves entries as they become available and holds its stream until it commits (R69, R93).
It begins only when it can move a first entry. `make` gives what the inputs so far determine of the results, beyond what
stands already; its first argument says whether they are all in. -/
def queueRun (i : Sid) (str : Stream) (needs : List (Nat × Nat × Nat)) (push : Option Nat)
    (make : Bool → (Nat → List Byte) → List Nat → State → QResult) (x : Strand) (s : State) : State :=
  let p0 := (x.prog str).getD ⟨[], [], false, []⟩
  let firstQ := match needs with | (_, q, _) :: _ => q | [] => push.getD 0
  let canBegin := (x.prog str).isSome ||
    (if needs.isEmpty then (match push with | some q => decide ((x.queue q).length < 32) | none => true)
     else needs.any (fun n => !(x.queue n.2.1).isEmpty))
  if !canBegin then s.waitOn i str (.queue firstQ)
  else
    let r := popNeeds needs x p0
    if r.2.2 then
      ((s.setStrand i.key r.1).raise (s.corePage i.die i.core) 0x0301 (some x.part) 0 1 false true).haltStrand i 0x08 0
    else
      let lacks := if p0.computed then none
        else needs.find? (fun n => decide ((r.2.1.have n.1).length / 256 < entriesOf n.2.2))
      match (if p0.computed then QResult.ok (s.setStrand i.key r.1) [] []
        else make lacks.isNone r.2.1.have p0.made (s.setStrand i.key r.1)) with
      | .halt t reason arg => t.haltWith i str reason arg
      | .ok t todo made =>
        match t.strand i.key with
        | none => t
        | some y =>
          match pushAll (p0.toPush ++ todo) y, lacks with
          | (z, rest), some n =>
            (t.setStrand i.key (z.setProg str (some { r.2.1 with toPush := rest, made := made }))).waitOn i str (.queue n.2.1)
          | (z, []), none => t.commitStrand i str z
          | (z, (q, e) :: rest), none =>
            (t.setStrand i.key (z.setProg str (some ⟨[], (q, e) :: rest, true, []⟩))).waitOn i str (.queue q)

end Sys2Proof.Machine
end

