-- ==== Sys2Proof/Machine/Control.lean ====
section
/-!
DEFINITION. The control instructions, valid in both streams (R84), the counter wait (R97 to R99), and strand switching
(R91, R92).
-/
namespace Sys2Proof.Machine

/-! ### Switching -/

/-- The context that a stream goes to next among those a test admits: highest priority, then round-robin after the last
holder (R91). -/
def State.pickNext (s : State) (d : Die) (core : Nat) (str : Stream) (ok : Nat → Strand → Bool) : Option Nat :=
  let c := s.core d core
  let cand := (List.range 8).map (fun j => (c.last str + 1 + j) % 8)
  let good := cand.filterMap (fun j =>
    match s.strand (strandKey d core j) with
    | some y => if y.active && y.canGo str && ok j y then some (j, y.prio) else none
    | none => none)
  (minBy (fun e => 255 - e.2) good).map (·.1)

/-- The stream passes to the strand that is next, where there is one (R92). -/
def State.switchStream (s : State) (d : Die) (core : Nat) (str : Stream) (ok : Nat → Strand → Bool) : State :=
  match s.pickNext d core str ok with
  | some j => (s.setCore d core ((s.core d core).setHold str (some j) (s.time8 d))).restatCore d core
  | none => s

/-! ### Scalar instructions -/

/-- A scalar result: the instruction waits for the registers it reads or writes (R72), then rd holds the value. -/
def scalarOp (i : Sid) (str : Stream) (rs : List (BitVec 4)) (rd : BitVec 4) (v : Strand → State → Word) (s : State) : State :=
  issue i str none (fun x t =>
    if x.isBusy str (rd :: rs) then t.waitOn i str .other
    else t.commitStrand i str (x.setSreg str rd (v x t))) s

/-- NOP: none. -/
def execNop (i : Sid) (str : Stream) (_f : SF) (s : State) : Host.Outcome State Fault Refusal :=
  commit s (issue i str none (fun x t => t.commitStrand i str x) s)

/-- SLI: rd ← imm. -/
def execSli (i : Sid) (str : Stream) (f : SF) (s : State) : Host.Outcome State Fault Refusal :=
  commit s (scalarOp i str [] f.rd (fun _ _ => f.imm) s)

/-- SADD: rd ← rs1 + rs2 + imm. -/
def execSadd (i : Sid) (str : Stream) (f : SF) (s : State) : Host.Outcome State Fault Refusal :=
  commit s (scalarOp i str [f.rs1, f.rs2] f.rd (fun x _ => x.sreg str f.rs1 + x.sreg str f.rs2 + f.imm) s)

/-- SMUL: rd ← low 64 bits of rs1 × rs2. -/
def execSmul (i : Sid) (str : Stream) (f : SF) (s : State) : Host.Outcome State Fault Refusal :=
  commit s (scalarOp i str [f.rs1, f.rs2] f.rd (fun x _ => x.sreg str f.rs1 * x.sreg str f.rs2) s)

/-- SAND: rd ← rs1 and rs2. -/
def execSand (i : Sid) (str : Stream) (f : SF) (s : State) : Host.Outcome State Fault Refusal :=
  commit s (scalarOp i str [f.rs1, f.rs2] f.rd (fun x _ => x.sreg str f.rs1 &&& x.sreg str f.rs2) s)

/-- SOR: rd ← rs1 or rs2. -/
def execSor (i : Sid) (str : Stream) (f : SF) (s : State) : Host.Outcome State Fault Refusal :=
  commit s (scalarOp i str [f.rs1, f.rs2] f.rd (fun x _ => x.sreg str f.rs1 ||| x.sreg str f.rs2) s)

/-- SXOR: rd ← rs1 xor rs2. -/
def execSxor (i : Sid) (str : Stream) (f : SF) (s : State) : Host.Outcome State Fault Refusal :=
  commit s (scalarOp i str [f.rs1, f.rs2] f.rd (fun x _ => x.sreg str f.rs1 ^^^ x.sreg str f.rs2) s)

/-- The shift distance (rs2 + imm)[5:0]. -/
def shiftBy (x : Strand) (str : Stream) (f : SF) : Nat := (x.sreg str f.rs2 + f.imm).toNat % 64

/-- SSHL: rd ← rs1 shifted left. -/
def execSshl (i : Sid) (str : Stream) (f : SF) (s : State) : Host.Outcome State Fault Refusal :=
  commit s (scalarOp i str [f.rs1, f.rs2] f.rd (fun x _ => x.sreg str f.rs1 <<< shiftBy x str f) s)

/-- SSHR: rd ← rs1 shifted right logically. -/
def execSshr (i : Sid) (str : Stream) (f : SF) (s : State) : Host.Outcome State Fault Refusal :=
  commit s (scalarOp i str [f.rs1, f.rs2] f.rd (fun x _ => x.sreg str f.rs1 >>> shiftBy x str f) s)

/-- Resident cycles of a strand (R67). -/
def residentCycles (i : Sid) (x : Strand) (s : State) : Nat :=
  (x.cycles + (s.cycle8.get i.die - x.cycSince)) / 8000

/-- The special registers of SRD (R84); none for a reserved number. -/
def special (i : Sid) (n : Nat) (x : Strand) (s : State) : Option Word :=
  match n with
  | 0x00 => some (w64 i.core)
  | 0x01 => some (w64 i.die.idx)
  | 0x02 => some (w64 i.ctx)
  | 0x03 => some (w64 x.index)
  | 0x04 => some (w64 x.part)
  | 0x05 => some x.argVa
  | 0x06 => some (w64 s.now)
  | 0x07 => some (w64 (residentCycles i x s))
  | 0x08 => some (w64 x.tiles)
  | _ => none

/-- SRD: rd ← special register imm[7:0]; a reserved number halts with 0x02 (R100). -/
def execSrd (i : Sid) (str : Stream) (f : SF) (s : State) : Host.Outcome State Fault Refusal :=
  commit s (issue i str none (fun x t =>
    match special i (f.imm.toNat % 256) x t with
    | none => t.halt i str 0x02
    | some v => if x.isBusy str [f.rd] then t.waitOn i str .other else t.commitStrand i str (x.setSreg str f.rd v)) s)

/-! ### The scratchpad and descriptors -/

/-- An access of n bytes to the strand's own scratchpad at a 64-bit address: the alignment and bound checks of R84, the
waits of R72, then the body. The argument of a misalignment is the address (log 19). -/
def spadAccess (i : Sid) (str : Stream) (rs : List (BitVec 4)) (n addr : Nat) (writes : Bool)
    (body : Strand → State → State) (s : State) : State :=
  issue i str none (fun x t =>
    if x.isBusy str rs then t.waitOn i str .other
    else if addr % n ≠ 0 then t.haltStrand i 0x0B addr
    else if spadBytes < addr + n then t.halt i str 0x04
    else if x.spanBusy str ((addr : Int), (addr : Int) + n) writes then t.waitOn i str .other
    else body x t) s

/-- The effective address rs1 + imm. -/
def State.effAddr (s : State) (i : Sid) (str : Stream) (f : SF) : Nat :=
  match s.strand i.key with
  | some x => (x.sreg str f.rs1 + f.imm).toNat
  | none => 0

/-- A read of n bytes of the strand's scratchpad: an uncorrectable word halts with 0x08 (R74). -/
def spadRead (i : Sid) (n addr : Nat) (k : Nat → Strand → State → State) (x : Strand) (s : State) : State :=
  let a := spadBase i.die i.core + addr
  match s.demand 1 (some x.part) a n with
  | (t, some b) => t.haltStrand i 0x08 (b - spadBase i.die i.core)
  | (t, none) => k (t.load a n) x t

/-- SLDP: rd ← the 8 B of scratchpad at rs1 + imm. -/
def execSldp (i : Sid) (str : Stream) (f : SF) (s : State) : Host.Outcome State Fault Refusal :=
  commit s (spadAccess i str [f.rd, f.rs1] 8 (s.effAddr i str f) false
    (spadRead i 8 (s.effAddr i str f) (fun v x t => t.commitStrand i str (x.setSreg str f.rd (w64 v)))) s)

/-- SSTP: the 8 B of scratchpad at rs1 + imm ← rs2. -/
def execSstp (i : Sid) (str : Stream) (f : SF) (s : State) : Host.Outcome State Fault Refusal :=
  commit s (spadAccess i str [f.rs1, f.rs2] 8 (s.effAddr i str f) true (fun x t =>
    (t.storeBytes (spadBase i.die i.core + s.effAddr i str f) (leBytes 8 (x.sreg str f.rs2).toNat)).commitStrand i str x) s)

/-- The conditions of BR (R84); none for a reserved one. -/
def condHolds (c : Nat) (a b : Word) : Option Bool :=
  match c with
  | 0 => some true
  | 1 => some (a == b)
  | 2 => some (a != b)
  | 3 => some (a.slt b)
  | 4 => some (!(a.slt b))
  | 5 => some (a.ult b)
  | 6 => some (!(a.ult b))
  | _ => none

/-- BR: the pc moves by imm instructions from the BR itself where the condition holds. -/
def execBr (i : Sid) (str : Stream) (f : SF) (s : State) : Host.Outcome State Fault Refusal :=
  commit s (issue i str none (fun x t =>
    match condHolds f.rd.toNat (x.sreg str f.rs1) (x.sreg str f.rs2) with
    | none => t.halt i str 0x02
    | some taken =>
      if x.isBusy str [f.rs1, f.rs2] then t.waitOn i str .other
      else if taken then t.setStrand i.key (x.setPc str (unsignedOf ((x.pc str : Int) + 16 * f.imm.toInt) 64))
      else t.commitStrand i str x) s)

/-- DLDI: d[rd] ← the 32 B of the image at imm. The record of a misaligned imm holds imm, the byte offset in the image,
which R100 does not name (DEDUCED, log 19). -/
def execDldi (i : Sid) (str : Stream) (f : SF) (s : State) : Host.Outcome State Fault Refusal :=
  commit s (issue i str none (fun x t =>
    let o := f.imm.toNat
    if o % 32 ≠ 0 then t.haltStrand i 0x0B o
    else if x.imageLen < o + 32 then t.halt i str 0x0D
    else
      match t.imageOf i x with
      | none => t.commitStrand i str (x.setDreg str f.rd.toNat 0)
      | some m =>
        if m.bad.any (fun b => decide (b < o + 32) && decide (o < b + 8)) then
          (t.raise (t.corePage i.die i.core) 0x0301 (some x.part) o 2 false true).halt i str 0x13
        else
          let v := leNat ((List.range 32).map (fun k => memGet m.bytes (o + k)))
          t.commitStrand i str (x.setDreg str f.rd.toNat (BitVec.ofNat 256 v))) s)

/-- DLD: d[rd] ← the 32 B of scratchpad at rs1 + imm. -/
def execDld (i : Sid) (str : Stream) (f : SF) (s : State) : Host.Outcome State Fault Refusal :=
  commit s (spadAccess i str [f.rs1] 32 (s.effAddr i str f) false
    (spadRead i 32 (s.effAddr i str f) (fun v x t => t.commitStrand i str (x.setDreg str f.rd.toNat (BitVec.ofNat 256 v)))) s)

/-- DBASE: d[rd].base ← (rs1 + imm)[20:0]. -/
def execDbase (i : Sid) (str : Stream) (f : SF) (s : State) : Host.Outcome State Fault Refusal :=
  commit s (issue i str none (fun x t =>
    if x.isBusy str [f.rs1] then t.waitOn i str .other
    else
      let v := (x.sreg str f.rs1 + f.imm).toNat
      t.commitStrand i str
        (x.setDreg str f.rd.toNat (BitVec.ofNat 256 (setBits (x.dreg str f.rd.toNat).toNat 0 21 v)))) s)

/-! ### Counter wait -/

/-- The die an address is homed on. -/
def homeDie (a : Nat) : Die :=
  match locOf a with
  | .stack n _ => dieOf (n / 8)
  | .rvr c _ => dieOf (c / 6)
  | .spad d _ _ => d
  | _ => .windward

/-- Where a counter may not lie: the reason of R89 for a translated counter address, none where it is in order. `a` is
its global address. -/
def State.counterBad (s : State) (p ga : Nat) : Option Nat :=
  let a := gaLocal ga
  if !s.isLocal ga || !isDram a then some 0x12
  else if !s.holds a 8 || !s.admits p a then some (if s.lostAt a then 0x08 else 0x07)
  else if s.lostAt a then some 0x08
  else none

/-- Issue time a wait has spent resident, in eighths of a ns (R97, R99). -/
def CtrWait.elapsed (w : CtrWait) (s : State) (d : Die) : Nat := w.elapsed8 + (s.time8 d - w.since8)

/-- The virtual span an instruction accesses: its rows for a GATHER, otherwise from its lowest byte to its highest, with
the counter of an STA (R221). -/
def Inflight.vaSpans (m : Inflight) : List (Int × Int) :=
  let each := m.runs.map (fun r => ((r.va : Int), ((r.va + (r.pieces.map (fun p => p.2.1)).foldl (· + ·) 0 : Nat) : Int)))
  let ctr : List (Int × Int) := if m.kind = .sta then [((m.value.toNat : Int), (m.value.toNat : Int) + 8)] else []
  match each with
  | [] => ctr
  | e :: rest => (if m.kind = .gather then each else [rest.foldl (fun a b => (Min.min a.1 b.1, Max.max a.2 b.2)) e]) ++ ctr

/-- The bytes an instruction accesses, as global addresses: two pages may map one word (R55). -/
def Inflight.gaSpans (m : Inflight) : List (Int × Int) :=
  m.runs.flatMap (fun r => r.pieces.map (fun p => ((p.1 : Int), ((p.1 + p.2.1 : Nat) : Int))))

/-- A counter wait of the access stream reads its word behind the stream's earlier instructions that overlap it (R219,
R221). -/
def Strand.waitBehind (x : Strand) (str : Stream) (w : CtrWait) : Bool :=
  str == .access && x.inflight.any (fun m => m.vaSpans.any (spansMeet ((w.va : Int), (w.va : Int) + 8)) ||
    m.gaSpans.any (fun g => spansMeet (g.1 % 2 ^ 42, g.1 % 2 ^ 42 + (g.2 - g.1)) ((w.pa : Int), (w.pa : Int) + 8)))

/-- One evaluation of a counter wait (R97): the counter reached its target and the WAITC commits, the time is up, or the
wait goes on. A counter in a poisoned unit halts (R264), and so does one in a controller that has failed (R254). -/
def evalWait (i : Sid) (str : Stream) (w : CtrWait) (x : Strand) (s : State) : State :=
  if x.waitBehind str w then (s.setStrand i.key (x.setCtrWait str (some w))).restatCore i.die i.core
  else if s.lostAt w.pa then s.haltStrand i 0x08 w.va
  else
  match s.demand (askedBy (s.corePage i.die i.core) 0) (some x.part) w.pa 8 with
  | (t, some _) => t.haltStrand i 0x08 w.va
  | (t, none) =>
    let v := w64 (t.load w.pa 8)
    if w.target.toNat ≤ v.toNat then
      let y := ((x.setCtrWait str none).setSaved str none).setSreg str (BitVec.ofNat 4 w.rd) v
      let y1 := if str = .execute then { y with wdSince8 := t.time8 i.die } else y
      (t.commitStrand i str y1).restatCore i.die i.core
    else if w.timeoutUs * 8000 ≤ w.elapsed t i.die then
      t.halt i str 0x0A
    else (t.setStrand i.key (x.setCtrWait str (some { w with seen := v }))).restatCore i.die i.core

/-- The tile watchdog's time is taken up to now and stands still (R96). -/
def Strand.stopWatch (x : Strand) (s : State) (d : Die) : Strand :=
  { x with wdElapsed8 := x.wdElapsed8 + (s.time8 d - x.wdSince8), wdSince8 := s.time8 d }

/-- WAITC: registers the wait with the arrive block of the counter's die, and evaluates it once (R97). -/
def execWaitc (i : Sid) (str : Stream) (f : SF) (s : State) : Host.Outcome State Fault Refusal :=
  commit s (issue i str none (fun x t =>
    let timeout := f.imm.toNat / 2 ^ 32
    let va := (x.sreg str f.rs1 + w64 (va64 (signed f.imm.toNat 32))).toNat
    if timeout = 0 then t.halt i str 0x02
    else if x.isBusy str [f.rd, f.rs1, f.rs2] then t.waitOn i str .other
    else if va % 8 ≠ 0 then t.haltStrand i 0x0B va
    else
      match t.coreTranslate i.die i.core x.part va .r with
      | (u, .fault) => u.haltStrand i 0x06 va
      | (u, .bad) => u.haltStrand i 0x08 va
      | (u, .ok ga _) =>
        match u.counterBad x.part ga with
        | some r => u.haltStrand i r va
        | none =>
          let a := gaLocal ga
          let u1 := u.bump (pg (homeDie a) Blk.arrive 0) 0x040 32 1
          let w : CtrWait := ⟨va, a, x.sreg str f.rs2, f.rd.toNat, timeout, (x.saved str).getD 0, u1.time8 i.die, 0⟩
          let x1 := if str = .execute then x.stopWatch u1 i.die else x
          evalWait i str w x1 u1) s)

/-- WAITC_REEVALUATE: a waiting WAITC reads its counter again (R98). A strand asked to park at its kill point evaluates no
wait any more: the kill wins (R94, R99). -/
def execWaitcReevaluate (i : Sid) (str : Stream) (s : State) : Host.Outcome State Fault Refusal :=
  commit s (match s.strand i.key with
    | some x =>
      match x.ctrWait str with
      | some w =>
        if !x.active || x.atHalt || !s.coreClock i.die then s
        else
          let s1 := if w64 (s.load w.pa 8) = w.seen then s else s.bump (pg (homeDie w.pa) Blk.arrive 0) 0x044 32 1
          evalWait i str w x s1
      | none => s
    | none => s)

/-- REMOTE_WAIT_TIMEOUT: the wait has been resident for its timeout; it is evaluated, and halts with 0x0A where the
counter still falls short (R97). -/
def execRemoteWaitTimeout (i : Sid) (str : Stream) (s : State) : Host.Outcome State Fault Refusal :=
  commit s (match s.strand i.key with
    | some x =>
      match x.ctrWait str with
      | some w =>
        if !x.active || x.atHalt || !s.coreClock i.die then s
        else evalWait i str w x (s.carryIssue i.die (w.since8 + (w.timeoutUs * 8000 - w.elapsed8)))
      | none => s
    | none => s)

/-! ### Fences, halting, ending -/

/-- FENCE: waits until every earlier memory instruction of the stream has completed (R84, R222). -/
def execFence (i : Sid) (str : Stream) (_f : SF) (s : State) : Host.Outcome State Fault Refusal :=
  commit s (issue i str none (fun x t =>
    if str = .access ∧ !x.inflight.isEmpty then t.waitOn i str (.fence false) else t.commitStrand i str x) s)

/-- YIELD: offers the stream to another strand of equal or higher priority. -/
def execYield (i : Sid) (str : Stream) (_f : SF) (s : State) : Host.Outcome State Fault Refusal :=
  commit s (issue i str none (fun x t =>
    (t.commitStrand i str x).switchStream i.die i.core str (fun j y => j != i.ctx && decide (x.prio ≤ y.prio))) s)

/-- HALT: halts the strand with 0x0F and records imm[31:0] (R100). -/
def execHalt (i : Sid) (str : Stream) (f : SF) (s : State) : Host.Outcome State Fault Refusal :=
  commit s (issue i str none (fun x t =>
    t.haltStrand i 0x0F (x.pc str % 2 ^ 17 + streamIdx str * 2 ^ 17 + f.imm.toNat % 2 ^ 32 * 2 ^ 32)) s)

/-- A strand whose streams have both ended ends, or halts with 0x11 where an entry is left in a queue (R71). Its memory
instructions complete on their own (R231). -/
def State.finishStrand (s : State) (i : Sid) (str : Stream) (x : Strand) : State :=
  if x.queues.any (fun e => !e.2.isEmpty) then s.halt i str 0x11
  else (((s.breakGroups x).setStrand i.key { (x.cleared .free) with inflight := x.inflight }).dropHolds i).restatCore i.die i.core

/-- END: ends the stream, and the strand once both have ended. -/
def execEndStream (i : Sid) (str : Stream) (_f : SF) (s : State) : Host.Outcome State Fault Refusal :=
  commit s (issue i str none (fun x t =>
    let y := match str with
      | .access => { x with endA := true }
      | .execute => { x with endE := true }
    if y.endA && y.endE then (t.setStrand i.key y).finishStrand i str y
    else (t.setStrand i.key y).restatCore i.die i.core) s)

end Sys2Proof.Machine
end

