-- ==== Sys2Proof/Machine/Execute.lean ====
section
/-!
DEFINITION. The execute-stream instructions (R86): the matrix array (R102 to R116), the vector unit (R121 to R124), and
the checks their operands pass before they have any effect (R75 to R82, R103, R461).
-/
namespace Sys2Proof.Machine

/-! ### Operands of a tensor instruction -/

/-- An operand with its place settled: its selector, element width in bits, and sizes. -/
structure Opd where
  sel : Sel
  w : Nat
  sizes : List Nat
deriving DecidableEq, Repr

/-- What an instruction reads and writes, and what it computes: the elements of each source to the elements of each
destination. -/
structure Plan where
  srcs : List Opd
  dsts : List Opd
  /-- Alignment of every operand base (R78). -/
  align : Nat
  /-- Elements of each destination that the elements so far of each source determine; none stands for all of them (R69). -/
  ready : List (Option Nat) → List Nat
  compute : List (List Nat) → State → List (List Nat) × State

def Strand.descAt (x : Strand) (str : Stream) (sel : Sel) : Option Desc :=
  match sel with
  | .desc n => some (descOf (x.dreg str n))
  | _ => none

/-- The halt a used operand gives by itself: None (R80), a queue of the wrong direction or undeclared (R68), a reserved
size (R82), a sub-byte stride (R75), a repeating destination (R76). -/
def Strand.selBad (x : Strand) (str : Stream) (dest : Bool) (sel : Sel) : Option Nat :=
  match sel with
  | .none => some 0x05
  | .reserved => some 0x02
  | .queue q => if x.declares q && (if dest then mayPush str q else mayPop str q) then none else some 0x0C
  | .desc n =>
    let d := descOf (x.dreg str n)
    if d.reservedBad then some 0x02 else if d.subByteBad || (dest && d.repeats) then some 0x05 else none

/-- The first halt in a list of checks. -/
def firstHalt (l : List (Option Nat)) : Option Nat := (l.find? (·.isSome)).join

/-- A failed check halts with 0x05. -/
def need (ok : Bool) : Option Nat := if ok then none else some 0x05
/-- A reserved value halts with 0x02. -/
def reserved (bad : Bool) : Option Nat := if bad then some 0x02 else none

/-- Any reserved selector halts, used or not (R80). -/
def selReserved (f : TF) : Bool := [f.od, f.oa, f.ob, f.oc].any (fun x => selOf x == .reserved)

/-- A reserved format (R81). -/
def fmtReserved (c : BitVec 4) : Bool := decide (8 < c.toNat)

/-- A reserved value in a field of format T, used or not (R82, log 86); `hasFmtB` says whether fmt_b counts: MMA without oc
ignores it (R81). -/
def tfReserved (f : TF) (hasFmtB : Bool) : Bool :=
  selReserved f || fmtReserved f.fmtD || fmtReserved f.fmtA || (hasFmtB && fmtReserved f.fmtB) || f.rnd == 3 ||
    decide (2 < f.shape.toNat) || f.sblk == 3

/-- The seed of stochastic rounding (R113). -/
def tfSeed (f : TF) : Nat := f.imm.toNat % 2 ^ 32

/-- The format of a descriptor operand agrees with its esize (R81). -/
def fmtAgrees (o : Option Desc) (c : BitVec 4) : Bool :=
  match o with
  | some d => d.esize == fmtEsize c.toNat
  | none => true

/-- Bytes a queue carries for an operand (R131). -/
def Opd.bytes (o : Opd) : Nat := runBytes (o.sizes.getD 0 1) o.w * prod (o.sizes.drop 1)

/-- The checks of R78 on every span: base alignment, bound, and a destination that meets a source. -/
def spanHalt (x : Strand) (str : Stream) (p : Plan) : Option (Nat × Option Nat) :=
  let ds (l : List Opd) := l.filterMap (fun o => x.descAt str o.sel)
  let all := ds p.srcs ++ ds p.dsts
  match all.find? (fun d => d.base % p.align ≠ 0) with
  | some d => some (0x0B, some d.base)
  | none =>
    if all.any (fun d => decide (d.span.1 < 0) || decide ((spadBytes : Int) < d.span.2)) then some (0x04, none)
    else if (ds p.dsts).any (fun d => (ds p.srcs).any (fun e => spansMeet d.span e.span)) then some (0x03, none)
    else none

/-- The elements of the sources, in order; a source that cannot be delivered gives its scratchpad address (R74). -/
def readSrcs (i : Sid) (x : Strand) (str : Stream) (popped : Nat → List Byte) :
    Nat → List Opd → State → State × Option Nat × List (List Nat)
  | _, [], s => (s, none, [])
  | j, o :: r, s =>
    match x.descAt str o.sel with
    | some d =>
      match s.demandOperand x.part (spadBase i.die i.core) d with
      | (t, some b) => (t, some b, [])
      | (t, none) =>
        let rest := readSrcs i x str popped (j + 1) r t
        (rest.1, rest.2.1, t.operandElems (spadBase i.die i.core) d :: rest.2.2)
    | none =>
      let rest := readSrcs i x str popped (j + 1) r s
      (rest.1, rest.2.1, unqueue o.w (o.sizes.getD 0 1) (prod (o.sizes.drop 1)) (popped j) :: rest.2.2)

/-- Results placed: into the scratchpad, or as entries for their queues. -/
def placeDsts (i : Sid) (x : Strand) (str : Stream) : List Opd → List (List Nat) → State → State × List (Nat × QEntry)
  | o :: r, l :: t, s =>
    match x.descAt str o.sel with
    | some d => placeDsts i x str r t (s.putOperand (spadBase i.die i.core) d l)
    | none =>
      let rest := placeDsts i x str r t s
      match o.sel with
      | .queue q => (rest.1, (toEntries (queueBytes o.w (o.sizes.getD 0 1) l)).map (fun e => (q, e)) ++ rest.2)
      | _ => rest
  | _, _, s => (s, [])

/-- Queue sources with their operand numbers. -/
def queueNeeds : Nat → List Opd → List (Nat × Nat × Nat)
  | _, [] => []
  | j, o :: r =>
    match o.sel with
    | .queue q => (j, q, o.bytes) :: queueNeeds (j + 1) r
    | _ => queueNeeds (j + 1) r

/-- Elements that have come of each source: none where all are there. -/
def Plan.come (p : Plan) (popped : Nat → List Byte) : List (Option Nat) :=
  (p.srcs.zip (List.range p.srcs.length)).map (fun e =>
    match e.1.sel with
    | .queue _ =>
      let n := (popped e.2).length
      if e.1.bytes ≤ n then none else some (queueElems e.1.w (e.1.sizes.getD 0 1) n)
    | _ => none)

/-- The results beyond what stands of them: `n` gives the elements determined of each destination, `k` what stands already.
Elements go into the scratchpad, and entries that are full, or the last, to their queue. -/
def placeRest (i : Sid) (x : Strand) (str : Stream) : List Opd → List (List Nat) → List Nat → List Nat → State →
    State × List (Nat × QEntry) × List Nat
  | o :: r, l :: t, n, k, s =>
    let m := n.headD 0
    match x.descAt str o.sel, o.sel with
    | some d, _ =>
      let rest := placeRest i x str r t n.tail k.tail (s.putRest (spadBase i.die i.core) d (k.headD 0) (l.take m))
      (rest.1, rest.2.1, m :: rest.2.2)
    | none, .queue q =>
      let full := if l.length ≤ m then entriesOf o.bytes else queueFill o.w (o.sizes.getD 0 1) m / 256
      let es := ((toEntries (queueBytes o.w (o.sizes.getD 0 1) l)).take full).drop (k.headD 0)
      let rest := placeRest i x str r t n.tail k.tail s
      (rest.1, es.map (fun e => (q, e)) ++ rest.2.1, Nat.max full (k.headD 0) :: rest.2.2)
    | none, _ =>
      let rest := placeRest i x str r t n.tail k.tail s
      (rest.1, rest.2.1, 0 :: rest.2.2)
  | _, _, _, _, s => (s, [], [])

/-- What an instruction makes of the elements of its sources that have come: all of its results at once where it has them
all from the start; otherwise what they determine, element by element (R69). Result counters advance once, with the last. -/
def Plan.make (p : Plan) (i : Sid) (str : Stream) (x : Strand) (all : Bool) (popped : Nat → List Byte) (made : List Nat)
    (t : State) : QResult :=
  match readSrcs i x str popped 0 p.srcs t with
  | (u, some b, _) => .halt u 0x08 (some (b - spadBase i.die i.core))
  | (u, none, l) =>
    let c := p.compute l u
    if all && made.isEmpty then
      let r := placeDsts i x str p.dsts c.1 c.2
      .ok r.1 r.2 []
    else
      let n := if all then c.1.map List.length else p.ready (p.come popped)
      let r := placeRest i x str p.dsts c.1 n made (if all then c.2 else t)
      .ok r.1 r.2.1 r.2.2

/-- An instruction with its plan runs: the span checks first, then its entries and its effect. -/
def runPlan (i : Sid) (str : Stream) (p : Plan) (x : Strand) (s : State) : State :=
  match spanHalt x str p with
  | some (r, a) => s.haltWith i str r a
  | none =>
    let push := (p.dsts.filterMap (fun o => match o.sel with | .queue q => some q | _ => none)).head?
    queueRun i str (queueNeeds 0 p.srcs) push (p.make i str x) x s

/-- A tensor instruction: its encoding and operand checks give a halt reason or a plan. -/
def tensor (i : Sid) (str : Stream) (plan : Strand → State → Nat ⊕ Plan) (s : State) : State :=
  issue i str (some .execute) (fun x t =>
    match plan x t with
    | .inl r => t.halt i str r
    | .inr p => runPlan i str p x t) s

/-! ### Result elements and their counters (R114, R125) -/

/-- NaN and overflow counts of a list of results. -/
def State.countElems (s : State) (i : Sid) (l : List Elem) : State :=
  let page := s.corePage i.die i.core
  let n := (l.filter (·.nan)).length
  let o := (l.filter (·.ovf)).length
  let s1 := if n = 0 then s else s.bump page 0x050 32 n
  if o = 0 then s1 else s1.bump page 0x054 32 o

/-- Values converted to a destination format, each with its stochastic bits. -/
def convertAll (c rnd : Nat) (sat : Bool) (seed tile : Nat) (l : List Num) : List Elem :=
  (l.zip (List.range l.length)).map (fun e => convert c rnd sat (srBits seed tile e.2) e.1)

/-! ### Vector instructions -/

/-- A vector instruction's format of a floating-point operand (R121): FP32 to FP4. -/
def vecFmt (c : BitVec 4) : Option Nat := if fmtReserved c then some 0x02 else need (decide (c.toNat < 7))

/-- Where every result element comes from one element of each source: as many as have come of all, `n` in whole. -/
def allCome (n : Nat) (l : List (Option Nat)) : Nat := l.foldl (fun m o => Nat.min m (o.getD m)) n

/-- Sizes of an elementwise instruction (R461): the destination's where it is a descriptor, otherwise those of its
descriptor sources, which must be equal. -/
def elemSizes (dst : Option Desc) (srcs : List (Option Desc)) : Option (List Nat) :=
  match dst with
  | some d => if srcs.all (fun o => match o with | some e => broadcasts e.sizes d.sizes | none => true) then some d.sizes else none
  | none =>
    match srcs.filterMap id with
    | e :: r => if r.all (fun g => g.sizes == e.sizes) then some e.sizes else none
    | [] => none

/-- An elementwise instruction over its sources with their formats; `op` gives one element's value, `e` its index. -/
def elementwise (i : Sid) (str : Stream) (f : TF) (srcs : List (BitVec 6 × BitVec 4)) (seed : Nat)
    (op : List Num → Num) (x : Strand) (_s : State) : Nat ⊕ Plan :=
  let sel := srcs.map (fun o => (selOf o.1, o.2))
  let d := x.descAt str (selOf f.od)
  let halt := firstHalt
    ([reserved (tfReserved f true)] ++
     (x.selBad str true (selOf f.od) :: sel.map (fun o => x.selBad str false o.1)) ++
     [need (f.sblk == 0), vecFmt f.fmtD, need (fmtAgrees d f.fmtD)] ++
     sel.map (fun o => vecFmt o.2) ++ sel.map (fun o => need (fmtAgrees (x.descAt str o.1) o.2)))
  match halt with
  | some r => .inl r
  | none =>
    match elemSizes d (sel.map (fun o => x.descAt str o.1)) with
    | none => .inl 0x05
    | some sizes =>
      .inr
        { srcs := sel.map (fun o => ⟨o.1, fmtBits o.2.toNat, ((x.descAt str o.1).map (·.sizes)).getD sizes⟩)
          dsts := [⟨selOf f.od, fmtBits f.fmtD.toNat, sizes⟩]
          align := 8
          ready := fun l => [allCome (prod sizes) l]
          compute := fun l t =>
            let vals := (sel.zip l).map (fun e =>
              (spread (((x.descAt str e.1.1).map (·.sizes)).getD sizes) sizes e.2).map (decodeNum e.1.2.toNat))
            let n := prod sizes
            let r := convertAll f.fmtD.toNat f.rnd.toNat f.sat seed x.tiles
              ((List.range n).map (fun k => op (vals.map (fun v => v.getD k .nan))))
            ([r.map (·.bits)], t.countElems i r) }

def binary (op : Num → Num → Num) (l : List Num) : Num :=
  match l with
  | [a, b] => op a b
  | _ => .nan

def unary (op : Num → Num) (l : List Num) : Num :=
  match l with
  | [a] => op a
  | _ => .nan

/-- A two-source elementwise instruction. -/
def vec2 (i : Sid) (str : Stream) (f : TF) (op : Num → Num → Num) (s : State) : State :=
  tensor i str (elementwise i str f [(f.oa, f.fmtA), (f.ob, f.fmtB)] (tfSeed f) (binary op)) s

/-- A one-source elementwise instruction. -/
def vec1 (i : Sid) (str : Stream) (f : TF) (op : Num → Num) (s : State) : State :=
  tensor i str (elementwise i str f [(f.oa, f.fmtA)] (tfSeed f) (unary op)) s

/-- VADD: the exact sum, rounded once (R122). -/
def execVadd (i : Sid) (str : Stream) (f : TF) (s : State) : Host.Outcome State Fault Refusal :=
  commit s (vec2 i str f Num.add s)
/-- VSUB: the exact difference, rounded once. -/
def execVsub (i : Sid) (str : Stream) (f : TF) (s : State) : Host.Outcome State Fault Refusal :=
  commit s (vec2 i str f (fun a b => a.add b.neg) s)
/-- VMUL: the exact product, rounded once. -/
def execVmul (i : Sid) (str : Stream) (f : TF) (s : State) : Host.Outcome State Fault Refusal :=
  commit s (vec2 i str f Num.mul s)
/-- VFMA: oa × ob + oc exactly, rounded once; oc is in fmt_d (R81). -/
def execVfma (i : Sid) (str : Stream) (f : TF) (s : State) : Host.Outcome State Fault Refusal :=
  commit s (tensor i str (elementwise i str f [(f.oa, f.fmtA), (f.ob, f.fmtB), (f.oc, f.fmtD)] (tfSeed f)
    (fun l => match l with | [a, b, c] => (a.mul b).add c | _ => .nan)) s)
/-- VMAX (R122). -/
def execVmax (i : Sid) (str : Stream) (f : TF) (s : State) : Host.Outcome State Fault Refusal :=
  commit s (vec2 i str f Num.max s)
/-- VMIN (R122). -/
def execVmin (i : Sid) (str : Stream) (f : TF) (s : State) : Host.Outcome State Fault Refusal :=
  commit s (vec2 i str f Num.min s)
/-- VEXP2 (R124). -/
def execVexp2 (i : Sid) (str : Stream) (f : TF) (s : State) : Host.Outcome State Fault Refusal :=
  commit s (vec1 i str f (fExp2 .vexp2) s)
/-- VLOG2 (R124). -/
def execVlog2 (i : Sid) (str : Stream) (f : TF) (s : State) : Host.Outcome State Fault Refusal :=
  commit s (vec1 i str f (fLog2 .vlog2) s)
/-- VRCP (R124). -/
def execVrcp (i : Sid) (str : Stream) (f : TF) (s : State) : Host.Outcome State Fault Refusal :=
  commit s (vec1 i str f fRcp s)
/-- VRSQ (R124). -/
def execVrsq (i : Sid) (str : Stream) (f : TF) (s : State) : Host.Outcome State Fault Refusal :=
  commit s (vec1 i str f fRsq s)

/-- A reduction along dimension 0 (R123). Its source does not broadcast: in dimensions 1–3 the sizes of oa and od are equal, or
the strand halts (DESIGN CHOICE, log 106). -/
def reduceOp (i : Sid) (str : Stream) (f : TF) (red : List Num → Num) (x : Strand) (_s : State) : Nat ⊕ Plan :=
  let d := x.descAt str (selOf f.od)
  let a := x.descAt str (selOf f.oa)
  let halt := firstHalt
    [reserved (tfReserved f true),
     x.selBad str true (selOf f.od), x.selBad str false (selOf f.oa), need (f.sblk == 0), vecFmt f.fmtD, vecFmt f.fmtA,
     need (fmtAgrees d f.fmtD), need (fmtAgrees a f.fmtA), need a.isSome]
  match halt, a with
  | some r, _ => .inl r
  | none, none => .inl 0x05
  | none, some a =>
    let sizes := 1 :: a.sizes.drop 1
    if (match d with | some g => g.sizes != sizes | none => false) then .inl 0x05
    else
      .inr
        { srcs := [⟨selOf f.oa, fmtBits f.fmtA.toNat, a.sizes⟩]
          dsts := [⟨selOf f.od, fmtBits f.fmtD.toNat, sizes⟩]
          align := 8
          ready := fun l => [allCome (prod sizes) l]
          compute := fun l t =>
            let rows := rowsOf (a.size 0) ((l.getD 0 []).map (decodeNum f.fmtA.toNat))
            let r := convertAll f.fmtD.toNat f.rnd.toNat f.sat (tfSeed f) x.tiles (rows.map red)
            ([r.map (·.bits)], t.countElems i r) }

/-- VRMAX (R123). -/
def execVrmax (i : Sid) (str : Stream) (f : TF) (s : State) : Host.Outcome State Fault Refusal :=
  commit s (tensor i str (reduceOp i str f (vReduce Num.max (.inf true))) s)
/-- VRSUM (R123). -/
def execVrsum (i : Sid) (str : Stream) (f : TF) (s : State) : Host.Outcome State Fault Refusal :=
  commit s (tensor i str (reduceOp i str f (vReduce add32 (.fin false 0 0))) s)

/-- VFILL: every element is the FP32 value imm[31:0]; its stochastic seed is 0 (R113). -/
def execVfill (i : Sid) (str : Stream) (f : TF) (s : State) : Host.Outcome State Fault Refusal :=
  commit s (tensor i str (elementwise i str f [] 0 (fun _ => decodeNum 0 (tfSeed f))) s)

/-- XCOPY: bytes unchanged; one side may be a queue (R86, R461). -/
def xcopyPlan (str : Stream) (f : TF) (x : Strand) (_s : State) : Nat ⊕ Plan :=
  let d := x.descAt str (selOf f.od)
  let a := x.descAt str (selOf f.oa)
  let halt := firstHalt [reserved (selReserved f || fmtReserved f.fmtB || decide (2 < f.shape.toNat)),
    x.selBad str true (selOf f.od), x.selBad str false (selOf f.oa)]
  match halt with
  | some r => .inl r
  | none =>
    match d, a with
    | none, none => .inl 0x05
    | some d, none =>
      .inr ⟨[⟨selOf f.oa, d.width, d.sizes⟩], [⟨selOf f.od, d.width, d.sizes⟩], 8, fun n => [allCome d.elems n], fun l t => (l, t)⟩
    | none, some a =>
      .inr ⟨[⟨selOf f.oa, a.width, a.sizes⟩], [⟨selOf f.od, a.width, a.sizes⟩], 8, fun n => [allCome a.elems n], fun l t => (l, t)⟩
    | some d, some a =>
      if d.esize == a.esize && broadcasts a.sizes d.sizes then
        .inr ⟨[⟨selOf f.oa, a.width, a.sizes⟩], [⟨selOf f.od, d.width, d.sizes⟩], 8, fun n => [allCome d.elems n],
          fun l t => (l.map (spread a.sizes d.sizes), t)⟩
      else .inl 0x05

def execXcopy (i : Sid) (str : Stream) (f : TF) (s : State) : Host.Outcome State Fault Refusal :=
  commit s (tensor i str (xcopyPlan str f) s)

/-! ### VCVT -/

/-- Block length of sblk (R81). -/
def blockLen (sblk : Nat) : Nat := if sblk = 1 then 16 else 32

/-- Sizes of the scale operand of a value operand whose blocks run along dimension 0 (R132). -/
def scaleSizes (l : Nat) (sizes : List Nat) : List Nat := ceilDiv (sizes.getD 0 1) l :: sizes.drop 1

/-- A plain conversion (sblk = 0), integer formats included (R121). -/
def cvtPlain (i : Sid) (str : Stream) (f : TF) (x : Strand) : Nat ⊕ Plan :=
  let d := x.descAt str (selOf f.od)
  let a := x.descAt str (selOf f.oa)
  match elemSizes d [a] with
  | none => .inl 0x05
  | some sizes =>
    let src := (a.map (·.sizes)).getD sizes
    .inr
      { srcs := [⟨selOf f.oa, fmtBits f.fmtA.toNat, src⟩]
        dsts := [⟨selOf f.od, fmtBits f.fmtD.toNat, sizes⟩]
        align := 8
        ready := fun l => [allCome (prod sizes) l]
        compute := fun l t =>
          let r := convertAll f.fmtD.toNat f.rnd.toNat f.sat (tfSeed f) x.tiles
            ((spread src sizes (l.getD 0 [])).map (decodeNum f.fmtA.toNat))
          ([r.map (·.bits)], t.countElems i r) }

/-- A quantising VCVT: values to od, scales to ob (R134, R135). Under stochastic rounding the bits of a repeated block are
drawn by destination index, as R113 has it, so its values may differ from those of the block it repeats (DESIGN CHOICE,
log 107); the zeros and the NaN scale of a block that holds a NaN or an infinity count nowhere (DESIGN CHOICE, log 108). -/
def cvtQuant (i : Sid) (str : Stream) (f : TF) (x : Strand) : Nat ⊕ Plan :=
  let d := x.descAt str (selOf f.od)
  let a := x.descAt str (selOf f.oa)
  let b := x.descAt str (selOf f.ob)
  let len := blockLen f.sblk.toNat
  match elemSizes d [a] with
  | none => .inl 0x05
  | some sizes =>
    let bs := scaleSizes len sizes
    if (match b with | some g => g.esize != 2 || g.sizes != bs || g.repeats | none => false) then .inl 0x05
    else
      let src := (a.map (·.sizes)).getD sizes
      .inr
        { srcs := [⟨selOf f.oa, fmtBits f.fmtA.toNat, src⟩]
          dsts := [⟨selOf f.od, fmtBits f.fmtD.toNat, sizes⟩, ⟨selOf f.ob, 8, bs⟩]
          align := 8
          ready := fun l =>
            let m := allCome (prod sizes) l
            let n := sizes.getD 0 1
            [m / n * n + m % n / len * len, m / n * ceilDiv n len + m % n / len]
          compute := fun l t =>
            let vals := (spread src sizes (l.getD 0 [])).map (decodeNum f.fmtA.toNat)
            let tagged := (vals.zip (List.range vals.length)).map (fun e => (e.1, srBits (tfSeed f) x.tiles e.2))
            let blocks := (rowsOf (sizes.getD 0 1) tagged).flatMap (rowsOf len)
            let q := blocks.map (quantBlock f.fmtD.toNat f.sfmt f.rnd.toNat f.sat)
            let r := q.flatMap (·.2)
            ([r.map (·.bits), q.map (·.1)], t.countElems i r) }

/-- A dequantising VCVT: values from oa, scales from ob, broadcast together (R133, R135). -/
def cvtDequant (i : Sid) (str : Stream) (f : TF) (x : Strand) : Nat ⊕ Plan :=
  let d := x.descAt str (selOf f.od)
  let a := x.descAt str (selOf f.oa)
  let b := x.descAt str (selOf f.ob)
  let len := blockLen f.sblk.toNat
  match elemSizes d [a] with
  | none => .inl 0x05
  | some sizes =>
    let src := (a.map (·.sizes)).getD sizes
    let bs := scaleSizes len src
    if src.getD 0 1 != sizes.getD 0 1 || (match b with | some g => g.esize != 2 || g.sizes != bs | none => false) then .inl 0x05
    else
      .inr
        { srcs := [⟨selOf f.oa, fmtBits f.fmtA.toNat, src⟩, ⟨selOf f.ob, 8, bs⟩]
          dsts := [⟨selOf f.od, fmtBits f.fmtD.toNat, sizes⟩]
          align := 8
          ready := fun l =>
            let n := src.getD 0 1
            let per := ceilDiv n len
            let a := (l.getD 0 none).getD (prod src)
            let b := ((l.getD 1 none).map (fun b => b / per * n + Nat.min n (b % per * len))).getD (prod src)
            [if src == sizes || decide (prod src ≤ Nat.min a b) then allCome (prod sizes) [some (Nat.min a b)] else 0]
          compute := fun l t =>
            let n := src.getD 0 1
            let per := ceilDiv n len
            let vals := (l.getD 0 []).map (decodeNum f.fmtA.toNat)
            let sc := (l.getD 1 []).map (decodeScale f.sfmt)
            let deq := (vals.zip (List.range vals.length)).map (fun e =>
              e.1.mul (sc.getD (e.2 / n * per + e.2 % n / len) .nan))
            let idx := spread src sizes (List.range deq.length)
            let r := convertAll f.fmtD.toNat f.rnd.toNat f.sat (tfSeed f) x.tiles (idx.map (fun k => deq.getD k .nan))
            ([r.map (·.bits)], t.countElems i r) }

/-- VCVT's checks and its three kinds (R121, R135). -/
def cvtPlan (i : Sid) (str : Stream) (f : TF) (x : Strand) (_s : State) : Nat ⊕ Plan :=
  let quant := decide (f.fmtA.toNat < 2) && decide (2 ≤ f.fmtD.toNat) && decide (f.fmtD.toNat ≤ 6)
  let deq := decide (f.fmtD.toNat < 2) && decide (2 ≤ f.fmtA.toNat) && decide (f.fmtA.toNat ≤ 6)
  let blocked := f.sblk != 0
  let halt := firstHalt
    [reserved (tfReserved f true),
     x.selBad str true (selOf f.od), x.selBad str false (selOf f.oa),
     if blocked then x.selBad str quant (selOf f.ob) else none,
     need (!blocked || quant || deq), need (fmtAgrees (x.descAt str (selOf f.od)) f.fmtD),
     need (fmtAgrees (x.descAt str (selOf f.oa)) f.fmtA)]
  match halt with
  | some r => .inl r
  | none => if !blocked then cvtPlain i str f x else if quant then cvtQuant i str f x else cvtDequant i str f x

def execVcvt (i : Sid) (str : Stream) (f : TF) (s : State) : Host.Outcome State Fault Refusal :=
  commit s (tensor i str (cvtPlan i str f) s)

/-! ### The matrix array -/

/-- Ks and Ns of a shape (R105). -/
def shapeK (n : Nat) : Nat := match n with | 0 => 128 | 1 => 512 | _ => 2048
def shapeN (n : Nat) : Nat := match n with | 0 => 128 | 1 => 32 | _ => 8

/-- Classes of array inputs (R107): 0 FP8, 1 FP6, 2 FP4, 3 BF16, 4 INT8; none for what is never an input. -/
def arrayClass (c : Nat) : Option Nat :=
  match c with
  | 2 => some 0 | 3 => some 0 | 4 => some 1 | 5 => some 1 | 6 => some 2 | 1 => some 3 | 7 => some 4 | _ => none

/-- Scales on a side: required for FP6 and FP4, forbidden for BF16 and INT8 (R107, R108). -/
def scalesOk (c sblk : Nat) : Bool :=
  match arrayClass c with
  | some 1 => sblk != 0
  | some 2 => sblk != 0
  | some 3 => sblk == 0
  | some 4 => sblk == 0
  | _ => true

/-- The pairs of R107. -/
def pairOk (w x : Nat) : Bool :=
  match arrayClass w, arrayClass x with
  | some 3, some 3 => true
  | some 4, some 4 => true
  | some a, some b => decide (a < 3) && decide (b < 3)
  | _, _ => false

/-- Cycles of a pair per row, doubled (R107). -/
def pairCost2 (w x : Nat) : Nat :=
  match arrayClass w, arrayClass x with
  | some 2, some 2 => 1
  | some 3, _ => 4
  | _, _ => 2

/-- A strand among all strands: its launch and its index (R41). -/
def Strand.who (x : Strand) : Nat × Nat := (x.launch, x.index)

/-- The array becomes a strand's, in a shape; a change of shape is counted (R87, R106). -/
def State.ownArray (s : State) (i : Sid) (x : Strand) (shape : Nat) : State :=
  let c := s.core i.die i.core
  let s1 := if c.arrShape = shape then s else s.bump (s.corePage i.die i.core) 0x048 32 1
  s1.setCore i.die i.core { c with arrOwner := some x.who, arrShape := shape }

/-- MLOAD's checks (R103 to R108) and effect: the block goes to the array and the strand's shadow (R87). -/
def mloadPlan (i : Sid) (str : Stream) (f : TF) (x : Strand) (_s : State) : Nat ⊕ Plan :=
  let ks := shapeK f.shape.toNat
  let ns := shapeN f.shape.toNat
  let len := blockLen f.sblk.toNat
  let a := x.descAt str (selOf f.oa)
  let b := x.descAt str (selOf f.ob)
  let sizes := (a.map (·.sizes)).getD [ns, ks, 1, 1]
  let k := sizes.getD 1 1
  let n := sizes.getD 0 1
  let bs := if b.isSome then [n, ceilDiv k len, 1, 1] else [ns, ceilDiv ks len, 1, 1]
  let halt := firstHalt
    [reserved (tfReserved f true),
     x.selBad str false (selOf f.oa), if f.sblk == 0 then none else x.selBad str false (selOf f.ob),
     need (arrayClass f.fmtA.toNat).isSome, need (fmtAgrees a f.fmtA), need (scalesOk f.fmtA.toNat f.sblk.toNat),
     need (match a with | some d => decide (d.ndim ≤ 2) && decide (d.size 0 ≤ ns) && decide (d.size 1 ≤ ks) | none => true),
     need (f.sblk == 0 || (match b with
        | some d => d.esize == 2 && d.sizes == bs
        | none => n == ns && k == ks))]
  match halt with
  | some r => .inl r
  | none =>
    .inr
      { srcs := ⟨selOf f.oa, fmtBits f.fmtA.toNat, sizes⟩ :: (if f.sblk == 0 then [] else [⟨selOf f.ob, 8, bs⟩])
        dsts := []
        align := 32
        ready := fun _ => []
        compute := fun l t =>
          let blk : Block := ⟨f.shape.toNat, f.fmtA.toNat, f.sblk.toNat, f.sfmt, k, n, l.getD 0 [], l.getD 1 []⟩
          let relink := if (t.core i.die i.core).arrShape = f.shape.toNat then 0 else 64
          let t1 := t.ownArray i x f.shape.toNat
          let bytes := ceilDiv (k * n * fmtBits f.fmtA.toNat) 8 + (l.getD 1 []).length
          let t2 := t1.bump (t1.corePage i.die i.core) 0x040 64 (ceilDiv bytes 256 + 8 + relink)
          match t2.strand i.key with
          | some y => ([], t2.setStrand i.key { y with shadow := some blk })
          | none => ([], t2) }

def execMload (i : Sid) (str : Stream) (f : TF) (s : State) : Host.Outcome State Fault Refusal :=
  commit s (tensor i str (mloadPlan i str f) s)

/-- Groups of a row and a column (R110): the loaded part, then zeros up to Ks. -/
def groupSums (g m k : Nat) (w x : List Num) (sw sx : Nat → Num) : List Num :=
  (List.range m).map (fun j =>
    if k ≤ j * g then .fin false 0 0
    else
      let a := (w.drop (j * g)).take g
      let b := (x.drop (j * g)).take g
      let full := decide (j * g + g ≤ k)
      rne32 (((if full then dotExact a b else Num.add (dotExact a b) (.fin false 0 0)).mul (sw j)).mul (sx j)))

/-- A result element before oc and the conversion (R110); INT8 sums are exact. -/
def arrayElem (isInt : Bool) (g m k : Nat) (w x : List Num) (sw sx : Nat → Num) : Num :=
  if isInt then dotExact w x else treeFold add32 (clog2 m) (groupSums g m k w x sw sx)

/-- MMA's result elements in order, columns fastest (R102, R110). -/
def mmaValues (f : TF) (b : Block) (n : Nat) (wv : List Nat) (ws : List Nat) (acc : Option (List Nat)) : List Num :=
  let isInt := b.fmt == 7
  let g := if (b.sblk == 1) || (f.sblk == 1) then 16 else 32
  let ks := shapeK b.shape
  let lw := blockLen f.sblk.toNat
  let lx := blockLen b.sblk
  let xs := b.vals.map (decodeNum b.fmt)
  let cols := (List.range b.n).map (fun c => (List.range b.k).map (fun k => xs.getD (k * b.n + c) .nan))
  let rows := rowsOf b.k (wv.map (decodeNum f.fmtA.toNat))
  let per := ceilDiv b.k lw
  let one : Num := .fin false 1 0
  ((List.range n).zip rows).flatMap (fun r =>
    (List.range b.n).map (fun c =>
      let sw (j : Nat) : Num := if f.sblk == 0 then one else decodeScale f.sfmt (ws.getD (r.1 * per + j * g / lw) 0)
      let sx (j : Nat) : Num := if b.sblk == 0 then one else decodeScale b.sfmt (b.scales.getD (j * g / lx * b.n + c) 0)
      let v := arrayElem isInt g (ks / g) b.k r.2 (cols.getD c []) sw sx
      match acc with
      | some l => (decodeNum f.fmtB.toNat (l.getD (r.1 * b.n + c) 0)).add v
      | none => v))

/-- The scales of an operand have its sizes in dimensions 1–3 (R103, R132). -/
def scalesAlong (a b : Option Desc) : Bool :=
  match a, b with
  | some v, some g => g.sizes.drop 1 == v.sizes.drop 1
  | _, _ => true

/-- MMA's checks (R87, R103, R106 to R108, R461) and effect. -/
def mmaPlan (i : Sid) (str : Stream) (f : TF) (x : Strand) (_s : State) : Nat ⊕ Plan :=
  let d := x.descAt str (selOf f.od)
  let a := x.descAt str (selOf f.oa)
  let b := x.descAt str (selOf f.ob)
  let c := x.descAt str (selOf f.oc)
  let hasC := selOf f.oc != .none
  let hasB := f.sblk != 0
  let pre := firstHalt
    [reserved (tfReserved f hasC),
     x.selBad str true (selOf f.od), x.selBad str false (selOf f.oa),
     if hasB then x.selBad str false (selOf f.ob) else none, if hasC then x.selBad str false (selOf f.oc) else none,
     need x.shadow.isSome]
  match pre, x.shadow with
  | some r, _ => .inl r
  | none, none => .inl 0x05
  | none, some blk =>
    let isInt := blk.fmt == 7
    let resOk (c : BitVec 4) : Bool := if isInt then c == 8 else decide (c.toNat < 2)
    let rowsFrom := [d, a, c].filterMap id
    match rowsFrom.head? with
    | none => .inl 0x05
    | some first =>
      let n := first.rows
      let len := blockLen f.sblk.toNat
      let kb := ceilDiv blk.k len
      let okSize (o : Option Desc) (k : Nat) : Bool := match o with | some e => e.size 0 == k && e.rows == n | none => true
      let halt := firstHalt
        [need (f.shape.toNat == blk.shape), need (pairOk f.fmtA.toNat blk.fmt), need (scalesOk f.fmtA.toNat f.sblk.toNat),
         need (resOk f.fmtD && (!hasC || resOk f.fmtB)), need (fmtAgrees d f.fmtD), need (fmtAgrees a f.fmtA),
         need (!hasC || fmtAgrees c f.fmtB),
         need (!hasB || (match b with | some e => e.esize == 2 | none => true)),
         need (okSize d blk.n && okSize a blk.k && (!hasC || okSize c blk.n) && (!hasB || okSize b kb)),
         need (!hasB || scalesAlong a b)]
      match halt with
      | some r => .inl r
      | none =>
        let sz (o : Option Desc) (k : Nat) : List Nat := (o.map (·.sizes)).getD [k, n, 1, 1]
        .inr
          { srcs := [⟨selOf f.oa, fmtBits f.fmtA.toNat, sz a blk.k⟩] ++
              (if hasB then [⟨selOf f.ob, 8, sz b kb⟩] else []) ++
              (if hasC then [⟨selOf f.oc, fmtBits f.fmtB.toNat, sz c blk.n⟩] else [])
            dsts := [⟨selOf f.od, fmtBits f.fmtD.toNat, sz d blk.n⟩]
            align := 32
            ready := fun l =>
              let per := [blk.k] ++ (if hasB then [kb] else []) ++ (if hasC then [blk.n] else [])
              [allCome n ((l.zip per).map (fun e => e.1.map (· / e.2))) * blk.n]
            compute := fun l t =>
              let ws := if hasB then l.getD 1 [] else []
              let acc := if hasC then some (l.getD (if hasB then 2 else 1) []) else none
              let r := convertAll f.fmtD.toNat f.rnd.toNat f.sat (tfSeed f) x.tiles (mmaValues f blk n (l.getD 0 []) ws acc)
              let mine := (t.core i.die i.core).arrOwner == some x.who
              let page := t.corePage i.die i.core
              let t1 := if mine then t else (t.bump page 0x04C 32 1).ownArray i x blk.shape
              let t2 := t1.bump page 0x040 64 (ceilDiv (pairCost2 f.fmtA.toNat blk.fmt * n) 2 + 20 + (if mine then 0 else 136))
              ([r.map (·.bits)], t2.countElems i r) }

def execMma (i : Sid) (str : Stream) (f : TF) (s : State) : Host.Outcome State Fault Refusal :=
  commit s (tensor i str (mmaPlan i str f) s)

/-- TMARK: a tile boundary; the watchdog starts over and the tile count rises (R96). -/
def execTmark (i : Sid) (str : Stream) (f : TF) (s : State) : Host.Outcome State Fault Refusal :=
  commit s (issue i str (some .execute) (fun x t =>
    if tfReserved f true then t.halt i str 0x02
    else t.commitStrand i str { x with tiles := x.tiles + 1, wdElapsed8 := 0, wdSince8 := t.time8 i.die, atMark := true }) s)

end Sys2Proof.Machine
end

