-- ==== Sys2Proof/Machine/Fabric.lean ====
section
/-!
DEFINITION. What the fabric's commands share: ports and their queues (R281, R282, R292), routing (R293 to R295), the
requests that await a response (R287, R288, R290), and the performing of an access at its home for any requester (R177,
R216, R248, R264).
-/
namespace Sys2Proof.Machine

/-! ### Ports -/

def Port.empty : Port where
  everUp := false
  txIdle := false
  linkSeq := 0
  ackSeq := 0
  queue := []
  unacked := []
  lastTx := 0
  lastRx := 0
  retryTimes := []
  failedLanes := []
  retrainAt := none
  noCredit := []
  frameAt := 0
  frameUsed := []
  txHalf := false
  rxHalf := false
  asym := none

def State.port (s : State) (p : Nat) : Port := (mget none s.ports p).getD Port.empty
def State.setPort (s : State) (p : Nat) (x : Port) : State := { s with ports := mset none s.ports p (some x) }

/-- State of a port: 0 Down, 1 Training, 2 Up, 3 Degraded, 4 Dead (R309). -/
def State.portState (s : State) (p : Nat) : Nat := s.fld (portPage p + 0x104) 0 3
def State.setPortState (s : State) (p v : Nat) : State := s.setFld (portPage p + 0x104) 0 3 v
def State.portLive (s : State) (p : Nat) : Bool := s.portState p == 2 || s.portState p == 3
/-- The 24 ports. -/
def allPorts : List Nat := List.range 24

/-- The two dies. -/
def bothDies : List Die := [.windward, .leeward]

/-- Link units of a packet, doubled: k payload units and half a unit of header (R292). -/
def pktUnits2 (k : Packet) : Nat := 2 * k.len + 1

/-- Whole units in a number of half units with a half left over from before, and what is left over now. -/
def wholeUnits (half : Bool) (n : Nat) : Nat × Bool := ((n + (if half then 1 else 0)) / 2, (n + (if half then 1 else 0)) % 2 == 1)

/-- The class of a packet in a port's frame (R292): Control, Maintenance, or its partition's. -/
def flowOf (k : Packet) : Nat := match k.vc with | 2 => 0 | 3 => 1 | _ => 2 + k.part % 16

/-- ns that a frame of 4,096 units lasts: a unit is 0.32 ns, or 0.64 ns on a Degraded port (R284, R292). -/
def State.frameNs (s : State) (p : Nat) : Nat := if s.portState p = 3 then 2622 else 1311

/-- The port with a new frame where the last one's units or its time are used up (R292). -/
def Port.framed (x : Port) (now ns : Nat) : Port :=
  if x.frameAt + ns ≤ now ∨ 8192 ≤ (x.frameUsed.map (·.2)).foldl (· + ·) 0 then { x with frameAt := now, frameUsed := [] } else x

/-- The rank in which a port serves a packet: the five orders of R292, and among Shared partitions the one that has used
least of the frame for its weight. -/
def State.vcRank (s : State) (p : Nat) (x : Port) (k : Packet) : Nat :=
  let u := mget 0 x.frameUsed (flowOf k)
  let fits (units : Nat) : Bool := decide (u + pktUnits2 k ≤ 2 * units)
  let order := match k.vc with
    | 2 => if fits 512 then 0 else 6
    | 0 => if fits (s.fld (portPage p + 0x140 + k.part % 16 * 4) 0 12) then 1 else 4
    | 3 => if fits 64 then 2 else 5
    | _ => 3
  order * 2 ^ 40 + (if order = 3 then u * 65536 / s.weight (k.part % 16) else 0)

/-- The port holds credit for a packet: its VC and class has fewer packets unacknowledged than the partner's buffers take
(R291, log 89). -/
def Port.credit (x : Port) (k : Packet) : Bool :=
  !x.noCredit.contains (k.vc, k.falling) &&
    decide ((x.unacked.filter (fun y => y.vc == k.vc && y.falling == k.falling)).length <
      Config.rxBuffer (k.vc + (if k.falling then 4 else 0)) + 1)

/-- What the framing fills in as a packet leaves: the sending time of a TIME_REQ and the turnaround of a TIME_RSP (R286,
R298). -/
def State.stamped (s : State) (k : Packet) : Packet :=
  if k.ptype = 0x11 then { k with arg := w64 s.now }
  else if k.ptype = 0x12 then { k with payload := overlay k.payload 8 (leBytes 5 (s.now - k.arg.toNat)) }
  else k

/-- A port that is Up or Degraded sends the first packet it serves, numbered on the link; the packet is kept until it is
acknowledged (R296). A VC and class that has no credit sends nothing (R291). The partitions that wait are charged its units'
frame time, rounded down (R358; DESIGN CHOICE, log 117). -/
def State.drainPort (s : State) (p : Nat) : State :=
  if !s.portLive p || (s.port p).txIdle || (s.port p).queue.isEmpty then s
  else
    let x := (s.port p).framed s.now (s.frameNs p)
    match minBy (s.vcRank p x) (x.queue.filter x.credit) with
    | none => s
    | some k =>
      let seq := (x.linkSeq + 1) % 4096
      let waits := ((List.range 16).filter (fun q => q != k.part && x.queue.any (fun y => y.part == q && x.credit y)))
      let k1 := { s.stamped k with link := ⟨seq, x.ackSeq⟩ }
      let w := wholeUnits x.txHalf (pktUnits2 k)
      let s1 := s.setPort p { x with
        queue := x.queue.erase k, unacked := x.unacked ++ [k1], linkSeq := seq, lastTx := s.now, txHalf := w.2
        frameUsed := mset 0 x.frameUsed (flowOf k) (mget 0 x.frameUsed (flowOf k) + pktUnits2 k) }
      let s2 : State := if k.ptype = 0x11 then { s1 with time := { s1.time with t1 := some s.now } } else s1
      let s3 := waits.foldl (fun (t : State) q =>
        t.bump (schedPage (dieOf (p / 12))) (partOff q + 0x38) 64 (pktUnits2 k * s.frameNs p / 8192)) s2
      { s3.bump (portPage p) 0x050 64 w.1 with out := s3.out ++ [.sent p k1] }

/-- One ns of the package: time passes and every port serves its queue (log 18). -/
def State.tick (s : State) : State := allPorts.foldl State.drainPort (s.passNs 1)

/-- A packet put in a port's queue. -/
def State.enqueue (s : State) (p : Nat) (k : Packet) : State :=
  let x := s.port p
  s.setPort p { x with queue := x.queue ++ [k] }

/-! ### Routing -/

/-- Routing entry of a destination (R293). -/
def State.routeEntry (s : State) (dst : Nat) : Nat :=
  let i := if dst / 256 = s.selfId / 256 then 256 + dst % 256 else dst / 256
  (mget 0 s.routes i).toNat

/-- Live candidates of an entry, in order (R294). -/
def State.liveCandidates (s : State) (e : Nat) : List Nat :=
  ((List.range 4).filter (fun k => bit e (6 * k + 5))).map (fun k => bits e (6 * k) 5) |>.filter
    (fun p => decide (p < 24) && s.portLive p)

/-- The port a packet leaves by, if its entry has a live candidate (R294, log 6). -/
def State.routeOf (s : State) (k : Packet) : Option Nat :=
  let l := s.liveCandidates (s.routeEntry k.dst)
  if l.isEmpty then none else l[Config.routeHash k.src k.dst k.part % l.length]?

/-- A packet on its way out: it takes class falling where its entry says so (R295). -/
def State.departs (s : State) (k : Packet) : Packet :=
  if bit (s.routeEntry k.dst) 24 then { k with falling := true } else k

/-! ### Requests -/

/-- A packet asks for a response (R286). -/
def isRequest (t : Nat) : Bool := t == 1 || t == 2 || t == 3 || t == 4

/-- What a completed request does to its owner: its status, and the data of a read or ATADD (R287, R288, R308). -/
def State.deliver (s : State) (r : Request) (status : Nat) (data : List Byte) : State :=
  match r.owner with
  | .strand sid id =>
    match s.strand sid.key with
    | none => s
    | some x =>
      s.setStrand sid.key { x with inflight := x.inflight.map (fun m =>
        if m.id = id then
          { m with
            remote := m.remote.filter (fun q => q ≠ r.id)
            err := if status ≠ 0 ∧ m.err.isNone then some (0x08, w64 r.va) else m.err
            got := if status = 0 then m.got ++ [(r.off, data)] else m.got }
        else m) }
  | .mcast id =>
    { s with mcast := s.mcast.map (fun e =>
        if e.id = id then
          { e with
            remote := e.remote.filter (fun q => q ≠ r.id)
            err := if status ≠ 0 ∧ e.err.isNone then some (0x08, w64 r.va) else e.err
            got := if status = 0 then e.got ++ [(r.off, data)] else e.got }
        else e) }
  | .shadow d =>
    let q := s.shadow.get d
    { s with shadow := s.shadow.set d (q.map (fun x =>
        if x.outstanding.contains r.id then
          { x with outstanding := x.outstanding.filter (fun i => i ≠ r.id)
                   remoteErr := if status ≠ 0 ∧ x.remoteErr.isNone then some status else x.remoteErr }
        else x)) }
  | .token _ => s
  | .page _ _ => s
  | .gone => s
  | .mail _ _ => s

/-- A request ends with a status; a response to none is discarded (R290). -/
def State.completeRequest (s : State) (d : Die) (id status : Nat) (data : List Byte) : State :=
  match s.requests.find? (fun r => r.die == d && r.id == id) with
  | none => s
  | some r =>
    ({ s with requests := s.requests.filter (fun q => !(q.die == d && q.id == id)) } : State).stir.deliver r status data

/-- A packet leaves the package, or is unreachable (R294): a request of this package ends with status 6, one passing
through is answered with it, anything else is discarded. `own` says that the packet is the package's own. -/
def State.sendPacket (s : State) (d : Die) (own : Bool) (k : Packet) : State :=
  match s.routeOf k with
  | some p => s.enqueue p (s.departs k)
  | none =>
    let s1 := s.bump (vroutePage d) 0x040 32 1
    if !isRequest k.ptype then s1
    else if own then s1.completeRequest k.srcDie k.reqId 6 []
    else
      let r : Packet := { k with ptype := 8, vc := 2, falling := false, hopsLeft := s.fld (vroutePage d + 0x120) 0 5,
                                 dst := k.src, src := s.selfId, arg := 6, payload := [], poison := false }
      match s1.routeOf r with
      | some p => s1.enqueue p (s1.departs r)
      | none => s1.bump (vroutePage d) 0x040 32 1

/-- The request has not ended. -/
def State.stillOut (s : State) (d : Die) (id : Nat) : Bool :=
  s.requests.any (fun r => r.die == d && r.id == id) || s.reqWait.any (fun r => r.1.die == d && r.1.id == id)

/-- Outstanding requests of a die (R290). -/
def State.outstanding (s : State) (d : Die) : Nat := (s.requests.filter (fun r => r.die == d)).length

/-- The oldest request of a die that waits is sent, where the die tracks fewer than 4,096 (R290). -/
def State.admitReq (s : State) (d : Die) : State :=
  match s.reqWait.find? (fun r => r.1.die == d) with
  | none => s
  | some r =>
    if 4096 ≤ s.outstanding d then s
    else
      let s1 : State := { s with
        reqWait := s.reqWait.erase r
        requests := s.requests ++ [{ r.1 with issued := s.now, due := s.now + s.fld (vroutePage d + 0x120) 16 16 * 1000 }] }
      s1.sendPacket d true r.2

/-- A request sent to another package by a die, or kept until the die tracks fewer than 4,096 (R288, R290). -/
def State.request (s : State) (d : Die) (part ptype ga va off : Nat) (arg : Word) (payload : List Byte) (poison : Bool)
    (owner : ReqOwner) : State × Nat :=
  let id := s.nextReq.get d
  let k : Packet :=
    { ptype := ptype, vc := if s.partG part then 0 else 1, falling := false, hopsLeft := s.fld (vroutePage d + 0x120) 0 5,
      dst := gaModule ga, src := s.selfId, part := part, poison := poison, reqId := id, srcDie := d, addr := gaLocal ga,
      arg := arg, payload := payload, link := ⟨0, 0⟩ }
  let r : Request := ⟨id, d, gaModule ga, ptype, va, off, s.now, s.now + s.fld (vroutePage d + 0x120) 16 16 * 1000, false, owner⟩
  let s1 : State := { s with nextReq := s.nextReq.set d ((id + 1) % 2 ^ 20) }
  if 4096 ≤ s.outstanding d then ({ s1 with reqWait := s1.reqWait ++ [(r, k)] }, id)
  else (({ s1 with requests := s1.requests ++ [r] } : State).sendPacket d true k, id)

/-! ### Shared cores (R350, R351) -/

/-- The enabled partitions that name a core (R350). -/
def State.coreUsers (s : State) (d : Die) (core : Nat) : List Nat :=
  (List.range 16).filter (fun p => s.partOn p && s.namesCore p d core)

/-- The partition that holds a core: its one user, or the user whose turn it is. -/
def State.holderOf (s : State) (d : Die) (core : Nat) : Option Nat :=
  let u := s.coreUsers d core
  match (s.core d core).holder with
  | some p => if u.contains p then some p else u.head?
  | none => u.head?

/-- Where partition p's image of a core begins: in the save area of R348, the scratchpad first (the manual does not lay the
image out, log 22); where none is set, which only partition 0 can be without, in a place of the model's own. -/
def State.imageBase (s : State) (p : Nat) (d : Die) (core : Nat) : Nat :=
  let r := schedPage d + 0x908
  if s.flag r 0 then s.fld r 21 21 * 0x200000 + (p * 96 + core) * 0x200000
  else 2 ^ 42 + ((p * 2 + d.idx) * 96 + core) * 0x200000

/-- The storage a scratchpad address names for a partition: its image where it names the core and does not hold it
(R351). -/
def State.imageAddr (s : State) (part a : Nat) : Nat :=
  match locOf a with
  | .spad d core o =>
    if s.namesCore part d core && s.holderOf d core != some part then s.imageBase part d core + o else a
  | _ => a

/-! ### Stopped domains (R31, R34) -/

/-- The power state of a die as its crossings see it: what it is entering, while an entry runs (R396). -/
def State.lowPower (s : State) (d : Die) : Nat :=
  if s.flag (pg d Blk.pwrst 0 + 0x108) 2 && decide (s.power d < 2) then s.power d + 1 else s.power d

/-- The package is in Calm or enters it (R392). -/
def State.inCalm (s : State) : Bool := bothDies.any (fun d => s.lowPower d == 2)

/-- A clock domain of a die, by its row of R31, is stopped. -/
def State.domainStopped (s : State) (d : Die) (domain : Nat) : Bool :=
  let p := s.lowPower d
  if domain = 0 then p == 1 || p == 2
  else if domain = 3 then (p == 1 || p == 2) && (List.range 8).all (fun i => (s.stack (d.idx * 8 + i)).cmds.isEmpty)
  else decide (domain ≤ 6) && p == 2

/-- Fused core voltage in mV of a clock point (R380). -/
def State.fusedMv (s : State) (c : Nat) : Nat := mget 0 s.fuses.voltMv c

/-- Nominal voltage of an SRAM rail in mV (R451). -/
def sramMv : Nat := 750

/-- The core and SRAM rails of a die are asked for these voltages (R392). -/
def State.askRails (s : State) (d : Die) (core sram : Nat) : State :=
  let h := s.hk.get d
  { s with hk := s.hk.set d { h with avs := h.avs ++ [⟨2, 0, .setVolt, core, 0⟩, ⟨2, 1, .setVolt, sram, 0⟩] } }

/-- The HKC processor of a die runs again after Calm: what it waits for counts from now (R384, R392, R394). -/
def State.rouse (s : State) (d : Die) : State :=
  let h := s.hk.get d
  { s with hk := s.hk.set d { h with lastBeat := h.lastBeat.map (fun _ => s.now), lastCap := s.now } }

/-- The exit of a die from Lull or Calm begins; from Calm its rails are asked for again (R392, R396). -/
def State.beginExit (s : State) (d : Die) : State :=
  let st := pg d Blk.pwrst 0 + 0x108
  if s.flag st 3 then s
  else if s.power d = 2 then ((s.setFlag st 3 true).askRails d (s.fusedMv (s.clock50 d)) sramMv).rouse d
  else s.setFlag st 3 true

/-- The wake line of a die is raised: an exit begins, or follows the entry under way (R34, R396). From Calm both dies
leave. -/
def State.wakeDie (s : State) (d : Die) : State :=
  let one (e : Die) (t : State) : State :=
    let st := pg e Blk.pwrst 0 + 0x108
    if t.flag st 2 then { t with hk := t.hk.set e { t.hk.get e with wakePending := true } }
    else if t.power e == 1 || t.power e == 2 then t.beginExit e
    else t
  if s.power .windward == 2 || s.power .leeward == 2 then one .leeward (one .windward s) else one d s

/-- The die whose scratchpad an address lies in, where that die's core domain is stopped. -/
def State.asleepAt (s : State) (a : Nat) : Option Die :=
  match locOf a with
  | .spad d _ _ => if s.domainStopped d 0 then some d else none
  | _ => none

/-! ### Accesses at a home -/

def State.halfMode (s : State) (n h : Nat) : Bool := s.flag (stackPage n + 0x100) (8 + h)

/-- A stack offset lies in the operand region of a command (R165, R166, R193). -/
def StkCmd.covers (c : StkCmd) (o : Nat) : Bool :=
  c.slots.any (fun y => y.1 == nbuOf o && decide (y.2.1 ≤ slotOf o) && decide (slotOf o < y.2.1 + y.2.2)) ||
    c.spans.any (fun y => decide (y.1 ≤ o) && decide (o < y.1 + y.2))

/-- The command whose operand region a write of `len` bytes at a stack offset touches in a half in compute mode (R177). -/
def State.regionHit (s : State) (n o len : Nat) : Option StkCmd :=
  let points := ((List.range (len / 8 + 2)).map (fun i => Nat.min (o / 8 * 8 + 8 * i) (o + len - 1)) |>.map (Nat.max o)).filter
    (fun x => s.halfMode n (halfOf x))
  (s.stack n).cmds.find? (fun c => !c.visible && points.any c.covers)

/-- A bank pair yields to an ordinary access (R175); a read that follows another within the 256 cycles of 1 ns may find the
allowance spent and waits (DESIGN CHOICE, log 88). -/
def State.yieldPair (n : Nat) (read : Bool) (s : State) (nbu : Nat) : State :=
  let k := s.stack n
  let last := mget 0 k.yieldAt nbu
  let near := read && last != 0 && decide (s.now < last + 255)
  let s1 := (s.bump (stackPage n) 0x050 64 1).setStack n { k with yieldAt := mset 0 k.yieldAt nbu (s.now + 1) }
  if near then
    { (if Config.yieldSpent s1.fresh then s1.bump (stackPage n) 0x058 32 1 else s1) with fresh := s1.fresh + 1 }
  else s1

/-- An ordinary access served at bank pairs whose NBUs are mid-slice (R175). -/
def State.yields (s : State) (read : Bool) (a len : Nat) : State :=
  match locOf a with
  | .stack n o =>
    if (s.stack n).running.isEmpty then s
    else
      let pairs := ((List.range ((o % 256 + len + 255) / 256)).map (fun i => nbuOf (o + 256 * i))).dedup
      (pairs.filter (fun u => mget 0 (s.stack n).running u != 0)).foldl (State.yieldPair n read) s
  | _ => s

/-- A unit of a stack as commands that were accepted before a write go on to see it: its bytes, or none where they are lost. -/
def State.unitWas (s : State) (n k : Nat) : Option (List Byte) :=
  if (s.firstBad (stackBase n + 32 * k) 32).isSome then none else some (s.bytes (stackBase n + 32 * k) 32)

/-- Units of the operand regions of accepted commands that a write would change are kept as they stand: a command sees no later
write (R179). `skip` names the commands to which the write is not a later one: what they kept of the unit is forgotten (R199). -/
def State.keepOld (s : State) (n o len : Nat) (skip : StkCmd → Nat → Bool) : State :=
  let units := (List.range (len / 32 + 2)).map (fun i => o / 32 + i) |>.filter (fun k => decide (32 * k < o + len))
  let mine (c : StkCmd) (k : Nat) : Bool :=
    !c.killed && !c.visible && !skip c (32 * k) && !c.early.any (fun e => e.1 == k) &&
      (List.range 4).any (fun i => c.covers (32 * k + 8 * i))
  let stale (c : StkCmd) (k : Nat) : Bool := skip c (32 * k) && c.early.any (fun e => e.1 == k)
  if (s.stack n).cmds.any (fun c => units.any (fun k => mine c k || stale c k)) then
    s.setStack n { s.stack n with cmds := (s.stack n).cmds.map (fun c =>
      { c with early := c.early.filter (fun e => !(units.contains e.1 && stale c e.1)) ++
                 (units.filter (mine c)).map (fun k => (k, s.unitWas n k)) }) }
  else s

/-- Lines of a Pool whose fill a write meets are counted and their fills dropped (R248). -/
def State.dropFills (s : State) (a len : Nat) : State :=
  let d := match locOf a with
    | .stack n _ => dieOf (n / 8)
    | .rvr c _ => dieOf (c / 6)
    | _ => .windward
  let hit (f : PoolFill) : Bool := !f.dropped && decide (f.line * 128 < a + len) && decide (a < f.line * 128 + 128)
  let p := s.pool.get d
  let n := (p.fills.filter hit).length
  if n = 0 then s
  else
    { s.bump (poolPage d) 0x050 32 n with
      pool := s.pool.set d { p with fills := p.fills.map (fun f => if hit f then { f with dropped := true } else f) } }

/-- A stack's bytes moved for a partition (R357); partition 0's in a Guaranteed half are charged to its owner (R344). -/
def State.countStack (s : State) (part a n : Nat) : State :=
  match locOf a with
  | .stack k o =>
    let payer := if part = 0 then (s.gHalf k (halfOf o)).getD 0 else part
    s.bump (schedPage (dieOf (k / 8))) (partOff payer + 0x28) 64 n
  | _ => s

/-- A domain access that holds something or gives an error status of R287: 2 nothing there, 3 lost controller. -/
def State.homeBad (s : State) (part a len : Nat) : Option Nat :=
  if s.lostAt a then some 3
  else if !s.holds a len || !s.admits part a then some 2
  else none

/-- A write into an operand region of a running command is discarded, counted and recorded (R177). -/
def State.regionStop (s : State) (part a len : Nat) : Option State :=
  match locOf a with
  | .stack n o =>
    if !s.halfMode n 0 && !s.halfMode n 1 then none
    else
      match s.regionHit n o len with
      | some c =>
        some ((s.bump (stackPage n) 0x04C 32 1).raise (stackPage n) 0x0303 (some part) a (leAt c.bytes 4 4 % 65536) false false)
      | none => none
  | _ => none

/-- An ordinary write performed at its home for a partition: status 0, or 2, 3, 4 as R287 numbers them. -/
def State.homeWrite (s : State) (part a : Nat) (b : List Byte) : State × Nat :=
  if b.isEmpty then (s, 0)
  else
    match s.homeBad part a b.length with
    | some st => (s, st)
    | none =>
      match s.regionStop part a b.length with
      | some t => (t, 4)
      | none =>
        let s1 := (((s.yields false a b.length).dropFills a b.length).countRvr a true b.length).countStack part
          a b.length
        match s1.write (some part) (s.imageAddr part a) b with
        | (t, some _) => (t, 3)
        | (t, none) => (t, 0)

/-- A write that arrives poisoned writes its units poisoned (R263). -/
def State.homePoison (s : State) (part a len : Nat) : State × Nat :=
  match s.homeBad part a len with
  | some st => (s, st)
  | none =>
    match s.regionStop part a len with
    | some t => (t, 4)
    | none =>
      let t := (((s.yields false a len).dropFills a len).countRvr a true len).countStack part a len
      (t.poison (s.imageAddr part a) len, 0)

/-- A read performed at its home for a requester (askedBy): status and, with status 0, the bytes. -/
def State.homeRead (s : State) (by_ part a len : Nat) : State × Nat × List Byte :=
  match s.homeBad part a len with
  | some st => (s, st, [])
  | none =>
    let h := s.imageAddr part a
    match ((s.yields true a len).countStack part a len).demand by_ (some part) h len with
    | (t, some _) => (t, 3, [])
    | (t, none) => (t, 0, t.bytes h len)

/-- A 64-bit word increased at its home, one indivisible access (R218, R219): status and old value. A scratchpad word that is uncorrectable gives an error (R263). -/
def State.homeAdd (s : State) (by_ part a : Nat) (v : Word) : State × Nat × Word :=
  match s.homeBad part a 8 with
  | some st => (s, st, 0)
  | none =>
    if (s.unit a).bad ∧ isDram a then
      let page := match locOf a with | .stack n _ => stackPage n | .rvr c _ => rvrPage c | _ => stackPage 0
      ((s.mergeFind (unitBase a)).raise page 0x0304 (some part) a 0 (s.unit a).injected false, 3, 0)
    else if (s.unit (s.imageAddr part a)).bad then ((s.demand by_ (some part) (s.imageAddr part a) 8).1, 3, 0)
    else
      let old := w64 (s.load (s.imageAddr part a) 8)
      match (s.countRvr a false 8).homeWrite part a (leBytes 8 (old + v).toNat) with
      | (t, st) => (t, st, old)

/-- The die of a scratchpad that a unit of the package itself writes is woken (R34, R390): nothing can see the write before
the die runs. -/
def State.wakeAt (s : State) (a : Nat) : State := match s.asleepAt a with | some d => s.wakeDie d | none => s

/-- An arrival counter increased by a unit of the package itself (R46, R141, R180); a counter that cannot be written is
left. -/
def State.countUp (s : State) (part a : Nat) : State := ((s.wakeAt a).homeAdd 0xFF part a 1).1

end Sys2Proof.Machine
end

