-- ==== Sys2Proof/Machine/Rights.lean ====
section
/-!
DEFINITION. Who may do what at a register (R431), what a lock does (R432, R435), and the answer a register write gives:
the state, and whether the access completes normally.
-/
namespace Sys2Proof

/-- The partition an access is made as; management only reads (R431). -/
def Who.part : Who → Option Nat
  | .strand p => some p
  | .scc => some 0
  | .host => some 0
  | .remote _ p => some p
  | .mgmt => none

/-- Partition 0, the SCC among it (R431). -/
def Who.root (w : Who) : Bool := w.part == some 0

def Who.isScc : Who → Bool
  | .scc => true
  | _ => false

end Sys2Proof

namespace Sys2Proof.Machine

/-- What a register write leaves, and whether it completes normally (R432). -/
abbrev Written := State × Bool

/-- The access completes with an error and changes nothing (R431). -/
def denied (s : State) : Written := (s, false)

/-- The access completes normally. -/
def written (s : State) : Written := (s, true)

/-- A write a partition other than 0 may not make. -/
def rootOnly (w : Who) (k : State → Written) (s : State) : Written := if w.root then k s else denied s

/-- BLK_LOCK.lock of a page. -/
def State.locked (s : State) (page : Nat) : Bool := s.flag (page + 0x00C) 0

/-- A write to an RWL register: ignored, with viol set, while the page is locked (R432). -/
def rwl (page : Nat) (k : State → State) (s : State) : Written :=
  if s.locked page then written (s.setFlag (page + 0x00C) 2 true) else written (k s)

/-- Partition 0's write to an RWL register. -/
def rootRwl (w : Who) (page : Nat) (k : State → State) (s : State) : Written := rootOnly w (rwl page k) s

/-! ### Sleeping domains -/

/-- A die is in Calm or entering it (R395). -/
def State.calmish (s : State) : Bool := bothDies.any (fun d => s.power d == 2 || (s.power d == 1 && s.flag (pg d Blk.pwrst 0 + 0x108) 2))

/-- A die's core domain is stopped or stopping (R31, R390, R396). -/
def State.coreAsleep (s : State) (d : Die) : Bool := s.power d == 1 || s.power d == 2 || (s.power d == 0 && s.flag (pg d Blk.pwrst 0 + 0x108) 2)

/-- The die that an access to a local address must wake first, if any (R34, R390, R395, R429). -/
def State.sleeps (s : State) (a : Nat) : Option Die :=
  match locOf a with
  | .reg o =>
    if hkPage (regType o) then none
    else if s.calmish || (regType o == Blk.core && s.coreAsleep (regDie o)) then some (regDie o) else none
  | .spad d _ _ => if s.calmish || s.coreAsleep d then some d else none
  | .stack n _ => if s.calmish then some (dieOf (n / 8)) else none
  | .rvr c _ => if s.calmish then some (dieOf (c / 6)) else none
  | .win n _ => if s.calmish then some (dieOf (n / 8)) else none
  | .hole => none

/-- The die that an access to a register, by its offset, must wake first (R34, R429). -/
def State.regSleeps (s : State) (off : Nat) : Option Die :=
  if off < 0x20000000 then s.sleeps (regBase + off) else if s.calmish then some Die.windward else none

/-- A register write on its way to its block: one that meets a stopped domain wakes it and is held at the crossing (R34). -/
def crossed (who : Who) (off size : Nat) (v : Word) (k : State → Written) (s : State) : State :=
  match s.regSleeps off with
  | some d => { s.wakeDie d with held := s.held ++ [.regWrite who off size v] }
  | none => (k s).1

/-- Sixteen four-bit limits of a value (R148, R186, R212, R120). -/
def nibbleSum (v : Nat) : Nat := (List.range 16).foldl (fun t p => t + bits v (4 * p) 4) 0

end Sys2Proof.Machine
end

