-- ==== Sys2Proof/Machine/Pool.lean ====
section
/-!
DEFINITION. The Pool (R243 to R249) and the Reservoir's events (R253 to R255). A Pool line holds a copy of memory, so the
model keeps which lines are present and never their data: a hit differs from a miss in the counters, and in that memory
is not read.
-/
namespace Sys2Proof.Machine

/-! ### Lines -/

/-- The partition's own copy of a line is present (R245). -/
def State.poolHas (s : State) (part line : Nat) : Bool :=
  (s.pool.get (lineDie line)).lines.any (fun x => x.part == part && x.line == line)

/-- The partition's copy of a line that fails its check is dropped and recorded, and its data comes from memory (R248,
R263). -/
def State.poolCheck (s : State) (part line : Nat) : State :=
  let d := lineDie line
  let p := s.pool.get d
  match p.lines.find? (fun x => x.part == part && x.line == line && x.bad) with
  | none => s
  | some x =>
    ({ s with pool := s.pool.set d { p with lines := p.lines.erase x } } : State).raise (poolPage d) 0x0301 (some part) (line * 128)
      8 false false

/-- The ways a partition may allocate into (R246). -/
def State.poolWays (s : State) (d : Die) (part : Nat) : List Nat := bitList (s.fld (poolPage d + 0x100 + part * 4) 0 16) 16

/-- One lookup of a pool-bit access: a hit or a miss is counted, and a miss begins a fill, or is counted as not allocated
where the mask is empty (R244 to R246, R249). -/
def State.poolAskLine (part : Nat) (s : State) (line : Nat) : State :=
  let d := lineDie line
  let g := poolPage d
  if s.poolHas part line then (s.bump g 0x040 64 1).bump g (0x180 + part * 0x10) 64 1
  else
    let s1 := (s.bump g 0x048 64 1).bump g (0x188 + part * 0x10) 64 1
    if (s1.poolWays d part).isEmpty then s1.bump g 0x054 32 1
    else
      let p := s1.pool.get d
      { s1 with pool := s1.pool.set d { p with fills := p.fills ++ [⟨part, line, false⟩] } }

/-- The lookups of a span as its access begins. -/
def State.poolAsk (s : State) (part a len : Nat) : State :=
  if isDram a then (lineSpans a len).foldl (fun t x => State.poolAskLine part t (x.1 / 128)) s else s

/-- A fill of a line ends: where it was not discarded, the line takes a way its partition may use, in place of what the
partition held in that way of its set: what other partitions hold has no part in it (R244 to R248, log 7). -/
def State.poolFillLine (part : Nat) (ok : Bool) (s : State) (line : Nat) : State :=
  let d := lineDie line
  let p := s.pool.get d
  match p.fills.find? (fun f => f.part == part && f.line == line) with
  | none => s
  | some f =>
    let p1 := { p with fills := p.fills.erase f }
    let ways := s.poolWays d part
    if f.dropped || !ok || ways.isEmpty || s.poolHas part line then { s with pool := s.pool.set d p1 }
    else
      let w := ways.getD (Config.poolVictim part (s.reg (poolPage d + 0x188 + part * 0x10)).toNat line % ways.length) 0
      let kept := p1.lines.filter (fun x =>
        !(x.part == part && x.way == w && Config.poolSet x.line % 49152 == Config.poolSet line % 49152))
      { s with pool := s.pool.set d { p1 with lines := ⟨part, line, w, false⟩ :: kept } }

/-- Copies a span meets are dropped, of every partition: what an SE or NBU wrote, or what has become poison (R244). -/
def State.dropLines (s : State) (a len : Nat) : State :=
  let d := lineDie (a / 128)
  let p := s.pool.get d
  let kept := p.lines.filter (fun x => !(decide (x.line * 128 < a + len) && decide (a < x.line * 128 + 128)))
  if kept.length = p.lines.length then s else { s with pool := s.pool.set d { p with lines := kept } }

/-- A read at its home that the Pool may serve (R244): lines present are not read from memory; a fill ends with its read. -/
def State.homeReadPool (s : State) (by_ part : Nat) (pool : Bool) (a len : Nat) : State × Nat × List Byte :=
  if !pool || !isDram a then s.homeRead by_ part a len
  else
    match s.homeBad part a len with
    | some st => (s, st, [])
    | none =>
      let spans := lineSpans a len
      let r := spans.foldl (fun (acc : State × Option Nat) x =>
        match acc.2 with
        | some _ => acc
        | none =>
          let u := acc.1.poolCheck part (x.1 / 128)
          if u.poolHas part (x.1 / 128) then (u, none)
          else ((u.yields true x.1 x.2).countStack part x.1 x.2).demand by_ (some part) x.1 x.2) (s, none)
      let t := spans.foldl (fun u x => State.poolFillLine part r.2.isNone u (x.1 / 128)) r.1
      match r.2 with
      | some _ => (t, 3, [])
      | none => (t, 0, t.bytes a len)

/-- A write that arrives poisoned: its units are poisoned and their copies dropped (R263). -/
def State.poisonWrite (s : State) (part a len : Nat) : State × Nat :=
  match s.homePoison part a len with
  | (t, 0) => (t.dropLines a len, 0)
  | x => x

/-! ### Ways (R246, R247, R249) -/

/-- No exclusive way stands in two masks. -/
def exclusiveOk (excl : Nat) (masks : List Nat) : Bool :=
  (bitList excl 16).all (fun w => decide ((masks.filter (fun m => bit m w)).length ≤ 1))

def State.poolMasks (s : State) (d : Die) : List Nat := (List.range 16).map (fun p => s.fld (poolPage d + 0x100 + p * 4) 0 16)

/-- A refused or accepted write shows in cfg_err (R249). -/
def State.poolErr (s : State) (d : Die) (b : Bool) : State := s.setFlag (poolPage d + 0x144) 1 b

/-- A partition's lines in ways that have left its mask are gone, and a sweep of those ways is under way (R247). -/
def State.sweepWays (s : State) (d : Die) (p : Nat) (gone : List Nat) : State :=
  let st := poolPage d + 0x144
  let q := s.pool.get d
  { (s.setFld st 16 16 (gone.foldl (fun x w => setBits x w 1 1) (s.fld st 16 16))).setFlag st 0 true with
    pool := s.pool.set d { q with lines := q.lines.filter (fun x => !(x.part == p && gone.contains x.way)) } }

/-- POOL_WAY_MASK_p: refused where an exclusive way would stand in two masks; ways that leave it are swept of the
partition's lines. The lines are gone at once, which R247 allows during a sweep. -/
def writePoolWayMask (who : Who) (d : Die) (p : Nat) (v : Word) (s : State) : Written :=
  rootRwl who (poolPage d) (fun t =>
    let new := v.toNat % 2 ^ 16
    if 15 < p then t
    else if !exclusiveOk (t.fld (poolPage d + 0x140) 0 16) ((t.poolMasks d).set p new) then t.poolErr d true
    else
      let t1 := ((t.setReg (poolPage d + 0x100 + p * 4) (w64 new)).poolErr d false).noteUnmodelled (some p)
      let gone := (t.poolWays d p).filter (fun w => !bit new w)
      if gone.isEmpty then t1 else t1.sweepWays d p gone) s

def execPoolWayMaskWrite (who : Who) (die : Die) (part : Nat) (value : Word) (s : State) : Host.Outcome State Fault Refusal :=
  commit s (crossed who (poolPage die + 0x100 + part * 4) 4 value (writePoolWayMask who die part value) s)

/-- POOL_WAY_EXCL: refused where a way of it stands in two masks (R246). -/
def writePoolWayExcl (who : Who) (d : Die) (v : Word) (s : State) : Written :=
  rootRwl who (poolPage d) (fun t =>
    if !exclusiveOk (v.toNat % 2 ^ 16) (t.poolMasks d) then t.poolErr d true
    else ((t.setReg (poolPage d + 0x140) (w64 (v.toNat % 2 ^ 16))).poolErr d false).noteUnmodelled none) s

def execPoolWayExclWrite (who : Who) (die : Die) (value : Word) (s : State) : Host.Outcome State Fault Refusal :=
  commit s (crossed who (poolPage die + 0x140) 4 value (writePoolWayExcl who die value) s)

/-- POOL_SWEEP_DONE: the sweep under way has ended (R247). -/
def execPoolSweepDone (die : Die) (s : State) : Host.Outcome State Fault Refusal :=
  commit s (
    let st := poolPage die + 0x144
    (s.setFld st 16 16 0).setFlag st 0 false)

end Sys2Proof.Machine
end

