-- ==== Sys2Proof/Machine/Quiley.lean ====
section
/-!
DEFINITION. Quiley's requests and events: the queue pairs of R316, the completion entries of R320 and R323, the progress
word of R322, and what ends a request (R314).
-/
namespace Sys2Proof.Machine

/-! ### Queue pairs -/

def State.sccPage (s : State) : Nat := pg s.active Blk.scc 0
/-- Offset in register space of the registers of pair k of function f (R316). -/
def State.qpBase (s : State) (f k : Nat) : Nat := s.sccPage + 0x400 + f * 0x80 + k * 0x20
def pairKey (f k : Nat) : Nat := f * 4 + k
def QPair.empty : QPair := ⟨0, true, [], false⟩
def State.pair (s : State) (f k : Nat) : QPair := mget QPair.empty s.quiley.pairs (pairKey f k)
def State.setPair (s : State) (f k : Nat) (q : QPair) : State :=
  { s with quiley := { s.quiley with pairs := mset QPair.empty s.quiley.pairs (pairKey f k) q } }

/-- The pair is enabled and not stopped. -/
def State.pairRuns (s : State) (f k : Nat) : Bool := s.flag (s.qpBase f k + 0x14) 0

/-- The completion queue has a free entry (R323). A pair whose submission tail was rejected still writes its events
(R317). -/
def State.cqRoom (s : State) (f k : Nat) : Bool :=
  s.flag (s.qpBase f k + 0x10) 8 && decide (((s.pair f k).cqTail + 65536 - s.fld (s.qpBase f k + 0x1C) 0 16) % 65536 < 2 ^ s.fld (s.qpBase f k + 0x10) 4 4)

/-- The partition a function serves (R316, R426). -/
def State.fnPart (s : State) (f : Nat) : Nat :=
  if f = 0 then 0 else s.fld (pg s.active Blk.pcie 0 + 0x108) (4 * (f - 1)) 4

/-! ### Requests -/

def State.req (s : State) (slot : Nat) : Option Serve := s.quiley.reqs.find? (fun r => r.slot == slot)
def State.setReq (s : State) (r : Serve) : State :=
  { s with quiley := { s.quiley with reqs := replaceFirst (fun x => x.slot == r.slot) (fun _ => r) s.quiley.reqs } }
def State.dropReq (s : State) (slot : Nat) : State :=
  { s with quiley := { s.quiley with reqs := s.quiley.reqs.filter (fun r => r.slot != slot) } }

/-- A request that is in none of the terminal states (R314). -/
def ReqStat.live : ReqStat → Bool
  | .queued => true
  | .prefill => true
  | .decoding => true
  | .held => true
  | .orphaned => true
  | _ => false

/-- The code of a state in a STATE event (R320). -/
def ReqStat.code : ReqStat → Nat
  | .queued => 0 | .prefill => 1 | .decoding => 2 | .held => 3 | .orphaned => 4 | .finished => 5 | .cancelled => 6
  | .failed => 7 | .released => 8

/-! ### Events -/

/-- The 64 B completion entry of an event: request_id, event, reason, time, position and detail, with the pair's SQ head and
phase (R320). -/
def cqEntry (e : List Nat) (sqHead : Nat) (phase : Bool) : List Byte :=
  leBytes 8 (e.getD 0 0) ++ leBytes 1 (e.getD 1 0) ++ leBytes 1 (e.getD 2 0) ++ leBytes 2 sqHead ++ leBytes 4 (boolNat phase) ++
    leBytes 8 (e.getD 3 0) ++ leBytes 4 (e.getD 4 0) ++ leBytes 4 (e.getD 5 0) ++ List.replicate 32 0

/-- Write waiting events of a pair while its completion queue has room; a final event frees its request's slot
(R323). -/
def State.drainCq (f k : Nat) : Nat → State → State
  | 0, s => s
  | n + 1, s =>
    match (s.pair f k).waiting with
    | [] => s.setFlag (s.qpBase f k + 0x14) 2 false
    | e :: rest =>
      if !s.cqRoom f k then s.setFlag (s.qpBase f k + 0x14) 2 true
      else
        let q := s.pair f k
        let size := 2 ^ s.fld (s.qpBase f k + 0x10) 4 4
        let tail := (q.cqTail + 1) % 65536
        let entry := cqEntry (e.drop 1) (s.fld (s.qpBase f k + 0x14) 16 16) q.phase
        let s1 := s.setPair f k { q with cqTail := tail, phase := if tail % size = 0 then !q.phase else q.phase, waiting := rest }
        let s2 : State := { s1 with out := s1.out ++ [.hostWr f ((s.reg (s.qpBase f k + 8)).toNat + 64 * (q.cqTail % size)) entry] }
        let s3 := if s.flag (s.qpBase f k + 0x10) 9 then s2.msix f (s.fld (s.qpBase f k + 0x10) 16 5) else s2
        State.drainCq f k n (if e.headD 0 = 0 then s3 else s3.dropReq (e.headD 0 - 1))

/-- An event of a pair: request_id, event, reason, time, position, detail (R320); `frees` is the slot that a final event
frees, plus 1, or 0. -/
def State.event (s : State) (f k : Nat) (id : Word) (ev reason pos detail frees : Nat) : State :=
  let q := s.pair f k
  let s1 := s.setPair f k { q with waiting := q.waiting ++ [[frees, id.toNat, ev, reason, s.now, pos, detail]] }
  State.drainCq f k (q.waiting.length + 1) s1

/-- An event of a request on the pair it came by. -/
def State.reqEvent (s : State) (r : Serve) (ev reason detail : Nat) : State :=
  s.event r.function r.pair r.entry.requestId ev reason r.committed detail 0

/-- The progress word of R322: tokens delivered, and the done bit. -/
def State.progress (s : State) (r : Serve) (done : Bool) : State :=
  { s with out := s.out ++ [.hostWr r.function r.entry.progAddr (leBytes 8 (r.delivered + boolNat done * 2 ^ 32))] }

/-- A message to the Quiley of a peer: a write to its mailbox, whose form the manual does not give (R337, log 25). -/
def State.mail (s : State) (part m : Nat) (x : Mail) : State :=
  (s.request s.active part 1 (m * 2 ^ 42 + Config.mailbox m) 0 0 0 (Config.mailBytes x) false (.mail part m)).1

/-- The shadow peer, where a request has one, is asked to register it (R337). -/
def State.tellPeer (s : State) (x : Serve) : State :=
  match x.peer with
  | some m => s.mail x.part m (.register x.entry x.slot)
  | none => s

/-- The registration of an ended request is released at its peers, those it has left among them (R340). -/
def State.releasePeer (s : State) (r : Serve) : State :=
  (r.peer.toList ++ r.oldPeers).foldl (fun (t : State) m => t.mail r.part m (.release r.entry.requestId)) s

/-- A message has been written at the peer: its arrival counter is advanced (R337). -/
def State.mailAnswered (s : State) (part m status : Nat) : State :=
  if status = 0 then (s.request s.active part 4 (m * 2 ^ 42 + Config.mailCounter m) 0 0 0 [] false .gone).1 else s

/-- A request ends: its registration is released, then the final progress word, the final event, and its slot once that is
written (R322, R323, R340). -/
def State.endReq (s : State) (r : Serve) (st : ReqStat) (ev reason detail : Nat) : State :=
  let r1 := { r with stat := st, final := true }
  (((s.setReq r1).releasePeer r1).progress r1 true).event r.function r.pair r.entry.requestId ev reason r.committed detail (r.slot + 1)

/-- A request ends with FAILED (R320). -/
def State.failReq (s : State) (r : Serve) (reason : Nat) : State := s.endReq r .failed 0x06 reason 0

/-! ### Work of a request (R327, R332) -/

def State.model (s : State) (p m : Nat) : Option ModelPackage := mget none s.quiley.models (p * 16 + m)

/-- A package's steps use a die: by its heads' stacks and destinations, or by its launches (R313). -/
def usesDie (m : ModelPackage) (d : Die) : Bool :=
  m.heads.any (fun h => dieOf (h.stack / 8) == d || dieOf (leAt h.cmd 0x16 2 / 128 % 2) == d) ||
    (m.prefill ++ m.layers).any (fun l => l.die == d)

/-- A request needs the bridge: its steps use both dies (R313). -/
def State.needsBridge (s : State) (r : Serve) : Bool :=
  match s.model r.part r.entry.model with
  | some m => usesDie m .windward && usesDie m .leeward
  | none => false

/-- A launch is between its ring's head and tail: it has not completed (R50). -/
def State.launchLeft (s : State) (key : Nat) : Bool :=
  let d := dieOf (key / 65536 / 64)
  let b := schedPage d + 0x100 + key / 65536 % 64 * 0x20
  let head := s.fld (b + 0x10) 0 16
  decide ((key % 65536 + 65536 - head) % 65536 < (s.fld (b + 0x14) 0 16 + 65536 - head) % 65536)

/-- A command of a partition with one of these cmd_ids stands in a stack, at a port, or is still to be sent. -/
def State.cmdLeft (s : State) (part : Nat) (ids : List Nat) : Bool :=
  let mine (b : List Byte) : Bool := ids.contains (leAt b 4 4)
  (List.range 16).any (fun n => (s.stack n).cmds.any (fun c => c.part == part && mine c.bytes) ||
    (s.stack n).port.any (fun w => w.part == part && mine w.bytes)) ||
  s.quiley.unsent.any (fun c => c.part == part && mine c.bytes)

/-- Layout descriptors that carry the request's slot as their tag. -/
def State.copyLeft (s : State) (r : Serve) : Bool :=
  bothDies.any (fun d => (s.layout.get d).queue.any (fun x => x.part == r.part && leAt x.bytes 0xD8 8 == r.slot))

/-- Something of a request has not completed: a stack command, a launch, or a layout descriptor (R332). -/
def State.workLeft (s : State) (r : Serve) : Bool :=
  s.cmdLeft r.part r.cmdIds || r.launches.any (fun l => s.launchLeft l) || s.copyLeft r

/-! ### Faults inside a step -/

/-- Bytes with others put at an offset. -/
def patch (b : List Byte) (off : Nat) (x : List Byte) : List Byte := b.take off ++ x ++ b.drop (off + x.length)

/-- Stack offset of the page map, and of the summaries, of a table slot (R192, R198). -/
def mapOf (h : HeadPlan) (slot : Nat) : Nat := h.map + slot * h.mapStep
def sumsOf (h : HeadPlan) (slot : Nat) : Nat := h.sums + slot * h.sumStep

/-- The request reads a page's shadowed rows back from its peer, a read for each of the places their bytes go to: where the peer
has them, the place, and the length (R334). -/
def State.fetchPage (s : State) (r : Serve) (m : Nat) (places : List (Nat × Nat × Nat)) : State :=
  places.foldl (fun (t : State) e =>
    match t.req r.slot with
    | none => t
    | some x =>
      let q := t.request t.active r.part 2 (m * 2 ^ 42 + e.1) 0 0 (w64 e.2.2) [] false (.page r.uid e.2.1)
      if q.1.stillOut q.1.active q.2 then q.1.setReq { x with fetches := x.fetches + 1 } else q.1.failReq x 2) s

/-- The token known for a position. -/
def Serve.knownAt (r : Serve) (i : Nat) : Option (BitVec 32) := (r.known.find? (fun e => e.1 == i)).map (·.2)

/-- An orphan whose preparation has failed: only a RESUME prepares it again, from its image (R314, R339). -/
def Serve.unprepared (r : Serve) : Serve :=
  let n := Nat.min r.committed r.protectedUpTo
  { r with skip := true, tell := 0, warmReady := false, catchUp := r.catchUp + (r.committed - n), committed := n, input := r.knownAt n }

/-- A lane's command completes with status 2 or 3: the lane does not commit in this step (R334). With status 3 Quiley
waits for the spare; with status 2 it holds a lane whose uncorrectable positions a peer holds, and reads the page back, given as
the last of those positions and the places of its rows with where the peer has them; otherwise it ends the lane, but for an
orphan, which RESUME prepares again (R314). A masked lane's command counts as killed (R333). -/
def State.stepFault (s : State) (part cmdId status : Nat) (page : Option (Nat × List (Nat × Nat × Nat))) : State :=
  let slot := cmdId / 65536
  match mget none s.quiley.steps part, s.req slot with
  | some st, some r =>
    if st.number % 65536 ≠ cmdId % 65536 ∨ !st.slots.contains slot ∨ !r.inStep ∨ r.masked ∨ !r.stat.live then s
    else if status = 3 then s.setReq { r with skip := true, spareWait := some s.now }
    else if r.stat = .orphaned then s.setReq r.unprepared
    else
      match page, r.peer with
      | some (pos, places), some m =>
        if pos < r.protectedUpTo then
          (s.setReq { r with skip := true, stat := .held }).fetchPage r m places
        else s.failReq { r with skip := true } 1
      | _, _ => s.failReq { r with skip := true } 1
  | _, _ => s

/-! ### Tokens and shadows (R322, R337 to R339) -/

/-- One token written to the host with its progress word (R322); the first is followed by PREFILLED (R325). -/
def State.deliverToken (s : State) (r : Serve) : State :=
  let r1 := { r with delivered := r.delivered + 1, told := true }
  let s1 : State := { s with out := s.out ++ [.hostWr r.function (r.entry.outAddr + 4 * r.delivered)
    (leBytes 4 (Config.sampledToken r.uid r.delivered).toNat)] }
  let s2 := (s1.setReq r1).progress r1 false
  if r.told then s2 else s2.reqEvent r1 0x03 0 0

/-- A lane whose last token is delivered ends with FINISHED, and a cancelled one, once nothing of it is left, with CANCELLED
(R320, R328, R332, R333). -/
def State.finishLane (s : State) (slot : Nat) : State :=
  match s.req slot with
  | none => s
  | some r =>
    if !r.stat.live || r.delivered ≠ r.sampled then s
    else
      match r.ending with
      | some why => s.endReq r .finished 0x04 why 0
      | none => if r.masked && !s.workLeft r then s.endReq r .cancelled 0x05 0 0 else s

/-- A shadow is lost: the request is registered with its other peer and shadows every position again, or has none
(R338). -/
def State.shadowLost (s : State) (r : Serve) : State :=
  match r.peer with
  | none => s
  | some m =>
    let other := if r.entry.peerA = m then r.entry.peerB else r.entry.peerA
    let new : Option Nat := if other = m ∨ (r.entry.peerA = m ∧ r.entry.peerB = r.entry.peerA) then none else some other
    let x := { r with peer := new, protectedUpTo := 0, shadowTo := 0, oldPeers := r.oldPeers ++ [m] }
    ((s.setReq x).tellPeer x).reqEvent x 0x08 0 (m + (new.getD m) * 2 ^ 16)

/-- A live request by its number. -/
def State.byUid (s : State) (uid : Nat) : Option Serve := s.quiley.reqs.find? (fun r => r.uid == uid && r.stat.live && !r.final)

/-- A token write to a shadow peer has been answered: the token goes to the host, after an error without confirmation
(R337, R338). A request that has ended meanwhile gets none (R322). -/
def State.tokenAnswered (s : State) (uid status : Nat) : State :=
  match s.byUid uid with
  | none => s
  | some r =>
    let s1 := if status = 0 then s else s.shadowLost r
    match s1.req r.slot with
    | none => s1
    | some r1 => (s1.deliverToken r1).finishLane r1.slot

/-- A read of a page from the peer has been answered: its bytes are written in full, which clears the poison; an error ends
the request (R264, R334). A request being cancelled takes no page (R333). -/
def State.pageAnswered (s : State) (uid addr status : Nat) (data : List Byte) : State :=
  match s.byUid uid with
  | none => s
  | some r =>
    if r.masked then s
    else if status = 0 then ((s.setReq { r with fetches := r.fetches - 1 }).homeWrite r.part addr data).1
    else s.failReq r 2

/-- The request slots whose commands stand in a stack, at a port, or are still to be sent (R327). -/
def State.busySlots (s : State) : List Nat :=
  let slot (b : List Byte) : Nat := leAt b 4 4 / 65536
  (List.range 16).flatMap (fun n => (s.stack n).cmds.map (fun c => slot c.bytes) ++ (s.stack n).port.map (fun w => slot w.bytes)) ++
    s.quiley.unsent.map (fun c => slot c.bytes)

/-- The least slot of the table that no request holds, no quarantine keeps and no command names (R327, R335). -/
def State.freeSlot (s : State) : Nat :=
  let kept (i : Nat) : Bool := s.quiley.quarantined.any (fun q => q.1 == i && decide (s.now < q.2))
  let busy := s.busySlots
  ((List.range (s.quiley.reqs.length + s.quiley.quarantined.length + busy.length + 1)).find?
    (fun i => (s.req i).isNone && !kept i && !busy.contains i)).getD 0

/-- The first pages of a slot to be brought from its image into the slots the package places them in: each page of each
head, with no map entry of its own yet (R256, R339). -/
def State.imageMoves (s : State) (r : Serve) (entry : HeadPlan → Nat → Nat) : List (Nat × Nat × Nat) :=
  match s.model r.part r.entry.model with
  | none => []
  | some m => (List.range m.heads.length).flatMap (fun i => match m.heads[i]? with
    | some h => (List.range ((r.protectedUpTo + 63) / 64)).map (fun p => (i, p, entry h p))
    | none => [])

/-- The NBU and first slot in which a package places a page of a table slot; past an NBU that is unavailable the page goes to
the next that is not, among the slots for moved pages (R158, R214, R334). -/
def State.place (s : State) (h : HeadPlan) (pageSlots slot page : Nat) : Nat × Nat :=
  let bad (k : Nat) : Bool := (s.stack h.stack).unavailable.contains (h.nbu0 + (page + k) % Nat.max 1 h.nbuN)
  let k := ((List.range h.nbuN).find? (fun k => !bad k)).getD 0
  (h.nbu0 + (page + k) % Nat.max 1 h.nbuN, (if k = 0 then h.slot0 else h.moved0) + slot * h.perReq + page / Nat.max 1 h.nbuN * pageSlots)

/-- A map entry of a present page (R192). -/
def entryOf (p : Nat × Nat) : Nat := p.1 + p.2 * 2 ^ 16

/-- A map entry of a request's page is written (R192). -/
def State.putEntry (s : State) (h : HeadPlan) (r : Serve) (i e : Nat) : State :=
  (s.homeWrite r.part (stackBase h.stack + mapOf h r.slot + 8 * i) (leBytes 8 e)).1

/-- The pages that a request is still to get are cold in its page maps (R192, R214). -/
def State.coldPages (s : State) (r : Serve) : State :=
  match s.model r.part r.entry.model with
  | none => s
  | some m => r.moves.foldl (fun (t : State) x => match m.heads[x.1]? with | some h => t.putEntry h r x.2.1 (2 ^ 32) | none => t) s

/-- Requests that a primary had registered here become Orphaned, and the functions of their partitions are told on queue pair 0;
one with warm set is prepared: its image is copied into stack pages, and the tokens past it are fed again (R339). -/
def State.orphanThese (s : State) (m : Nat) (mine : List Serve) : State :=
  let s0 : State := { s with quiley := { s.quiley with registrations := s.quiley.registrations.filter (fun r => !mine.contains r) } }
  mine.foldl (fun (t : State) r =>
    let x := { r with
      slot := t.freeSlot, stat := .orphaned, orphanAt := t.now, uid := t.quiley.nextUid, warmReady := false, imageAt := r.slot
      catchUp := r.committed - r.protectedUpTo, committed := Nat.min r.committed r.protectedUpTo
      input := r.knownAt (Nat.min r.committed r.protectedUpTo)
      tell := if r.entry.warm then 0x0A else 0 }
    let slots := match t.model x.part x.entry.model with | some k => k.pageSlots | none => 0
    let y := if x.entry.warm then { x with moves := t.imageMoves x (fun h p => entryOf (t.place h slots x.slot p)) } else x
    let t0 : State := { t with quiley := { t.quiley with reqs := t.quiley.reqs ++ [y], nextUid := t.quiley.nextUid + 1 } }
    let t1 := t0.coldPages y
    ((List.range 17).filter (fun f => t1.fnPart f == x.part)).foldl
      (fun (u : State) f => u.event f 0 x.entry.requestId 0x09 0 r.protectedUpTo m 0) t1) s0

/-- A lost primary's requests are orphaned (R339). -/
def State.orphan (s : State) (m : Nat) : State := s.orphanThese m (s.quiley.registrations.filter (fun r => r.primary == some m))

/-- A module is lost: its requests here are orphaned, and requests it shadowed turn to their other peer; it holds no registration
any more (R338, R339). -/
def State.moduleLost (s : State) (m : Nat) : State :=
  let s1 := (s.quiley.reqs.filter (fun r => r.peer == some m && r.stat.live)).foldl (fun (t : State) r => t.shadowLost r) s
  let s2 := s1.orphan m
  { s2 with quiley := { s2.quiley with reqs := s2.quiley.reqs.map (fun r => { r with oldPeers := r.oldPeers.filter (fun p => p != m) }) } }

/-- A lane depends on an access that a launch of its step made: the launch is of its model (R335). -/
def ServeStep.uses (st : ServeStep) (launch : Nat) (r : Serve) : Bool :=
  match st.models[st.launches.idxOf launch]? with
  | some k => r.entry.model == k
  | none => true

/-- STEP_REMOTE_LOSS: a remote write, STA or ATADD of a partition's step ends with status 7 or 8: the lanes that depend on it do
not commit, and the step's counter and buffers are quarantined; where the destination is lost, those that are not shadowed end
with FAILED, reason 2, and the others are held here and resumed at their peer, which is told (R335, R339, log 101). An orphan that
catches up is prepared again by its RESUME (R314). -/
def State.stepRemoteLoss (s : State) (part launch status : Nat) : State :=
  match mget none s.quiley.steps part with
  | none => s
  | some st =>
    if !st.launches.isEmpty && !st.launches.contains launch then s
    else
      let until_ := s.now + 2 * s.fld (vroutePage .windward + 0x120) 16 16 * 1000
      let s1 : State := { s with quiley := { s.quiley with
        quarantine := s.quiley.quarantine ++ [(st.counter, until_)]
        quarantined := s.quiley.quarantined ++ st.slots.map (fun k => (k, until_)) } }
      st.slots.foldl (fun (t : State) k =>
        match t.req k with
        | some r =>
          if !r.stat.live || !r.inStep || r.masked || !st.uses launch r then t
          else if status ≠ 7 then t.setReq { r with skip := true }
          else if r.stat = .orphaned then t.setReq r.unprepared
          else
            match r.peer with
            | some m => (t.setReq { r with skip := true, stat := .held, away := true }).mail r.part m (.orphan r.entry.requestId)
            | none => t.failReq { r with skip := true } 2
        | none => t) s1

/-- Quiley learns how a request of its own ended. -/
def State.ownerTold (s : State) (r : Request) (status : Nat) (data : List Byte) : State :=
  match r.owner with
  | .token uid => s.tokenAnswered uid status
  | .page uid addr => s.pageAnswered uid addr status data
  | .mail part m => s.mailAnswered part m status
  | _ => s

/-- The oldest requests of a die that wait are sent, while the die tracks fewer than 4,096; one that no port leads to has ended
with status 6 (R290, R294). -/
def State.admitNext (d : Die) : Nat → State → State
  | 0, s => s
  | f + 1, s =>
    match s.reqWait.find? (fun r => r.1.die == d) with
    | none => s
    | some r =>
      if 4096 ≤ s.outstanding d then s
      else
        let t := s.admitReq d
        if t.stillOut d r.1.id then t else State.admitNext d f (t.ownerTold r.1 6 [])

/-- A request to another package ends: its owner sees the status, and a step that depends on it is abandoned (R287, R335). -/
def State.endRequest (s : State) (d : Die) (id status : Nat) (data : List Byte) : State :=
  match s.requests.find? (fun r => r.die == d && r.id == id) with
  | none => s
  | some r =>
    let by_ : Option (Nat × Nat) := match r.owner with
      | .strand sid _ => (s.strand sid.key).map (fun x => (x.part, x.launch))
      | _ => none
    let s1 := s.completeRequest d id status data
    let s2 := match by_ with
      | some p => if (status = 7 ∨ status = 8) ∧ r.kind ≠ 2 then s1.stepRemoteLoss p.1 p.2 status else s1
      | none => s1
    State.admitNext d (s.reqWait.length + 1) (s2.ownerTold r status data)

end Sys2Proof.Machine
end

