-- ==== Sys2Proof/Machine/Stacks.lean ====
section
/-!
DEFINITION. The stacks' commands (R149 to R187, and the parts of R188 to R202 that a stack performs): where slots lie,
what is checked when a command is judged, slices, the arithmetic of a near-bank unit and of the combiner, completion,
records and kills, and the mode of a stack half.
-/
namespace Sys2Proof.Machine

/-! ### Slots and spans -/

/-- Stack offset of a bank-pair address of an NBU (R151, R152). -/
def bpaOffset (n b : Nat) : Nat :=
  b / 4096 * 2 ^ 21 + n / 256 * 2 ^ 20 + bits b 8 3 * 2 ^ 17 + bits b 11 1 * 2 ^ 16 + n % 32 * 2 ^ 11 + n / 32 % 8 * 2 ^ 8 +
    b % 256

/-- The pieces of a span of a bank pair, as stack offset and length: one for each 256 B unit. -/
def bpaPieces (n b len : Nat) : List (Nat × Nat) :=
  if len = 0 then []
  else
    (List.range ((b % 256 + len + 255) / 256)).map (fun i =>
      let lo := Nat.max b (b / 256 * 256 + 256 * i)
      let hi := Nat.min (b + len) (b / 256 * 256 + 256 * (i + 1))
      (bpaOffset n lo, hi - lo))

/-- Slots of an NBU: rows per bank (R152). -/
def State.slotRows (s : State) : Nat := s.stackBytes / 2 ^ 21

def Stack.going (k : Stack) (h : Nat) : Option Bool := if h = 0 then k.going0 else k.going1
def Stack.setGoing (k : Stack) (h : Nat) (g : Option Bool) : Stack :=
  if h = 0 then { k with going0 := g } else { k with going1 := g }

/-- A half takes commands: in compute mode and not leaving it (R159, R160). -/
def State.halfTakes (s : State) (n h : Nat) : Bool := s.halfMode n h && (s.stack n).going h != some false

/-- A granule is valid and a partition's (R153). -/
def State.owns (s : State) (n part granule : Nat) : Bool := mget 0 (s.stack n).own granule == part + 16

/-- Slots a command may name (R169). -/
def State.slotsOk (s : State) (n part nbu first cnt : Nat) : Bool :=
  decide (nbu < 512) && decide (first + cnt ≤ s.slotRows) && s.halfTakes n (nbu / 256) && !(s.stack n).unavailable.contains nbu &&
    (List.range cnt).all (fun i => s.owns n part ((first + i) * 2 + nbu / 256))

/-- A span of stack offsets that is populated and the partition's. -/
def State.spanOk (s : State) (n part o len : Nat) : Bool :=
  decide (o + len ≤ s.stackBytes) &&
    (len == 0 || (List.range ((o + len - 1) / 2 ^ 20 - o / 2 ^ 20 + 1)).all (fun i => s.owns n part (o / 2 ^ 20 + i)))

/-! ### Command bytes (R163) -/

def cOpcode (b : List Byte) : Nat := leAt b 0 1
def cLen (b : List Byte) : Nat := leAt b 1 1
def cFlags (b : List Byte) : Nat := leAt b 2 2
def cId (b : List Byte) : Nat := leAt b 4 4
def cDonePa (b : List Byte) : Nat := leAt b 8 8
def cBasin (b : List Byte) : Nat := leAt b 0x10 4
def cQ (b : List Byte) : Nat := leAt b 0x15 1
def cDstCore (b : List Byte) : Nat := leAt b 0x16 2
def cDstSpa (b : List Byte) : Nat := leAt b 0x18 4
def cVfmt (b : List Byte) : Nat := leAt b 0x1C 2
def cDim (b : List Byte) : Nat := leAt b 0x1E 2
def cTag (b : List Byte) : Nat := leAt b 0x20 8

/-- Fields of a basin field (R206). -/
def cHandle (b : List Byte) : Nat := bits (cBasin b) 0 10
def cGen (b : List Byte) : Nat := bits (cBasin b) 10 6
def cHome (b : List Byte) : Die := dieOf (bits (cBasin b) 16 1)
def cMember (b : List Byte) : Nat := bits (cBasin b) 17 4
def cMembersM1 (b : List Byte) : Nat := bits (cBasin b) 21 4

/-- Value format, block length, and whether scales are E4M3 (R163). -/
def vCode (v : Nat) : Nat := bits v 0 4
def vBlock (v : Nat) : Nat := if bit v 5 then 16 else 32
def vScaleE4m3 (v : Nat) : Bool := bit v 4
def vOk (v : Nat) : Bool := [2, 3, 4, 5, 6, 9].contains (vCode v) && v / 64 == 0

/-- Bytes of a cache page (R170, R189). -/
def pageBytes (v dim : Nat) : Nat := 128 * dim * fmtBits (vCode v) / 8 + 128 * dim / vBlock v
def pageSlots (v dim : Nat) : Nat := ceilDiv (pageBytes v dim) 4096

/-- Bytes of one vector of n BF16 elements, padded to 64 B (R164, log 21). -/
def vecPad (n : Nat) : Nat := ceilDiv (2 * n) 64 * 64

/-- The body's vector j, as exact values. -/
def cVector (b : List Byte) (j : Nat) : List Num :=
  (List.range (cDim b)).map (fun i => decodeNum 1 (leAt b (64 + j * vecPad (cDim b) + 2 * i) 2))

/-- A GEMV task (R166). -/
structure Task where
  nbu : Nat
  wSlot : Nat
  sSlot : Nat
  rows : Nat
  dst : Nat
  acc : Nat
  rsv : Nat
deriving DecidableEq, Repr

/-- Entries of 16 B from an offset to the end of a command: entries of zeros that fill its last 64 B are padding
(DESIGN CHOICE, log 21). -/
def cCount (b : List Byte) (off : Nat) : Nat :=
  let n := (b.length - off) / 16
  n - (((List.range (Nat.min 3 (n - 1))).map (fun i => byteSlice b (off + 16 * (n - 1 - i)) 16)).takeWhile (fun e => e.all (· == 0))).length

/-- The task entries of a GEMV, which follow its vectors (log 21). -/
def cTasks (b : List Byte) : List Task :=
  let off := 64 + cQ b * vecPad (cDim b)
  (List.range (cCount b off)).map (fun i =>
    let g (k : Nat) := leAt b (off + 16 * i + 2 * k) 2
    ⟨g 0, g 1, g 2, g 3, g 4, g 5, leAt b (off + 16 * i + 12) 4⟩)

/-- Bytes of one row of values, of scales and of results. -/
def rowW (b : List Byte) : Nat := ceilDiv (cDim b * fmtBits (vCode (cVfmt b))) 256 * 32
def rowS (b : List Byte) : Nat := ceilDiv (cDim b / vBlock (cVfmt b)) 32 * 32
def rowD (b : List Byte) : Nat := ceilDiv (cQ b * 4) 32 * 32

/-- The slots of a task: values, scales, results and accumulator, as NBU, first slot and number. -/
def taskSlots (b : List Byte) (t : Task) : List (Nat × Nat × Nat) :=
  let n (r : Nat) := ceilDiv (t.rows * r) 4096
  [(t.nbu, t.wSlot, n (rowW b)), (t.nbu, t.sSlot, n (rowS b)), (t.nbu, t.dst, n (rowD b))] ++
    (if t.acc = 0xFFFF then [] else [(t.nbu, t.acc, n (rowD b))])

def slotRunsMeet (x y : Nat × Nat × Nat) : Bool :=
  x.1 == y.1 && decide (x.2.1 < y.2.1 + y.2.2) && decide (y.2.1 < x.2.1 + x.2.2)

/-- A span of stack offsets meets a run of slots. -/
def spanMeetsSlots (sp : Nat × Nat) (r : Nat × Nat × Nat) : Bool :=
  (List.range ((sp.1 % 256 + sp.2 + 255) / 256)).any (fun i =>
    let o := Nat.max sp.1 (sp.1 / 256 * 256 + 256 * i)
    nbuOf o == r.1 && decide (r.2.1 ≤ slotOf o) && decide (slotOf o < r.2.1 + r.2.2))

/-- The page references and key offsets of a SUMMARISE (R167). -/
def cEntries (b : List Byte) : List (Nat × Nat) :=
  (List.range (cCount b 64)).map (fun i => (leAt b (64 + 16 * i) 8, leAt b (64 + 16 * i + 8) 8))

def refNbu (r : Nat) : Nat := bits r 0 9
def refSlot (r : Nat) : Nat := bits r 16 16

/-! ### The pattern (R194, R195) -/

/-- An ATTEND's pattern descriptor. -/
structure Pattern where
  mode : Nat
  modeRsv : Nat
  membersM1 : Nat
  groupRsv : Nat
  key : Nat
  seqLen : Nat
  pmap : Nat
  winLen : Nat
  nGlob : Nat
  selCount : Nat
  globs : List Nat
  masks : List Nat
  sumBase : Nat
  first : Nat
  last : Nat
  rsv : Nat
deriving DecidableEq, Repr

/-- The pattern of a command: the last 256 B. -/
def cPattern (b : List Byte) : Pattern :=
  let p := b.drop (b.length - 256)
  { mode := bits (leAt p 0 2) 0 2, modeRsv := leAt p 0 2 / 4, membersM1 := bits (leAt p 2 2) 0 4, groupRsv := leAt p 2 2 / 16,
    key := leAt p 4 2, seqLen := leAt p 8 4, pmap := leAt p 0x10 8, winLen := leAt p 0x18 4, nGlob := leAt p 0x1C 2,
    selCount := leAt p 0x1E 2, globs := (List.range 16).map (fun i => leAt p (0x20 + 2 * i) 2),
    masks := (List.range 16).map (fun i => leAt p (0x40 + 8 * i) 8), sumBase := leAt p 0xC0 8, first := leAt p 0xC8 4,
    last := leAt p 0xCC 4, rsv := leAt p 6 2 + leAt p 0xC 4 + leNat (byteSlice p 0xD0 48) }

/-- Pages, and full pages. -/
def Pattern.pages (p : Pattern) : Nat := ceilDiv p.seqLen 64
def Pattern.full (p : Pattern) : Nat := p.seqLen / 64
/-- The first page of the window; none in dense mode. -/
def Pattern.winFirst (p : Pattern) : Nat := if p.mode = 0 then p.pages else p.pages - p.winLen / 64
def Pattern.inWindow (p : Pattern) (i : Nat) : Bool := decide (p.winFirst ≤ i) && decide (i < p.pages)
def Pattern.globals (p : Pattern) : List Nat := if p.mode = 0 then [] else p.globs.take p.nGlob
/-- Pages from cand_first to cand_last. -/
def Pattern.candRange (p : Pattern) : List Nat :=
  if p.mode = 0 ∨ p.selCount = 0 then [] else (List.range (p.last + 1 - p.first)).map (· + p.first)
def Pattern.window (p : Pattern) : List Nat := (List.range (p.pages - p.winFirst)).map (· + p.winFirst)

/-- The spans of map entries a command needs (R193). -/
def Pattern.mapSpans (p : Pattern) : List (Nat × Nat) :=
  if p.mode = 0 then [(p.pmap, 8 * p.pages)]
  else
    (if p.winLen = 0 then [] else [(p.pmap + 8 * p.winFirst, 8 * (p.pages - p.winFirst))]) ++ p.globals.map (fun i => (p.pmap + 8 * i, 8)) ++
      (if p.selCount = 0 then [] else [(p.pmap + 8 * p.first, 8 * (p.last + 1 - p.first))])

/-- The pages whose entries a command needs. -/
def Pattern.needed (p : Pattern) : List Nat :=
  if p.mode = 0 then List.range p.pages
  else (p.window ++ p.globals.filter (fun i => !p.inWindow i)) ++
    p.candRange.filter (fun i => !p.inWindow i && !p.globals.contains i)

/-- The span of summary keys a command scores (R198). -/
def Pattern.sumSpan (p : Pattern) (dim : Nat) : Nat × Nat :=
  if p.mode = 0 ∨ p.selCount = 0 then (0, 0) else (p.sumBase + p.first * 2 * dim, (p.last + 1 - p.first) * 2 * dim)

/-- Reserved fields are zero and ranges hold (R194, R197); `q`, `dim` and `dstSpa` are the header's. -/
def Pattern.formOk (p : Pattern) (q dstSpa : Nat) : Bool :=
  p.mode != 3 && p.modeRsv == 0 && p.groupRsv == 0 && p.rsv == 0 && decide (1 ≤ p.seqLen) && decide (p.seqLen ≤ 4194304) &&
  p.pmap % 8 == 0 &&
  (if p.mode = 0 then
     p.winLen == 0 && p.nGlob == 0 && p.selCount == 0 && p.globs.all (· == 0) && p.masks.all (· == 0) && p.sumBase == 0 &&
       p.first == 0 && p.last == 0
   else
     p.winLen % 64 == 0 && decide (p.winLen ≤ 131072) && decide (p.nGlob ≤ 16) && decide (p.selCount ≤ 64) &&
     (p.mode == 1 || (decide (1 ≤ p.selCount) && p.membersM1 == 0)) &&
     (p.globs.drop p.nGlob).all (· == 0) && p.globals.all (fun i => decide (i < p.pages)) && decide (p.globals.Nodup) &&
     (if p.selCount = 0 then p.sumBase == 0 && p.first == 0 && p.last == 0
      else decide (p.first ≤ p.last) && decide (p.last < p.full) && p.sumBase % 32 == 0)) &&
  dstSpa % 32 == 0 && decide (dstSpa + 544 * (if p.mode = 2 then 1 else q) ≤ 0x180000)

/-- A page-map entry (R192). -/
def State.mapEntry (s : State) (n : Nat) (p : Pattern) (i : Nat) : Nat := s.load (stackBase n + p.pmap + 8 * i) 8
def entCold (e : Nat) : Bool := bit e 32
def entElse (e : Nat) : Bool := bit e 33
def entPresent (e : Nat) : Bool := !entCold e && !entElse e

/-! ### Judging a command (R169, R197) -/

/-- What every header must hold, whatever its opcode (R163, R169). -/
def headerOk (b : List Byte) : Bool :=
  decide (1 ≤ cLen b) && decide (cLen b ≤ 160) && b.length == 64 * cLen b && decide (cOpcode b ≤ 3) && cFlags b / 4 == 0 &&
    (bit (cFlags b) 1 || cDonePa b == 0) && vOk (cVfmt b) && decide (1 ≤ cQ b) && decide (cQ b ≤ 8) && leNat (byteSlice b 0x28 24) == 0

def StkCmd.fresh (uid part : Nat) (b : List Byte) (owner : Option (Nat × Nat)) : StkCmd :=
  { uid := uid, part := part, opcode := cOpcode b, bytes := b, strand := owner, slices := [], cut := false, ran := 0,
    slowdown := 0, status := 0, killed := false, listed := [], pages := [], cands := [], early := [], scores := [], parts := [], sent := false,
    visible := false, slots := [], results := [], spans := [], cutAt := 0, badPage := none }

/-- GEMV's checks (R166, R169): its operand slots are those it reads, the accumulator's among them, so that running it
again after a kill gives the same (R182, log 37). -/
def State.gemvOk (s : State) (n part : Nat) (b : List Byte) : Bool :=
  let l := vBlock (cVfmt b)
  let ts := cTasks b
  let ops := ts.flatMap (fun t => (taskSlots b t).take 2 ++ (taskSlots b t).drop 3)
  let res := ts.flatMap (fun t => ((taskSlots b t).drop 2).take 1)
  cDim b % l == 0 && decide (l ≤ cDim b) && decide (cDim b ≤ 4096) &&
  decide (cQ b * cDim b ≤ 4096) && decide (64 + cQ b * vecPad (cDim b) < b.length) && decide (1 ≤ ts.length) &&
  decide (ts.length ≤ 64) &&
  ts.all (fun t => t.rsv == 0 && decide (1 ≤ t.rows) && (taskSlots b t).all (fun r => s.slotsOk n part r.1 r.2.1 r.2.2)) &&
  !res.any (fun r => ops.any (slotRunsMeet r)) &&
  !(s.stack n).cmds.any (fun c =>
    res.any (fun r => c.slots.any (slotRunsMeet r) || c.spans.any (fun sp => spanMeetsSlots sp r)))

/-- SUMMARISE's checks (R167, R169). -/
def State.summariseOk (s : State) (n part : Nat) (b : List Byte) : Bool :=
  let es := cEntries b
  (cDim b == 64 || cDim b == 128) && decide (1 ≤ es.length) &&
  decide (es.length ≤ 64) &&
  es.all (fun e =>
    e.1 == refNbu e.1 + refSlot e.1 * 2 ^ 16 && e.2 % 32 == 0 &&
    s.slotsOk n part (refNbu e.1) (refSlot e.1) (pageSlots (cVfmt b) (cDim b)) && s.spanOk n part e.2 (2 * cDim b) &&
    s.halfTakes n (halfOf e.2))

/-- ATTEND's checks (R169, R197). The flag `readable` says that its map entries could be read. -/
def State.attendOk (s : State) (n part : Nat) (b : List Byte) (readable : Bool) : Bool :=
  let p := cPattern b
  (cDim b == 64 || cDim b == 128) &&
  b.length == 64 + cQ b * vecPad (cDim b) + 256 && p.formOk (cQ b) (cDstSpa b) &&
  p.mapSpans.all (fun x => s.spanOk n part x.1 x.2) && s.spanOk n part (p.sumSpan (cDim b)).1 (p.sumSpan (cDim b)).2 &&
  (!readable || p.needed.all (fun i =>
    let e := s.mapEntry n p i
    !(entCold e && entElse e) && (entElse e || !entCold e || p.mode == 2) &&
    (!entPresent e || s.slotsOk n part (refNbu e) (refSlot e) (pageSlots (cVfmt b) (cDim b)))))

/-- Step 1 of R36: the halves that hold the pages an ATTEND needs are in compute mode. -/
def State.modeOk (s : State) (n : Nat) (b : List Byte) : Bool :=
  (cPattern b).needed.all (fun i =>
    let e := s.mapEntry n (cPattern b) i
    !entPresent e || s.halfTakes n (refNbu e / 256))

/-- A span of a command's operands, cut at its check units where some are kept as they stood before a later write (R179). -/
def StkCmd.cutSpan (c : StkCmd) (sp : Nat × Nat) : List (Nat × Nat) :=
  if c.early.any (fun e => decide (32 * e.1 < sp.1 + sp.2) && decide (sp.1 < 32 * e.1 + 32)) then
    (List.range ((sp.1 % 32 + sp.2 + 31) / 32)).map (fun i =>
      let lo := Nat.max sp.1 (sp.1 / 32 * 32 + 32 * i)
      (lo, Nat.min (sp.1 + sp.2) (sp.1 / 32 * 32 + 32 * (i + 1)) - lo))
  else [sp]

/-- The record of an operand row that a command could not read (R183, R440). -/
def State.rowLost (s : State) (n : Nat) (c : StkCmd) (o : Nat) (inj intr : Bool) : State :=
  (s.bump (scrubStackPage n) 0x04C 32 1).raise (sePage n) 0x0401 (some c.part) (bankRow o) (cId c.bytes + cTag c.bytes % 2 ^ 32 * 2 ^ 32)
    inj intr

/-- One piece of a command's operands: whether it could not be read, and its bytes. -/
def State.sePiece (s : State) (n : Nat) (c : StkCmd) (o len : Nat) : State × Bool × List Byte :=
  let a := stackBase n + o
  match c.early.find? (fun e => e.1 == o / 32) with
  | some (_, some b) => (s, false, byteSlice b (o % 32) len)
  | some (_, none) => (s.rowLost n c o false true, true, [])
  | none =>
    match s.firstBad a len with
    | none =>
      let t := (s.badUnits a len).foldl (State.touchUnit (askedBy (sePage n) 6) (some c.part)) s
      (t, false, t.bytes a len)
    | some x =>
      let u := s.unit x
      let base := unitBase x
      let s0 := if u.uncorr && !u.found then
          (if u.injected then s.queueUnit base else (s.queueUnit base).noteError base true).bump (scrubStackPage n) 0x048 32 1
        else s
      ((s0.rowLost n c (x - stackBase n) u.injected (!u.delivered && !u.injected)).setUnit base
        { u with delivered := true, found := true }, true, [])

/-- The operands of a command as they stood when it was accepted: whether some row could not be read, each such recorded and
counted once, and the bytes otherwise (R179, R183, R269, R440). -/
def State.seRead (s : State) (n : Nat) (c : StkCmd) (spans : List (Nat × Nat)) : State × Bool × List Byte :=
  (spans.flatMap c.cutSpan).foldl (fun (acc : State × Bool × List Byte) p =>
    let x := acc.1.sePiece n c p.1 p.2
    (x.1, acc.2.1 || x.2.1, acc.2.2 ++ x.2.2)) (s, false, [])

/-- Bytes the NBUs read and a slice's time are accounted to its partition (R357). -/
def State.accountSlice (s : State) (n part ns read : Nat) : State :=
  (s.bump (schedPage (dieOf (n / 8))) (partOff part + 0x20) 64 ns).bump (schedPage (dieOf (n / 8))) (partOff part + 0x28) 64 read

/-! ### Slices (R170) -/

/-- Units with their costs packed into slices: `lim` pages at most and 4,096 cycles. The open slice is held reversed. -/
def packUnits {α : Type} (lim : Nat) : List (α × Nat) → List α → Nat → List (List α × Nat)
  | [], cur, w => if cur.isEmpty then [] else [(cur.reverse, w)]
  | (u, c) :: r, cur, w =>
    if !cur.isEmpty && (cur.length == lim || decide (4096 < w + c)) then (cur.reverse, w) :: packUnits lim r [u] c
    else packUnits lim r (u :: cur) (w + c)

/-- Cost of a page and of a GEMV row (R170). -/
def costPage (b : List Byte) : Nat :=
  Nat.max (ceilDiv (pageBytes (cVfmt b) (cDim b)) 32) (2 * cDim b * cQ b) + 16 * cQ b + 16
def costRow (b : List Byte) : Nat :=
  Nat.max (ceilDiv (cDim b * fmtBits (vCode (cVfmt b))) 256) (ceilDiv (cDim b * cQ b) 64) + 2 * ceilDiv (cQ b * 4) 32

/-- Numbers in rising order, each once. -/
def sortNats (l : List Nat) : List Nat := l.foldl (fun acc x => if acc.contains x then acc else
  acc.takeWhile (fun y => decide (y < x)) ++ x :: acc.dropWhile (fun y => decide (y < x))) []

/-- The slices of an ATTEND over its pages (index and reference). -/
def attendSlices (b : List Byte) (pages : List (Nat × Nat)) : List Slice :=
  (sortNats (pages.map (fun p => refNbu p.2))).flatMap (fun n =>
    let mine := sortNats ((pages.filter (fun p => refNbu p.2 == n)).map (·.1))
    (packUnits 64 (mine.map (fun i => (i, costPage b))) [] 0).map (fun x => ⟨n, x.1, [], x.2, false, 0⟩))

/-- The slices of a GEMV over its tasks and rows. -/
def gemvSlices (b : List Byte) : List Slice :=
  let ts := cTasks b
  (sortNats (ts.map (·.nbu))).flatMap (fun n =>
    let units := ((List.range ts.length).zip ts).flatMap (fun e =>
      if e.2.nbu = n then (List.range e.2.rows).map (fun r => ((e.1, r), costRow b)) else [])
    (packUnits units.length units [] 0).map (fun x => ⟨n, [], x.1, x.2, false, 0⟩))

/-! ### A command's place in its stack -/

def Stack.cmd (k : Stack) (uid : Nat) : Option StkCmd := k.cmds.find? (fun c => c.uid == uid)
def State.setCmd (s : State) (n : Nat) (c : StkCmd) : State :=
  let k := s.stack n
  s.setStack n { k with cmds := replaceFirst (fun x => x.uid == c.uid) (fun _ => c) k.cmds }

/-! ### Arithmetic of an NBU (R155, R201) -/

def zero32 : Num := .fin false 0 0
/-- −infinity, canonical NaN and zero as FP32 bits. -/
def negInf32 : BitVec 32 := bits32 (.inf true)
def nan32 : BitVec 32 := bits32 .nan

def blockDot (v : List Num) (sc : Num) (x : List Num) : Num :=
  rne32 (((v.zip x).foldl (fun a e => add32 a (rneBf16 (e.1.mul e.2))) zero32).mul sc)

/-- Dot product of a row over its blocks, each sum rounded to FP32. -/
def rowDot (l : Nat) (v : List Num) (sc : List Num) (x : List Num) : Num :=
  let dots := ((chunks l (v.length + 1) v).zip ((chunks l (x.length + 1) x).zip sc)).map (fun e => blockDot e.1 e.2.2 e.2.1)
  match dots with
  | [] => zero32
  | d :: r => r.foldl add32 d

/-- The values of n packed elements and of their scales. -/
def rowVals (v n : Nat) (b : List Byte) : List Num := (unpackRun (fmtBits (vCode v)) n b).map (decodeNum (vCode v))
def rowScales (v : Nat) (b : List Byte) : List Num := b.map (fun x => decodeScale (vScaleE4m3 v) x.toNat)

def Partial.identity (dim : Nat) : Partial := ⟨negInf32, 0, List.replicate dim 0⟩
def Partial.isIdentity (p : Partial) : Bool := p.m == negInf32

def mul32 (a b : Num) : Num := rne32 (a.mul b)
def sub32 (a b : Num) : Num := rne32 (a.add b.neg)

/-- Parts of a page's bytes (R189): row p of keys (0) or values (1), with its scales. -/
def pageRow (v dim kind p : Nat) (data : List Byte) : List Num :=
  let kb := 64 * dim * fmtBits (vCode v) / 8
  let rb := dim * fmtBits (vCode v) / 8
  rowVals v dim (byteSlice data (kind * kb + p * rb) rb)
def pageScales (v dim kind p : Nat) (data : List Byte) : List Num :=
  let kb := 64 * dim * fmtBits (vCode v) / 8
  let sb := dim / vBlock v
  rowScales v (byteSlice data (2 * kb + kind * 64 * sb + p * sb) sb)

/-- One page added to the partial of a query vector (R201). -/
def nbuPage (v dim : Nat) (q : List Num) (data : List Byte) (take : List Nat) (p : Partial) : Partial :=
  if take.isEmpty then p
  else
    let l := vBlock v
    let sc := take.map (fun i => (i, rowDot l (pageRow v dim 0 i data) (pageScales v dim 0 i data) q))
    let m := num32 p.m
    let mn := sc.foldl (fun a e => a.max e.2) m
    let c := if p.m = negInf32 then zero32 else fExp2 .nbuExp2 (sub32 m mn)
    let l0 := mul32 (num32 p.l) c
    let o0 := p.o.map (fun x => mul32 (num32 x) c)
    let r := sc.foldl (fun (acc : Num × List Num) e =>
      let w := rneBf16 (fExp2 .nbuExp2 (sub32 e.2 mn))
      let vals := pageRow v dim 1 e.1 data
      let scales := pageScales v dim 1 e.1 data
      let o := ((chunks l (dim + 1) (acc.2.zip vals)).zip scales).flatMap (fun blk =>
        let ws := rneBf16 (w.mul blk.2)
        blk.1.map (fun x => add32 x.1 (rneBf16 (ws.mul x.2))))
      (add32 acc.1 w, o)) (l0, o0)
    ⟨bits32 mn, bits32 r.1, r.2.map bits32⟩

/-- The merge of two partials (R202). -/
def mergePartial (a b : Partial) : Partial :=
  if a.isIdentity then b
  else if b.isIdentity then a
  else
    let am := num32 a.m
    let bm := num32 b.m
    let mn := am.max bm
    let ca := fExp2 .mergeExp2 (sub32 am mn)
    let cb := fExp2 .mergeExp2 (sub32 bm mn)
    let mix (x y : BitVec 32) : BitVec 32 := bits32 (add32 (mul32 (num32 x) ca) (mul32 (num32 y) cb))
    ⟨bits32 mn, mix a.l b.l, (a.o.zip b.o).map (fun e => mix e.1 e.2)⟩

/-- A command's partial of an NBU and a query vector. -/
def StkCmd.partOf (c : StkCmd) (n j : Nat) : Partial :=
  ((c.parts.find? (fun e => e.1 == n && e.2.1 == j)).map (fun e => e.2.2)).getD (Partial.identity (cDim c.bytes))

/-- The ring of one DRAM die, both arms inward, and the combiner over the dies in order (R202). -/
def StkCmd.diePartial (c : StkCmd) (d j : Nat) : Partial :=
  let armA := (List.range 16).foldl (fun acc i => mergePartial (c.partOf (32 * d + 16 - i) j) acc) (Partial.identity (cDim c.bytes))
  let armB := (List.range 15).foldl (fun acc i => mergePartial (c.partOf (32 * d + 17 + i) j) acc) (Partial.identity (cDim c.bytes))
  mergePartial (mergePartial (c.partOf (32 * d) j) armA) armB
def StkCmd.stackPartial (c : StkCmd) (j : Nat) : Partial :=
  (List.range 15).foldl (fun acc d => mergePartial acc (c.diePartial (d + 1) j)) (c.diePartial 0 j)

/-! ### Selection (R200) -/

/-- A candidate's score over the query vectors. -/
def scoreOf (qs : List (List Num)) (key : List Num) : Num :=
  qs.foldl (fun sc q =>
    let t := (q.zip key).foldl (fun a e => add32 a (rneBf16 (e.1.mul e.2))) zero32
    if sc.isNan || t.isNan then .nan else sc.max t) (.inf true)

/-- A scored candidate comes before another. -/
def ranksBefore (a b : Nat × BitVec 32) : Bool :=
  let x := num32 a.2
  let y := num32 b.2
  if x.isNan then (y.isNan && decide (a.1 < b.1))
  else if y.isNan then true
  else if y.lt x then true
  else if x.lt y then false
  else decide (a.1 < b.1)

/-- The first k scored candidates in rank order. -/
def pickRanked : Nat → List (Nat × BitVec 32) → List (Nat × BitVec 32)
  | 0, _ => []
  | k + 1, l =>
    match l with
    | [] => []
    | x :: r =>
      let best := r.foldl (fun a e => if ranksBefore e a then e else a) x
      best :: pickRanked k (l.filter (fun e => e.1 != best.1))

/-- The selection record (R200). -/
def selectionRecord (chosen : List (Nat × BitVec 32)) (scored : Nat) : List Byte :=
  let pad (k : Nat) (l : List Nat) (d : Nat) : List Nat := l ++ List.replicate (k - l.length) d
  leBytes 4 chosen.length ++ leBytes 4 scored ++ (pad 64 (chosen.map (·.1)) 0xFFFF).flatMap (leBytes 2) ++
    (pad 64 (chosen.map (fun e => e.2.toNat)) 0).flatMap (leBytes 4) ++ List.replicate 132 0 ++ leBytes 4 8 ++ List.replicate 16 0

/-! ### Moving a command on -/

/-- A command whose slices have all ended: an ATTEND's partials or its error go to the Basin, a GEMV's results are
written (R36, R174, R180). -/
def State.settle (s : State) (n uid : Nat) : State :=
  match (s.stack n).cmd uid with
  | none => s
  | some c =>
    if c.sent || c.killed || !c.cut || !c.slices.isEmpty then s
    else
      let s1 := s.setCmd n { c with sent := true }
      if c.opcode = 1 then
        let d := cHome c.bytes
        let sel := (cPattern c.bytes).mode == 2
        let parts := if c.status = 0 ∧ !sel then (List.range (cQ c.bytes)).map c.stackPartial else []
        let record := if sel && c.status == 0 then
            selectionRecord (pickRanked (cPattern c.bytes).selCount c.scores) c.scores.length else []
        let a : Arrival := ⟨cHandle c.bytes, cGen c.bytes, cMember c.bytes, n, parts, c.status, record, cDim c.bytes, sel⟩
        let b := s1.basin.get d
        let far := dieOf (n / 8) != d
        let s2 : State := { s1 with basin := s1.basin.set d { b with arrivals := b.arrivals ++ [a] } }
        if far then s2.bump (pg (dieOf (n / 8)) Blk.bridge 0) 0x048 64 (parts.length * 520) else s2
      else s1

/-- An ATTEND's pages are known: its slices are cut and dispatched (R165, R170). Work on an NBU that has failed meanwhile
completes the command with status 3 (R184). -/
def State.cutAttend (s : State) (n : Nat) (c : StkCmd) : State :=
  let sl := if c.status = 0 ∧ (cPattern c.bytes).mode ≠ 2 then attendSlices c.bytes c.pages else []
  let lost := sl.any (fun x => (s.stack n).unavailable.contains x.nbu)
  (s.setCmd n { c with slices := if lost then [] else sl, status := if lost then 3 else c.status, cut := true, cutAt := s.now }).settle n c.uid

/-- Selection has scored every candidate: the selected pages join those attended (R195, R200). -/
def State.selected (s : State) (n : Nat) (c : StkCmd) : State :=
  let p := cPattern c.bytes
  let chosen := (pickRanked p.selCount c.scores).map (fun e => (e.1, ((c.listed.find? (fun x => x.1 == e.1)).map (·.2)).getD 0))
  s.cutAttend n { c with pages := if p.mode = 1 then c.pages ++ chosen else c.pages }

/-- The SE's staging of a command holds a word that is uncorrectable: it is recorded once, and the command does no work
(R257, R263). -/
def State.stageLost (s : State) (n part : Nat) : State :=
  (s.setStack n { s.stack n with stageErr := false }).raise (sePage n) 0x0301 (some part) (winBase n) 6 false true

/-- An accepted command begins: its operand region is fixed, a GEMV's slices are cut, and an ATTEND's pattern resolved. -/
def State.begin (s : State) (n : Nat) (c : StkCmd) : State :=
  let b := c.bytes
  if (s.stack n).stageErr ∧ c.opcode ≠ 0 then
    ((s.stageLost n c.part).setCmd n { c with status := 2, cut := true, sent := c.opcode == 3, cutAt := s.now }).settle n c.uid
  else if c.opcode = 2 then
    let ts := cTasks b
    s.setCmd n { c with
      slots := ts.flatMap (taskSlots b), results := ts.flatMap (fun t => ((taskSlots b t).drop 2).take 1),
      slices := gemvSlices b, cut := true, cutAt := s.now }
  else if c.opcode = 3 then
    s.setCmd n { c with
      slots := (cEntries b).map (fun e => (refNbu e.1, refSlot e.1, pageSlots (cVfmt b) (cDim b)))
      spans := (cEntries b).map (fun e => (e.2, 2 * cDim b)), cutAt := s.now }
  else if c.opcode = 1 then
    let p := cPattern b
    let r := s.seRead n c p.mapSpans
    let t := r.1
    let spans := p.mapSpans ++ (if (p.sumSpan (cDim b)).2 = 0 then [] else [p.sumSpan (cDim b)])
    if r.2.1 then t.cutAttend n { c with status := 2, spans := spans }
    else
      let ents := p.needed.map (fun i => (i, t.mapEntry n p i))
      let present := ents.filter (fun e => entPresent e.2)
      let attended := present.filter (fun e => p.mode == 0 || (p.mode == 1 && (p.inWindow e.1 || p.globals.contains e.1)))
      let cands := ents.filter (fun e => p.candRange.contains e.1 && !p.inWindow e.1 && !p.globals.contains e.1 && !entElse e.2)
      let c1 := { c with
        spans := spans
        slots := present.map (fun e => (refNbu e.2, refSlot e.2, pageSlots (cVfmt b) (cDim b)))
        listed := ents.map (fun e => (e.1, e.2 % 2 ^ 32))
        pages := attended.map (fun e => (e.1, e.2 % 2 ^ 32))
        cands := cands.map (fun e => (e.1, p.sumBase + e.1 * 2 * cDim b)) }
      if cands.isEmpty then t.cutAttend n c1 else t.setCmd n { c1 with cutAt := s.now }
  else s

/-! ### Owners -/

/-- The strand that issued a command, resident or parked, changed by a function, if it is still of that launch. -/
def State.updOwner (s : State) (owner : Option (Nat × Nat)) (f : Strand → Strand) : State :=
  match owner with
  | none => s
  | some (key, launch) =>
    let i := keySid key
    let c := s.core i.die i.core
    match s.strand key with
    | some x =>
      if x.launch = launch then (s.setStrand key (f x)).settleFence i
      else s.setCore i.die i.core { c with parked := c.parked.map (fun y =>
        if y.1 = i.ctx ∧ y.2.launch = launch then (y.1, f y.2) else y) }
    | none => s.setCore i.die i.core { c with parked := c.parked.map (fun y =>
        if y.1 = i.ctx ∧ y.2.launch = launch then (y.1, f y.2) else y) }

/-- A command write leaves its SCMD: the instruction completes (R222). -/
def dropInflight (id : Nat) (x : Strand) : Strand := { x with inflight := x.inflight.filter (fun m => m.id != id) }

/-- An instruction that waited for another to complete is tried again: until it is, its strand counts as one that can go on
(R91, R92; DESIGN CHOICE, log 125). -/
def Strand.retry (x : Strand) : Strand :=
  let f (b : Option Blocked) : Option Blocked := if b = some .other then none else b
  { x with blockA := f x.blockA, blockE := f x.blockE }

/-- The group of an ATTEND is live and not broken (R206, R210). -/
def State.groupLive (s : State) (b : List Byte) : Bool :=
  match (s.basin.get (cHome b)).group (cHandle b) (cGen b) with
  | some g => !g.broken
  | none => false

def State.setGroup (s : State) (d : Die) (g : Group) : State :=
  let b := s.basin.get d
  { s with basin := s.basin.set d { b with groups := replaceFirst (fun x => x.handle == g.handle) (fun _ => g) b.groups } }

/-- A member of a broken group has ended; the group is freed with its last (R210). -/
def State.memberEnded (s : State) (b : List Byte) : State :=
  let d := cHome b
  match (s.basin.get d).group (cHandle b) (cGen b) with
  | none => s
  | some g =>
    let g1 := { g with ended := g.ended + 1 }
    if g.broken ∧ g1.ended = g1.issued then { s with basin := s.basin.set d ((s.basin.get d).free g.handle) }
    else s.setGroup d g1

/-- A SUMMARISE of Quiley's that the SE has refused waits for the next gap again (DESIGN CHOICE, log 64). -/
def State.sumRefused (s : State) (n : Nat) (w : PortWrite) : State :=
  match s.req (cId w.bytes / 65536) with
  | some r =>
    if cOpcode w.bytes = 3 ∧ r.part = w.part ∧ r.stat.live ∧ !r.masked ∧ r.cmdIds.contains (cId w.bytes) then
      s.setReq { r with sums := r.sums ++ [(n, w.bytes)] }
    else s
  | none => s

/-- A refused command does no work: it is counted, its strand halts with 0x0E, and a group it belonged to is broken
(R90, R169, R210). -/
def State.refuseCmd (s : State) (n : Nat) (w : PortWrite) : State :=
  let s1 := (s.bump (stackPage n) 0x048 32 1).updOwner w.strand (dropInflight w.inflight)
  let s2 := if cOpcode w.bytes = 1 ∧ w.strand.isSome then
      (s1.breakGroup (cHome w.bytes) (cHandle w.bytes) (cGen w.bytes)).memberEnded w.bytes else s1
  match w.strand with
  | none => s2.sumRefused n w
  | some (key, launch) =>
    match s2.strand key with
    | some x =>
      if x.launch = launch ∧ x.active then
        let m := (s.strand key).bind (fun y => y.inflight.find? (fun m => m.id == w.inflight))
        let place := match m with | some m => m.place | none => x.apc
        (s2.setStrand key { x with apc := place }).haltStrand (keySid key) 0x0E (place % 2 ^ 17)
      else s2
    | none => s2

/-- An accepted command enters its stack. -/
def State.acceptCmd (s : State) (n : Nat) (w : PortWrite) : State :=
  let k := s.stack n
  let uid := k.nextUid
  let c := StkCmd.fresh uid w.part w.bytes w.strand
  let s1 := (s.setStack n { k with cmds := k.cmds ++ [c], nextUid := uid + 1 }).bump (stackPage n) 0x040 64 1
  let s2 := s1.updOwner w.strand (fun x => { dropInflight w.inflight x with cmds := x.cmds ++ [(n, uid, w.va)] })
  if c.opcode = 1 then
    let d := cHome c.bytes
    match (s2.basin.get d).group (cHandle c.bytes) (cGen c.bytes) with
    | none => s2.markKilled n uid
    | some g =>
      let s3 := s2.setGroup d { g with
        members := g.members ++ [(n, uid)], issued := if w.strand.isSome then g.issued else g.issued + 1 }
      if g.broken then s3.markKilled n uid else s3.begin n c
  else s2.begin n c

/-- The verdict on a command write (R162, R169). -/
def State.cmdOk (s : State) (n : Nat) (w : PortWrite) : Bool :=
  let b := w.bytes
  headerOk b &&
  (if cOpcode b = 0 then cLen b == 1
   else if cOpcode b = 1 then
     let sp := (cPattern b).mapSpans
     s.attendOk n w.part b (sp.all (fun x => (s.firstBad (stackBase n + x.1) x.2).isNone))
   else if cOpcode b = 2 then s.gemvOk n w.part b
   else s.summariseOk n w.part b)

def Stack.setPort (k : Stack) (l : List PortWrite) : Stack := { k with port := l }

/-- A command write leaves its port. -/
def State.leavePort (s : State) (n : Nat) (w : PortWrite) : State :=
  s.setStack n ((s.stack n).setPort ((s.stack n).port.erase w))

/-- A command write of a port takes a queue entry. -/
def State.admitPort (s : State) (n : Nat) (w : PortWrite) : State :=
  s.setStack n ((s.stack n).setPort (replaceFirst (fun y => y == w) (fun y => { y with admitted := true }) (s.stack n).port))

/-- The oldest command write that has taken a queue entry is judged, if it is of this opcode; a reserved opcode is judged
with NOP. -/
def State.judge (s : State) (n op : Nat) : State :=
  match (s.stack n).port.find? (·.admitted) with
  | none => s
  | some w =>
    if cOpcode w.bytes ≠ op ∧ !(decide (3 < cOpcode w.bytes) && op == 0) then s
    else if (s.leavePort n w).cmdOk n w then (s.leavePort n w).acceptCmd n w
    else (s.leavePort n w).refuseCmd n w

/-- Queue entries of a partition in use: commands accepted and not completed, and writes that have taken an entry
(R162). -/
def Stack.held (k : Stack) (part : Nat) : Nat :=
  (k.cmds.filter (fun c => c.part == part)).length + (k.port.filter (fun w => w.part == part && w.admitted)).length
def Stack.heldAll (k : Stack) : Nat := k.cmds.length + (k.port.filter (·.admitted)).length

/-- A partition's command write can take an entry now: below its STK_QLIMIT and the stack's 1,024 (R162). -/
def State.portRoom (s : State) (n part : Nat) : Bool :=
  decide ((s.stack n).held part < 64 * s.fld (stackPage n + 0x110) (4 * part) 4) && decide ((s.stack n).heldAll < 1024)

/-- A command write reaches a port; earlier writes that wait there for the same partition keep their place. -/
def State.arrivePort (s : State) (n : Nat) (w : PortWrite) : State :=
  let k := s.stack n
  let room := s.portRoom n w.part && !k.port.any (fun y => y.part == w.part && !y.admitted)
  s.setStack n { k with port := k.port ++ [{ w with admitted := room }] }

/-- A stack command: the write reaches the window where the SCC makes it, and the command is judged (R162 to R169). -/
def stackCommand (n op : Nat) (src : CmdSource) (s : State) : State :=
  if 16 ≤ n ∨ !(s.stack n).trained then s
  else
    match src with
    | .window => s.judge n op
    | .sccWrite part b => (s.arrivePort n ⟨part % 16, b, none, 0, 0, false⟩).judge n op

/-- STK_NOP (R168). -/
def execStkNop (stack : Nat) (src : CmdSource) (s : State) : Host.Outcome State Fault Refusal :=
  commit s (stackCommand stack 0 src s)

/-- ATTEND: its page map is read, its pattern resolved, and its slices cut unless pages are to be selected (R165). -/
def execAttend (stack : Nat) (src : CmdSource) (s : State) : Host.Outcome State Fault Refusal :=
  commit s (stackCommand stack 1 src s)

/-- GEMV: its slices are cut over its tasks and rows (R166). -/
def execGemv (stack : Nat) (src : CmdSource) (s : State) : Host.Outcome State Fault Refusal :=
  commit s (stackCommand stack 2 src s)

/-- SUMMARISE: its keys are queued for the page-summary unit (R167, R199). -/
def execSummarise (stack : Nat) (src : CmdSource) (s : State) : Host.Outcome State Fault Refusal :=
  commit s (stackCommand stack 3 src s)

/-- An SCMD whose command write waited at the window commits, now that the write has its entry (R162, R222). -/
def State.passWindow (s : State) (owner : Option (Nat × Nat)) : State :=
  match owner with
  | none => s
  | some (key, launch) =>
    match s.strand key with
    | some x =>
      if x.launch = launch ∧ x.atWindow .access then
        (s.setStrand key ((x.advance .access).setBlocked .access none)).restatCore (keySid key).die (keySid key).core
      else s
    | none => s

/-- STK_CMD_QUEUE_ADMIT: an entry has freed and a waiting write takes it; an SCMD that held its stream commits (R162). -/
def execStkCmdQueueAdmit (stack part : Nat) (s : State) : Host.Outcome State Fault Refusal :=
  commit s (
    match (s.stack stack).port.find? (fun w => w.part == part && !w.admitted) with
    | none => s
    | some w => if s.portRoom stack part then (s.admitPort stack w).passWindow w.strand else s)

/-! ### Slices run -/

/-- The next command of a partition with a slice for an NBU, if that slice can start there: the first accepted of those whose
slices are cut, so that an ATTEND still waiting for its selection holds up no later command (R156, R172; DESIGN CHOICE, log
109). -/
def Stack.ready (k : Stack) (nbu part : Nat) : Option StkCmd :=
  match k.cmds.find? (fun c => c.part == part && !c.killed && c.slices.any (fun x => x.nbu == nbu)) with
  | some c =>
    let ctx := mget [] k.contexts nbu
    if c.slices.any (fun x => x.nbu == nbu && x.started) then none
    else if ctx.contains c.uid || decide (ctx.length < 4) then some c
    else none
  | none => none

/-- An NBU is idle, usable, and the governor lets one more run (R172, R375). -/
def Stack.mayStart (k : Stack) (nbu : Nat) : Bool :=
  decide (nbu < 512) && mget 0 k.running nbu == 0 && !k.unavailable.contains nbu && decide (k.running.length < k.gov)

/-- The partition whose slice an NBU starts next (R172). -/
def Stack.nextStart (k : Stack) (nbu : Nat) : Option Nat :=
  nextRound (mget 15 k.lastPart nbu) ((List.range 16).filter (fun p => (k.ready nbu p).isSome))

/-- An NBU runs a command of partition `p`, loaded into a context where none holds it (R156). -/
def Stack.load (k : Stack) (nbu p : Nat) (c : StkCmd) : Stack :=
  let ctx := mget [] k.contexts nbu
  { k with
    running := mset 0 k.running nbu (c.uid + 1)
    contexts := if ctx.contains c.uid then k.contexts else mset [] k.contexts nbu (ctx ++ [c.uid])
    lastPart := mset 15 k.lastPart nbu p }

/-- The command's slice on an NBU has started. -/
def StkCmd.start (c : StkCmd) (nbu now : Nat) : StkCmd :=
  { c with slices := replaceFirst (fun x => x.nbu == nbu) (fun x => { x with started := true, since := now }) c.slices }

/-- SLICE_START: an idle NBU passes round-robin to the next partition with a slice ready, while the governor lets one more
run; a context is loaded with a command's first (R156, R172, R185, R375). -/
def execSliceStart (stack nbu : Nat) (s : State) : Host.Outcome State Fault Refusal :=
  commit s (
    if !(s.stack stack).mayStart nbu then s
    else
      match (s.stack stack).nextStart nbu with
      | none => s
      | some p =>
        match (s.stack stack).ready nbu p with
        | none => s
        | some c => (s.setStack stack ((s.stack stack).load nbu p c)).setCmd stack (c.start nbu s.now))

/-- The positions of a page that take part (R196). -/
def takesPart (p : Pattern) (i : Nat) : List Nat :=
  (List.range 64).filter (fun k =>
    decide (64 * i + k < p.seqLen) &&
    (p.mode == 0 || p.inWindow i ||
     (match (p.globals.zip p.masks).find? (fun e => e.1 == i) with | some e => bit e.2 k | none => true)))

/-- The four arrays of a page: offset of its first row and bytes of a row (R189). -/
def pageArrays (v dim : Nat) : List (Nat × Nat) :=
  let w := dim * fmtBits (vCode v) / 8
  let k := 64 * w
  let sb := dim / vBlock v
  [(0, w), (k, w), (2 * k, sb), (2 * k + 64 * sb, sb)]

/-- The position in its page of the row that a byte of the page belongs to. -/
def posOf (v dim off : Nat) : Nat :=
  match (pageArrays v dim).reverse.find? (fun a => decide (a.1 ≤ off)) with
  | some a => (off - a.1) / a.2
  | none => 0

/-- The last bytes, counted from the first span on, of the units of a command's operands that could not be read. -/
def State.lostBytes (s : State) (n : Nat) (c : StkCmd) : Nat → List (Nat × Nat) → List Nat
  | _, [] => []
  | at_, (o, len) :: r =>
    let a := stackBase n + o
    (match c.early.find? (fun e => e.1 == o / 32) with
     | some (_, some _) => []
     | some (_, none) => [at_ + len - 1]
     | none => ((s.badUnits a len).filter (fun e => e.2.bad)).map (fun e => at_ + (Nat.min (e.1 + 32) (a + len) - a) - 1)) ++
      State.lostBytes s n c (at_ + len) r

/-- The last position of a page whose rows could not be read (R334). -/
def State.lostPos (s : State) (n : Nat) (c : StkCmd) (spans : List (Nat × Nat)) : Nat :=
  listMax ((s.lostBytes n c 0 (spans.flatMap c.cutSpan)).map (posOf (cVfmt c.bytes) (cDim c.bytes)))

/-- An NBU's work on one page of an ATTEND. -/
def State.runPage (n : Nat) (acc : State × StkCmd) (i : Nat) : State × StkCmd :=
  let s := acc.1
  let c := acc.2
  let b := c.bytes
  let take := takesPart (cPattern b) i
  match c.pages.find? (fun e => e.1 == i) with
  | none => acc
  | some e =>
    if take.isEmpty then acc
    else
      let nbu := refNbu e.2
      let spans := bpaPieces nbu (refSlot e.2 * 0x1000) (pageBytes (cVfmt b) (cDim b))
      let r := s.seRead n c spans
      if r.2.1 then
        (r.1, { c with status := if c.status = 0 then 2 else c.status, badPage := some (c.badPage.getD (i, s.lostPos n c spans)) })
      else
        let c1 := (List.range (cQ b)).foldl (fun (x : StkCmd) j =>
          { x with parts := (nbu, j, nbuPage (cVfmt b) (cDim b) (cVector b j) r.2.2 take (x.partOf nbu j)) ::
              x.parts.filter (fun y => !(y.1 == nbu && y.2.1 == j)) }) c
        (r.1, c1)

/-- A write of a command's is no later one to an ATTEND accepted after it that scores the key written: the unit runs both in
the order of acceptance (R199). -/
def StkCmd.feeds (w c : StkCmd) (o : Nat) : Bool :=
  let sp := (cPattern c.bytes).sumSpan (cDim c.bytes)
  w.opcode == 3 && c.opcode == 1 && decide (w.uid < c.uid) && decide (sp.1 ≤ o) && decide (o < sp.1 + sp.2)

/-- Bytes an SE writes into its own stack for a command, past its operand regions; what commands accepted before keep of the
units is kept, and the Pool's copies are dropped (R179, R199, R244). The flag says that a unit written in part could not be, its
data being lost (R264, R462). -/
def State.sePut (s : State) (n : Nat) (w : StkCmd) (o : Nat) (b : List Byte) : State × Bool :=
  let s1 := s.keepOld n o b.length (fun c o => (w.opcode == 2 && c.uid == w.uid) || w.feeds c o)
  let t := ((s1.dropFills (stackBase n + o) b.length).dropLines (stackBase n + o) b.length).write (some w.part) (stackBase n + o) b
  (t.1, t.2.isSome)

def State.sePutPair (s : State) (n : Nat) (w : StkCmd) (nbu bpa : Nat) (b : List Byte) : State × Bool :=
  let r := (bpaPieces nbu bpa b.length).foldl (fun (acc : State × List Byte × Bool) p =>
    let t := acc.1.sePut n w p.1 (acc.2.1.take p.2)
    (t.1, acc.2.1.drop p.2, acc.2.2 || t.2)) (s, b, false)
  (r.1, r.2.2)

/-- A command that met data it could not read, or a unit it could not write, ends with status 2 (R183). -/
def StkCmd.spoiled (c : StkCmd) (b : Bool) : StkCmd := if b && c.status == 0 then { c with status := 2 } else c

/-- An NBU's work on one row of a GEMV: the row is committed whole, or left unspecified where an operand row is
uncorrectable (R166, R176, R183). -/
def State.runRow (n : Nat) (acc : State × StkCmd) (tr : Nat × Nat) : State × StkCmd :=
  let s := acc.1
  let c := acc.2
  let b := c.bytes
  match (cTasks b)[tr.1]? with
  | none => acc
  | some t =>
    let v := cVfmt b
    let k := cDim b
    let q := cQ b
    let wr := s.seRead n c (bpaPieces t.nbu (t.wSlot * 0x1000 + tr.2 * rowW b) (runBytes k (fmtBits (vCode v))))
    let sr := wr.1.seRead n c (bpaPieces t.nbu (t.sSlot * 0x1000 + tr.2 * rowS b) (k / vBlock v))
    let ar := if t.acc = 0xFFFF then (sr.1, false, []) else
      sr.1.seRead n c (bpaPieces t.nbu (t.acc * 0x1000 + tr.2 * rowD b) (4 * q))
    let dst := t.dst * 0x1000 + tr.2 * rowD b
    if wr.2.1 || sr.2.1 || ar.2.1 then
      let f := ar.1.freeBytes (4 * q)
      ((f.2.sePutPair n c t.nbu dst f.1).1, c.spoiled true)
    else
      let vals := rowVals v k wr.2.2
      let sc := rowScales v sr.2.2
      let out := (List.range q).flatMap (fun j =>
        let y := rowDot (vBlock v) vals sc (cVector b j)
        let z := if t.acc = 0xFFFF then y else add32 (decodeNum 0 (leAt ar.2.2 (4 * j) 4)) y
        leBytes 4 (bits32 z).toNat)
      let w := ar.1.sePutPair n c t.nbu dst out
      (w.1, c.spoiled w.2)

/-- Waits of other partitions at a slice boundary (R172, R358): while this slice ran, a slice of theirs was ready there. -/
def State.chargeWaits (s : State) (n nbu part since : Nat) : State :=
  let k := s.stack n
  (List.range 16).foldl (fun t p =>
    if p = part then t
    else
      match k.ready nbu p with
      | none => t
      | some c =>
        let w := s.now - Nat.max since c.cutAt
        (t.setCmd n { c with slowdown := c.slowdown + w }).bump (schedPage (dieOf (n / 8))) (partOff p + 0x38) 64 w) s

/-- Bytes of pages and rows a slice reads, the accumulators' among them (R166, R357). -/
def Slice.reads (sl : Slice) (b : List Byte) : Nat :=
  let acc := sl.rows.filter (fun r => match (cTasks b)[r.1]? with | some t => t.acc != 0xFFFF | none => false)
  sl.pages.length * pageBytes (cVfmt b) (cDim b) + sl.rows.length * (rowW b + rowS b) + acc.length * rowD b

/-- The NBU finds an uncorrectable word in its vector buffer: the error is recorded and counted, the command gets status 2, and
the slice's result rows are left unspecified (R257, R263, R270; the record's address is log 121's). -/
def State.bufferLost (s : State) (n : Nat) (c : StkCmd) (sl : Slice) : State × StkCmd :=
  let s1 := ((s.setStack n { s.stack n with bufErr := mset 0 (s.stack n).bufErr sl.nbu 0 }).noteBuf n sl.nbu true).raise (sePage n)
    0x0301 (some c.part) sl.nbu 6 false true
  (sl.rows.foldl (fun t r =>
    match (cTasks c.bytes)[r.1]? with
    | none => t
    | some k =>
      let f := t.freeBytes (4 * cQ c.bytes)
      (f.2.sePutPair n c k.nbu (k.dst * 0x1000 + r.2 * rowD c.bytes) f.1).1) s1, c.spoiled true)

/-- The NBU reads its vector buffer, where a word with one wrong bit is corrected (R257, R270). -/
def State.readBuffer (s : State) (n nbu : Nat) : State :=
  if mget 0 (s.stack n).bufErr nbu = 0 then s
  else (s.setStack n { s.stack n with bufErr := mset 0 (s.stack n).bufErr nbu 0 }).noteBuf n nbu false

/-- The work of a slice: its pages and then its rows; a killed command's slice does none (R156, R182). -/
def State.runSlice (s : State) (n : Nat) (c : StkCmd) (sl : Slice) : State × StkCmd :=
  if c.killed then (s, c)
  else if mget 0 (s.stack n).bufErr sl.nbu = 2 then s.bufferLost n c sl
  else sl.rows.foldl (State.runRow n) (sl.pages.foldl (State.runPage n) (s.readBuffer n sl.nbu, c))

/-- A command has no more slices on an NBU: its context there is free (R156). -/
def State.freeContext (s : State) (n nbu : Nat) (c : StkCmd) : State :=
  let k := s.stack n
  if c.slices.any (fun x => x.nbu == nbu) then s
  else s.setStack n { k with contexts := mset [] k.contexts nbu ((mget [] k.contexts nbu).filter (fun u => u != c.uid)) }

/-- A slice has run: its time and bytes are charged, the partitions that waited are charged, and its command moves on
(R156, R173, R358). -/
def State.sliceRan (s : State) (n nbu : Nat) (c : StkCmd) (sl : Slice) : State :=
  ((((((s.setCmd n c).accountSlice n c.part (s.now - sl.since) (sl.reads c.bytes)).bump (sePage n) 0x040 64 1).chargeWaits n nbu
    c.part sl.since).freeContext n nbu c).settle n c.uid)

/-- The command with the slice taken off its list, one more slice run. -/
def StkCmd.without (c : StkCmd) (sl : Slice) : StkCmd := { c with slices := c.slices.erase sl, ran := Nat.min (c.ran + 1) 0xFFFF }

/-- An NBU runs nothing, and its pair stands at a slice boundary, where the scrubber may take one row (R267). -/
def State.idleNbu (s : State) (n nbu : Nat) : State :=
  s.setStack n { s.stack n with
    running := mset 0 (s.stack n).running nbu 0, rowAt := mset 0 (s.stack n).rowAt nbu 0
    sliceAt := mset 0 (s.stack n).sliceAt (nbu / 256) s.now }

/-- The slice an NBU runs: its command, and the slice. -/
def Stack.slice (k : Stack) (nbu : Nat) : Option (StkCmd × Slice) :=
  if mget 0 k.running nbu = 0 then none
  else (k.cmd (mget 0 k.running nbu - 1)).bind (fun c =>
    (c.slices.find? (fun x => x.nbu == nbu && x.started)).map (fun sl => (c, sl)))

/-- SLICE_END: the slice's pages or rows are computed; a command's last slice on the NBU frees its context, and its last
slice of all sends its partials on (R156, R170, R173). -/
def execSliceEnd (stack nbu : Nat) (s : State) : Host.Outcome State Fault Refusal :=
  commit s (
    match (s.stack stack).slice nbu with
    | none => s.idleNbu stack nbu
    | some e =>
      let r := (s.idleNbu stack nbu).runSlice stack (e.1.without e.2) e.2
      r.1.sliceRan stack nbu r.2 e.2)

/-! ### The page-summary unit (R198, R199) -/

/-- The summary key of a page (R198). -/
def summaryKey (v dim : Nat) (data : List Byte) : List Byte :=
  (List.range dim).flatMap (fun d =>
    let sum := (List.range 64).foldl (fun a p =>
      let x := (pageRow v dim 0 p data).getD d zero32
      let sc := (pageScales v dim 0 p data).getD (d / vBlock v) zero32
      add32 a (x.mul sc)) zero32
    leBytes 2 (convert 1 0 false 0 (sum.mul (.fin false 1 (-6)))).bits)

/-- Every key of a SUMMARISE is written; a page whose data is uncorrectable gives status 2 and no key (R183). -/
def State.writeKeys (s : State) (n : Nat) (c : StkCmd) : State :=
  let b := c.bytes
  let r := (cEntries b).foldl (fun (acc : State × StkCmd) e =>
    let x := acc.1.seRead n ((acc.1.stack n).cmd c.uid |>.getD c) (bpaPieces (refNbu e.1) (refSlot e.1 * 0x1000) (pageBytes (cVfmt b) (cDim b)))
    if x.2.1 then (x.1, { acc.2 with status := 2 })
    else ((x.1.sePut n c e.2 (summaryKey (cVfmt b) (cDim b) x.2.2)).1.bump (sePage n) 0x04C 32 1, acc.2)) (s, c)
  r.1.setCmd n { r.2 with sent := true, early := [] }

/-- Work of a command that waits for the page-summary unit: a SUMMARISE not yet written, an ATTEND not yet scored. -/
def StkCmd.needsUnit (c : StkCmd) : Bool :=
  !c.killed && ((c.opcode == 3 && !c.sent) || (c.opcode == 1 && !c.cut))

/-- The SUMMARISEs accepted ahead of a partition's first scoring write their keys (R199). -/
def State.keysAhead (n part : Nat) : Nat → State → State
  | 0, s => s
  | f + 1, s =>
    match (s.stack n).cmds.find? (fun c => c.part == part && c.needsUnit) with
    | some c => if c.opcode = 3 then State.keysAhead n part f (s.writeKeys n c) else s
    | none => s

/-- Up to 4,096 candidates of a command are scored; one whose key is uncorrectable gives status 2 (R183, R199, R200). -/
def State.scoreChunk (s : State) (n : Nat) (c : StkCmd) : State × StkCmd :=
  let b := c.bytes
  let qs := (List.range (cQ b)).map (cVector b)
  let r := (c.cands.take 4096).foldl (fun (acc : State × StkCmd) e =>
    let x := acc.1.seRead n c [(e.2, 2 * cDim b)]
    if x.2.1 then (x.1, { acc.2 with status := 2 })
    else
      let key := (List.range (cDim b)).map (fun d => decodeNum 1 (leAt x.2.2 (2 * d) 2))
      (x.1, { acc.2 with scores := acc.2.scores ++ [(e.1, bits32 (scoreOf qs key))] })) (s, c)
  (r.1, { r.2 with cands := c.cands.drop 4096 })

/-- Waits of the other partitions for the page-summary unit while it served this one (R356, R358). -/
def State.chargeUnit (s : State) (n part since : Nat) : State :=
  (List.range 16).foldl (fun t p =>
    match (s.stack n).cmds.find? (fun c => c.part == p && p != part && c.needsUnit) with
    | none => t
    | some c =>
      let w := s.now - Nat.max since c.cutAt
      (t.setCmd n { c with slowdown := c.slowdown + w }).bump (schedPage (dieOf (n / 8))) (partOff p + 0x38) 64 w)
    (s.setStack n { s.stack n with selEnd := s.now })

/-- A chunk has been scored: it is counted, the partitions that waited are charged, and after the last chunk the pages are
selected (R199, R200, R358). -/
def State.chunkDone (s : State) (n : Nat) (c : StkCmd) : State :=
  let t := ((s.setCmd n c).bump (sePage n) 0x048 32 1).chargeUnit n c.part (s.stack n).selEnd
  if c.cands.isEmpty then t.selected n c else t

/-- The partition whose turn of the page-summary unit comes next: the Guaranteed owner of a half first, and otherwise
round-robin (R199, R356). -/
def State.nextScored (s : State) (n : Nat) : Option Nat :=
  let k := s.stack n
  let waits (p : Nat) : Bool := k.cmds.any (fun c => c.part == p && c.needsUnit)
  (([s.gHalf n 0, s.gHalf n 1].filterMap id).find? waits).orElse (fun _ => nextRound k.lastSel ((List.range 16).filter waits))

/-- The unit takes partition `p`: the keys of the SUMMARISEs ahead of its first scoring are written (R199). -/
def State.takeUnit (s : State) (n p : Nat) : State :=
  State.keysAhead n p (s.stack n).cmds.length (s.setStack n { s.stack n with lastSel := p })

/-- SELECTION_CHUNK: the unit takes the partition whose turn comes next and scores up to 4,096 of its first command's
candidates (R174, R199, R200, R356). -/
def execSelectionChunk (stack : Nat) (s : State) : Host.Outcome State Fault Refusal :=
  commit s (
    match s.nextScored stack with
    | none => s
    | some p =>
      match ((s.takeUnit stack p).stack stack).cmds.find? (fun c => c.part == p && c.needsUnit) with
      | none => s.takeUnit stack p
      | some c => ((s.takeUnit stack p).scoreChunk stack c).1.chunkDone stack ((s.takeUnit stack p).scoreChunk stack c).2)

/-! ### Completion (R180 to R182) -/

/-- Every earlier command of the partition on the stack has completed (R168). -/
def Stack.firstOf (k : Stack) (c : StkCmd) : Bool :=
  !(k.cmds.takeWhile (fun y => y.uid != c.uid)).any (fun y => y.part == c.part)

/-- A command may complete: its results are visible, or it was killed (R180, R182). -/
def State.mayComplete (s : State) (n : Nat) (c : StkCmd) : Bool :=
  c.killed ||
    (if c.opcode = 0 then (s.stack n).firstOf c
     else if c.opcode = 1 then c.visible
     else c.sent)

/-- The 32 B completion record (R181). -/
def cmdRecord (c : StkCmd) (status now : Nat) : List Byte :=
  leBytes 4 (cId c.bytes) ++ leBytes 1 status ++ leBytes 1 c.opcode ++ leBytes 2 (Nat.min c.ran 0xFFFF) ++ leBytes 8 (cTag c.bytes) ++
    leBytes 8 now ++ leBytes 4 (Nat.min c.slowdown 0xFFFFFFFF) ++ leBytes 4 0

/-- The record is written in the partition's ring, or counted as lost (R181). -/
def State.writeRecord (s : State) (n : Nat) (c : StkCmd) (status : Nat) : State :=
  let p := ctlPage n c.part
  let wr := s.fld (p + 0x18) 0 32
  if (wr + 2 ^ 32 - s.fld (p + 0x1C) 0 32) % 2 ^ 32 = 32768 then s.bump p 0x020 32 1
  else
    (s.put (winBase n + 0x200000 + c.part * 0x100000 + wr % 32768 * 32) (cmdRecord c status s.now)).bump p 0x018 32 1

/-- What a kill leaves unspecified: an ATTEND's scratchpad destination, a GEMV's result rows (R182). -/
def State.scrambleCmd (s : State) (n : Nat) (c : StkCmd) : State :=
  if c.opcode = 1 then
    let core := bits (cDstCore c.bytes) 0 7
    let d := dieOf (bits (cDstCore c.bytes) 7 1)
    let f := s.freeBytes (544 * (if (cPattern c.bytes).mode = 2 then 1 else cQ c.bytes))
    f.2.storeBytes (f.2.imageAddr c.part (spadBase d core + cDstSpa c.bytes)) f.1
  else if c.opcode = 2 then
    (cTasks c.bytes).foldl (fun t k =>
      (List.range k.rows).foldl (fun u r =>
        let f := u.freeBytes (4 * cQ c.bytes)
        (f.2.sePutPair n c k.nbu (k.dst * 0x1000 + r * rowD c.bytes) f.1).1) t) s
  else s

/-- Slices of a command that run end without a result: the time they took is accounted, and the partitions that waited are
charged (R357, R358). -/
def State.dropSlices (s : State) (n : Nat) (c : StkCmd) : State :=
  let s1 := (c.slices.filter (·.started)).foldl
    (fun t x => (t.accountSlice n c.part (s.now - x.since) 0).chargeWaits n x.nbu c.part x.since) s
  s1.setStack n { s1.stack n with sliceAt := c.slices.foldl (fun m x => mset 0 m (x.nbu / 256) s.now) (s1.stack n).sliceAt }

/-- A command leaves its stack: NBUs and contexts are freed. -/
def State.removeCmd (s : State) (n uid : Nat) : State :=
  let s1 := match (s.stack n).cmd uid with | some c => s.dropSlices n c | none => s
  let k := s1.stack n
  s1.stir.setStack n { k with
    cmds := k.cmds.filter (fun c => c.uid != uid)
    running := k.running.filter (fun e => e.2 != uid + 1)
    contexts := (k.contexts.map (fun e => (e.1, e.2.filter (fun u => u != uid)))).filter (fun e => !e.2.isEmpty) }

/-- Pieces that follow one another in an image, each with its place there. -/
def alongImage : Nat → List (Nat × Nat) → List (Nat × Nat × Nat)
  | _, [] => []
  | at_, (o, len) :: r => (at_, o, len) :: alongImage (at_ + len) r

/-- The page of an ATTEND of Quiley's whose data was uncorrectable: the last position lost, and for the rows that a shadow peer
holds, where its image has them, their places here and lengths (R307, R334). -/
def State.peerPage (s : State) (n : Nat) (c : StkCmd) : Option (Nat × List (Nat × Nat × Nat)) :=
  let slot := cId c.bytes / 65536
  match c.badPage, s.req slot with
  | some (i, pos), some r =>
    match (s.model r.part r.entry.model).bind (fun m => m.heads.find? (fun h => h.stack == n && mapOf h slot == (cPattern c.bytes).pmap)),
        c.pages.find? (fun p => p.1 == i) with
    | some h, some p =>
      let image := h.image + slot * h.imageStep + i * pageBytes (cVfmt c.bytes) (cDim c.bytes)
      some (64 * i + pos, (pageArrays (cVfmt c.bytes) (cDim c.bytes)).flatMap (fun a =>
        alongImage (image + a.1) ((bpaPieces (refNbu p.2) (refSlot p.2 * 4096 + a.1) (Nat.min 64 (r.protectedUpTo - 64 * i) * a.2)).map
          (fun x => (stackBase n + x.1, x.2)))))
    | _, _ => none
  | _, _ => none

/-- A command completes with a status: the record, then the counter; its strand learns of it, and a lane whose command
failed is held or ended (R180, R334). -/
def State.completeCmd (s : State) (n : Nat) (c : StkCmd) : State :=
  let status := if c.killed then 1 else c.status
  let s1 := if c.killed then s.scrambleCmd n c else s
  let s2 := s1.removeCmd n c.uid
  let s3 := if bit (cFlags c.bytes) 0 then s2.writeRecord n c status else s2
  let s4 := if bit (cFlags c.bytes) 1 then s3.countUp c.part (cDonePa c.bytes) else s3
  let s5 := s4.bump (schedPage (dieOf (n / 8))) (partOff c.part + 0x30) 32 1
  let s6 := s5.updOwner c.strand (fun x =>
    let va := ((x.cmds.find? (fun e => e.1 == n && e.2.1 == c.uid)).map (fun e => e.2.2)).getD 0
    { x with cmds := x.cmds.filter (fun e => !(e.1 == n && e.2.1 == c.uid))
             badCmd := if 2 ≤ status ∧ x.badCmd.isNone then some va else x.badCmd })
  let s7 := if c.opcode = 1 then s6.memberEnded c.bytes else s6
  if 2 ≤ status then s7.stepFault c.part (cId c.bytes) status (s.peerPage n c) else s7

/-- A command's results are visible; a SUMMARISE's keys are written by then (R180). -/
def State.stkComplete (s : State) (stack uid : Nat) : State :=
  match (s.stack stack).cmd uid with
  | none => s
  | some c0 =>
    let s1 := if c0.opcode = 3 ∧ !c0.killed then State.keysAhead stack c0.part (s.stack stack).cmds.length s else s
    match (s1.stack stack).cmd uid with
    | none => s1
    | some c => if s1.mayComplete stack c then s1.completeCmd stack c else s1

/-! ### Kills (R182, R210) -/

/-- A command is killed, and with it every member of its group: the group is freed at once, so later partials are
discarded. A command past its completion point is left (R182, R210). -/
def State.killCmd (s : State) (n : Nat) (c : StkCmd) : State :=
  if c.killed || s.mayComplete n c then s
  else
    let s1 := s.markKilled n c.uid
    if c.opcode ≠ 1 then s1
    else
      let d := cHome c.bytes
      match (s1.basin.get d).group (cHandle c.bytes) (cGen c.bytes) with
      | none => s1
      | some g =>
        if g.broken then s1
        else
          g.members.foldl (fun t m => t.markKilled m.1 m.2)
            { s1 with basin := s1.basin.set d ((s1.basin.get d).free g.handle) }

/-- Who may use a control page: its partition, and partition 0 (R161). -/
def ctlAllowed (who : Who) (part : Nat) : Bool := who.root || who.part == some part

/-- STK_KILL: every uncompleted command of the partition with the cmd_id (R182). -/
def writeStkKill (who : Who) (n part : Nat) (v : Word) (s : State) : Written :=
  if !ctlAllowed who part then denied s
  else written (((s.stack n).cmds.filter (fun c => c.part == part && cId c.bytes == v.toNat % 2 ^ 32)).foldl (fun t c => t.killCmd n c) s)

/-- STK_KILL_ALL (R182, R187). -/
def writeStkKillAll (who : Who) (n part : Nat) (v : Word) (s : State) : Written :=
  if !ctlAllowed who part then denied s
  else if !bit v.toNat 0 then written s
  else written (((s.stack n).cmds.filter (fun c => c.part == part)).foldl (fun t c => t.killCmd n c) s)

/-- STK_REC_RD: a write that moves the index back, or beyond STK_REC_WR, is ignored (R187). -/
def writeStkRecRd (who : Who) (n part : Nat) (v : Word) (s : State) : Written :=
  if !ctlAllowed who part then denied s
  else
    let p := ctlPage n part
    let rd := s.fld (p + 0x1C) 0 32
    let wr := s.fld (p + 0x18) 0 32
    let new := v.toNat % 2 ^ 32
    if (new + 2 ^ 32 - rd) % 2 ^ 32 ≤ (wr + 2 ^ 32 - rd) % 2 ^ 32 then written (s.setFld (p + 0x1C) 0 32 new) else written s

def execStkKill (who : Who) (stack part : Nat) (value : Word) (s : State) : Host.Outcome State Fault Refusal :=
  commit s (crossed who (ctlPage stack part + 0x00) 4 value (writeStkKill who stack part value) s)
def execStkKillAll (who : Who) (stack part : Nat) (value : Word) (s : State) : Host.Outcome State Fault Refusal :=
  commit s (crossed who (ctlPage stack part + 0x08) 4 value (writeStkKillAll who stack part value) s)
def execStkRecRdWrite (who : Who) (stack part : Nat) (value : Word) (s : State) : Host.Outcome State Fault Refusal :=
  commit s (crossed who (ctlPage stack part + 0x1C) 4 value (writeStkRecRd who stack part value) s)

/-! ### Mode (R160) -/

/-- A mode write takes effect: each half whose requested mode differs begins a change. -/
def State.applyMode (s : State) (n v : Nat) : State :=
  (List.range 2).foldl (fun t h =>
    let want := bit v h
    let t1 := t.setFlag (stackPage n + 0x100) h want
    if t1.halfMode n h = want ∨ (t1.stack n).going h ≠ none then t1
    else (t1.setStack n ((t1.stack n).setGoing h (some want))).setFlag (stackPage n + 0x100) (16 + h) true) s

/-- A change has ended: writes held meanwhile take effect in order while none is in progress. -/
def State.heldModes (n : Nat) : Nat → State → State
  | 0, s => s
  | f + 1, s =>
    let k := s.stack n
    match k.heldMode with
    | [] => s
    | v :: r =>
      if k.going0.isSome || k.going1.isSome then s
      else State.heldModes n f ((s.setStack n { k with heldMode := r }).applyMode n v)

/-- A half is changing its mode. -/
def Stack.changing (k : Stack) : Bool := k.going0.isSome || k.going1.isSome

/-- A mode write that must wait. -/
def Stack.holdMode (k : Stack) (v : Nat) : Stack := { k with heldMode := k.heldMode ++ [v] }

/-- STK_MODE: applied, or held while a change is in progress (R160, R186). -/
def writeStkMode (who : Who) (n : Nat) (v : Word) (s : State) : Written :=
  rootRwl who (stackPage n) (fun t =>
    if !(t.stack n).trained then t
    else if (t.stack n).changing then t.setStack n ((t.stack n).holdMode (v.toNat % 4))
    else t.applyMode n (v.toNat % 4)) s

def execStkModeWrite (who : Who) (stack : Nat) (value : Word) (s : State) : Host.Outcome State Fault Refusal :=
  commit s (crossed who (stackPage stack + 0x100) 4 value (writeStkMode who stack value) s)

/-- A half's change ends in a mode. -/
def State.endMode (s : State) (n h : Nat) (m : Bool) : State :=
  let s1 := (s.setFlag (stackPage n + 0x100) (8 + h) m).setFlag (stackPage n + 0x100) (16 + h) false
  let s2 := s1.setStack n ((s1.stack n).setGoing h none)
  State.heldModes n (s2.stack n).heldMode.length s2

/-- An NBU fails: its commands are given status 3, it reads as unavailable, and its spare is asked for where the swap is
automatic (R184, R271). -/
def State.nbuFails (s : State) (n nbu : Nat) : State :=
  let k := s.stack n
  if 512 ≤ nbu ∨ k.unavailable.contains nbu then s
  else
    let hit := k.cmds.filter (fun c => !c.killed && c.slices.any (fun x => x.nbu == nbu))
    let uids := hit.map (·.uid)
    let s0 := hit.foldl (fun t c => t.dropSlices n c) s
    let s1 := s0.setStack n { s0.stack n with
      unavailable := k.unavailable ++ [nbu]
      running := mdel k.running nbu
      cmds := (s0.stack n).cmds.map (fun c => if uids.contains c.uid then
        { c with status := if c.status = 0 then 3 else c.status, slices := c.slices.filter (fun _ => false) } else c) }
    let s2 : State := if s1.flag (scrubStackPage n + 0x108) 1 then s1.askMaint (.nbuSwap n nbu) else s1
    let k2 := s2.stack n
    let s3 := s2.setStack n { k2 with
      running := k2.running.filter (fun e => !uids.contains (e.2 - 1))
      contexts := (k2.contexts.map (fun e => (e.1, e.2.filter (fun u => !uids.contains u)))).filter (fun e => !e.2.isEmpty) }
    let part := (hit.head?).map (·.part)
    uids.foldl (fun t u => t.settle n u) (s3.raise (sePage n) 0x0402 part nbu 0 false (!hit.isEmpty))

/-- A command names a half: by a slot, or by the place of a summary key it writes (R160, R169). -/
def StkCmd.namesHalf (c : StkCmd) (h : Nat) : Bool :=
  c.slots.any (fun x => x.1 / 256 == h) || (c.opcode == 3 && c.spans.any (fun x => halfOf x.1 == h))

/-- STK_MODE_EXIT_DONE: the last command that names the half has completed, and it is in memory mode (R160). -/
def execStkModeExitDone (stack half : Nat) (s : State) : Host.Outcome State Fault Refusal :=
  commit s (
    if 1 < half ∨ (s.stack stack).going half ≠ some false ∨ (s.stack stack).cmds.any (fun c => c.namesHalf half) then s
    else s.endMode stack half false)

/-- A granule's entry: its partition, and 16 where it is valid. -/
def Stack.setOwn (k : Stack) (g v : Nat) : Stack := { k with own := mset 0 k.own g v }

/-- A granule may be given to a partition: R344 does not keep its half for another. -/
def State.mayOwn (s : State) (n g p : Nat) : Bool :=
  s.namesHalf p n (g % 2) && (match s.gHalf n (g % 2) with | some q => q == p | none => true)

/-- A granule's entry changes its partition's assignment (R362). -/
def State.noteOwner (s : State) (entry : Nat) : State := if bit entry 4 then s.noteUnmodelled (some (entry % 16)) else s

/-- STK_OWN_DATA: the granule that STK_OWN_IDX names is given to a partition or made invalid; an unpopulated granule is
left, and so is one that R344 keeps from the partition (R153, R186). -/
def writeStkOwnData (who : Who) (n : Nat) (v : Word) (s : State) : Written :=
  rootOnly who (fun t =>
    let g := t.fld (stackPage n + 0x104) 0 16
    let p := v.toNat % 16
    if t.stackBytes ≤ g * 2 ^ 20 then written t
    else if bit v.toNat 4 && !t.mayOwn n g p then written t
    else
      written ((((t.setReg (stackPage n + 0x108) (w64 (v.toNat % 32))).setStack n ((t.stack n).setOwn g (v.toNat % 32))).noteOwner
        (mget 0 (t.stack n).own g)).noteOwner (v.toNat % 32))) s

def execStkOwnDataWrite (who : Who) (stack : Nat) (value : Word) (s : State) : Host.Outcome State Fault Refusal :=
  commit s (crossed who (stackPage stack + 0x108) 4 value (writeStkOwnData who stack value) s)

/-- STK_QLIMIT: a write whose units sum to more than 16 leaves it (R186). -/
def writeStkQlimit (who : Who) (n : Nat) (v : Word) (s : State) : Written :=
  rootRwl who (stackPage n) (fun t => if 16 < nibbleSum v.toNat then t else (t.setReg (stackPage n + 0x110) v).noteUnmodelled none) s

def execStkQlimitWrite (who : Who) (stack : Nat) (value : Word) (s : State) : Host.Outcome State Fault Refusal :=
  commit s (crossed who (stackPage stack + 0x110) 8 value (writeStkQlimit who stack value) s)

/-- NBU_SELFCHECK_FAIL (R184). -/
def execNbuSelfcheckFail (stack nbu : Nat) (s : State) : Host.Outcome State Fault Refusal :=
  commit s (s.nbuFails stack nbu)

end Sys2Proof.Machine
end

