-- ==== Sys2Proof/Machine/Basin.lean ====
section
/-!
DEFINITION. The Basin's commands (R205 to R212): reservations, the merging of partials, result records, and what partition
0 and the SCC write.
-/
namespace Sys2Proof.Machine

/-! ### Reservations -/

/-- Slots and handles a partition has reserved on a die (R208). -/
def Basin.slotsOf (b : Basin) (part : Nat) : Nat := ((b.groups.filter (fun g => g.part == part)).map (·.slots)).foldl (· + ·) 0
def Basin.handlesOf (b : Basin) (part : Nat) : Nat := (b.groups.filter (fun g => g.part == part)).length

/-- A reservation of n slots keeps a partition within its slots and its handles, and the Basin within its 4,096 and 1,024
(R205, R208). -/
def State.canReserve (s : State) (d : Die) (part n : Nat) : Bool :=
  let u := s.fld (basinPage d + 0x100) (4 * part) 4
  let b := s.basin.get d
  decide (b.slotsOf part + n ≤ 256 * u) && decide (b.handlesOf part + 1 ≤ 64 * u) &&
    decide ((b.groups.map (·.slots)).foldl (· + ·) 0 + n ≤ 4096) && decide (b.groups.length < 1024)

/-- The first free handle. -/
def Basin.freeHandle (b : Basin) : Nat :=
  ((List.range 1024).find? (fun h => !b.groups.any (fun g => g.handle == h))).getD 0

/-- A reservation is made: its group, with the handle's present generation. -/
def State.reserve (s : State) (d : Die) (g : Group) : State × Group :=
  let b := s.basin.get d
  let h := b.freeHandle
  let g1 := { g with handle := h, gen := mget 0 b.gens h, acc := List.replicate g.slots (Partial.identity g.dim) }
  ({ s with basin := s.basin.set d { b with groups := b.groups ++ [g1] } }, g1)

def Group.fresh (part slots membersM1 : Nat) (d : Die) (core spa dim : Nat) (select : Bool) (strand : Option Nat) : Group :=
  { handle := 0, gen := 0, part := part, slots := slots, membersM1 := membersM1, dstDie := d, dstCore := core, dstSpa := spa,
    dim := dim, select := select, acc := [], arrived := [], merged := 0, poisoned := false, selRecord := [], bad := false, strand := strand, issued := 0,
    members := [], ended := 0, broken := false }

/-- A reservation joins those that wait, and is counted (R208, R212). -/
def State.waitReserve (s : State) (d : Die) (w : RsvWait) : State :=
  let b := s.basin.get d
  ({ s with basin := s.basin.set d { b with waits := b.waits ++ [w] } } : State).bump (basinPage d) 0x054 32 1

/-- No reservation of the partition waits ahead; a strand's own place does not count against it. -/
def Basin.first (b : Basin) (part : Nat) (strand : Option Nat) : Bool :=
  match b.waits.find? (fun w => w.part == part) with
  | none => true
  | some w => w.strand == strand && strand.isSome

/-- No reservation of the partition waits ahead of that of a group of Quiley's (R208). -/
def Basin.firstStep (b : Basin) (part group : Nat) : Bool :=
  match b.waits.find? (fun w => w.part == part) with | none => true | some w => w.step == some group

/-- A waiting reservation has been served. -/
def State.dropWait (s : State) (d : Die) (w : RsvWait) : State :=
  { s with basin := s.basin.set d { s.basin.get d with waits := (s.basin.get d).waits.erase w } }

/-- The SCC's request is granted: BASIN_RSV_RESULT shows it (R212). -/
def State.grantScc (s : State) (d : Die) (w : RsvWait) : State :=
  let r := s.reserve d (Group.fresh w.part w.slots w.membersM1 d w.dstCore w.dstSpa 128 false none)
  r.1.setReg (basinPage d + 0x118) (w64 (1 + r.2.handle * 4 + r.2.gen * 2 ^ 12))

/-! ### Quiley's stack commands (R206, R211, R326) -/

/-- The destination of a command's results: die, core and address. -/
def cDst (b : List Byte) : Die × Nat × Nat := (dieOf (bits (cDstCore b) 7 1), bits (cDstCore b) 0 7, cDstSpa b)

/-- The slots an ATTEND reserves: one for each query vector, or one where it only selects (R205). -/
def cSlots (b : List Byte) : Nat := if (cPattern b).mode = 2 then 1 else cQ b

/-- The Basin field of the next member of a group (R206). -/
def StepGroup.field (g : StepGroup) (membersM1 : Nat) : Nat :=
  g.handle + g.gen * 2 ^ 10 + g.die.idx * 2 ^ 16 + g.sent * 2 ^ 17 + membersM1 * 2 ^ 21

/-- The groups after a member of one has been sent. -/
def State.sentMember (s : State) (g : StepGroup) (membersM1 : Nat) : State :=
  let rest := s.quiley.groups.filter (fun x => x.group != g.group)
  { s with quiley := { s.quiley with groups := if g.sent < membersM1 then { g with sent := g.sent + 1 } :: rest else rest } }

/-- The reservation that a command of Quiley's asks for, as the request of R212 holds it. -/
def StepCmd.wait (c : StepCmd) (g : Nat) : RsvWait :=
  ⟨c.part, cSlots c.bytes, none, (cPattern c.bytes).membersM1, (cDst c.bytes).2.1, (cDst c.bytes).2.2, some g⟩
def RsvWait.word (w : RsvWait) : Nat :=
  w.slots % 16 + w.membersM1 % 16 * 2 ^ 4 + w.part % 16 * 2 ^ 8 + w.dstCore % 128 * 2 ^ 12 + w.dstSpa % 2 ^ 21 * 2 ^ 20

/-- The SCC's request stands in BASIN_RSV, and its outcome in BASIN_RSV_RESULT (R211, R212). -/
def State.showRsv (s : State) (d : Die) (w : RsvWait) (result : Nat) : State :=
  (s.setReg (basinPage d + 0x110) (w64 w.word)).setReg (basinPage d + 0x118) (w64 result)

/-- The wait of a group of Quiley's ends. -/
def State.dropStep (s : State) (d : Die) (g : Nat) : State :=
  { s with basin := s.basin.set d { s.basin.get d with waits := (s.basin.get d).waits.filter (fun w => w.step != some g) } }

/-- Waits of Quiley's whose commands stand no longer are dropped. -/
def State.pruneSteps (s : State) : State :=
  let live (w : RsvWait) : Bool := match w.step with | none => true | some g => s.quiley.unsent.any (fun c => c.group == some g)
  bothDies.foldl (fun t d => { t with basin := t.basin.set d { t.basin.get d with waits := (t.basin.get d).waits.filter live } }) s

/-- The Basin field of a command of Quiley's: none for what uses no Basin, the reservation of its group, or a new one where the
home Basin has room (R206, R211). -/
def State.basinField (s : State) (c : StepCmd) : Option (State × Nat) :=
  match c.group with
  | none => some (s, 0)
  | some g =>
    let mm := (cPattern c.bytes).membersM1
    match s.quiley.groups.find? (fun x => x.group == g) with
    | some x => some (s.sentMember x mm, x.field mm)
    | none =>
      let d := (cDst c.bytes).1
      if s.canReserve d c.part (cSlots c.bytes) && (s.basin.get d).firstStep c.part g then
        let r := (s.dropStep d g).reserve d (Group.fresh c.part (cSlots c.bytes) mm d (cDst c.bytes).2.1 (cDst c.bytes).2.2 (cDim c.bytes)
          ((cPattern c.bytes).mode == 2) none)
        let x : StepGroup := ⟨g, d, r.2.handle, r.2.gen, 0⟩
        some ((r.1.showRsv d (c.wait g) (1 + r.2.handle * 4 + r.2.gen * 2 ^ 12)).sentMember x mm, x.field mm)
      else none

/-- The reservation that a command of Quiley's waits for, unless it waits already: one for each group (R208). -/
def State.waitStep (s : State) (c : StepCmd) : State :=
  let d := (cDst c.bytes).1
  match c.group with
  | none => s
  | some g => if (s.basin.get d).waits.any (fun w => w.step == some g) then s else (s.showRsv d (c.wait g) 0).waitReserve d (c.wait g)

/-- Step 1 of R36 for a command of Quiley's: an ATTEND waits until the halves that hold its pages are in compute mode (DESIGN
CHOICE, log 120). -/
def State.stepModeOk (s : State) (c : StepCmd) : Bool := cOpcode c.bytes != 1 || s.modeOk c.stack c.bytes

/-- Quiley's commands go to their stacks in the order in which they stand; none passes an earlier one of its partition and
stack that waits (R213). What is left waits. -/
def sendCmds : List StepCmd → List Nat → State → State × List StepCmd
  | [], _, s => (s, [])
  | c :: r, blocked, s =>
    if blocked.contains (c.part * 16 + c.stack) || !s.stepModeOk c then
      let x := sendCmds r ((c.part * 16 + c.stack) :: blocked) s
      (x.1, c :: x.2)
    else
      match s.basinField c with
      | some (t, field) =>
        sendCmds r blocked (t.arrivePort c.stack ⟨c.part, patch (patch c.bytes 0x10 (leBytes 4 field)) 0x14 (leBytes 1 c.part), none, 0, 0, false⟩)
      | none =>
        let x := sendCmds r ((c.part * 16 + c.stack) :: blocked) (s.waitStep c)
        (x.1, c :: x.2)

/-- Quiley sends what it can of its commands. -/
def State.sendSteps (s : State) : State :=
  let x := sendCmds s.quiley.unsent [] s.pruneSteps
  { x.1 with quiley := { x.1.quiley with unsent := x.2 } }

/-- BASIN_RESERVATION_GRANT: the oldest waiting reservation of a partition, once its allotment allows. An SCMD that waits
makes its reservation as it issues again (R208). -/
def execBasinReservationGrant (die : Die) (part : Nat) (s : State) : Host.Outcome State Fault Refusal :=
  commit s (
    let b := s.basin.get die
    match b.waits.find? (fun w => w.part == part) with
    | none => s
    | some w =>
      if !s.canReserve die part w.slots then s
      else
        match w.strand with
        | some k =>
          let i := keySid k
          match s.strand k with
          | some x => (s.setStrand k (x.setBlocked .access none)).restatCore i.die i.core
          | none => s
        | none =>
          if w.step.isSome then s.sendSteps else (s.dropWait die w).grantScc die w)

/-- STK_MODE_ENTRY_DONE: the half's NBUs have been checked; those that fail are handled as failures, and the half is in
compute mode (R160). -/
def execStkModeEntryDone (stack half : Nat) (failed : List Nat) (s : State) : Host.Outcome State Fault Refusal :=
  commit s (
    if 1 < half ∨ (s.stack stack).going half ≠ some true then s
    else (((failed.filter (fun n => n / 256 == half)).foldl (fun t n => t.nbuFails stack n) s).endMode stack half true).sendSteps)

/-! ### Partials -/

/-- Partials merged into the slots of a reservation, in order (R202). -/
def mergeAll (acc parts : List Partial) : List Partial :=
  (List.range acc.length).map (fun j =>
    match acc[j]?, parts[j]? with
    | some a, some p => mergePartial a p
    | some a, none => a
    | none, _ => ⟨negInf32, 0, []⟩)

/-- A group after an arrival: the partials merged, the member marked as arrived, poison and selection noted. A reservation of
the SCC learns from it the head dimension and whether its members only select (R202, R204, R209, R211). -/
def Group.takeIn (g : Group) (a : Arrival) : Group :=
  let acc := if g.strand.isNone && g.arrived.isEmpty then List.replicate g.slots (Partial.identity a.dim) else g.acc
  { g with
    dim := if g.strand.isNone then a.dim else g.dim
    acc := if a.parts.isEmpty then acc else mergeAll acc a.parts
    merged := if a.parts.isEmpty then g.merged else g.merged + 1
    arrived := if g.arrived.contains a.member then g.arrived else g.arrived ++ [a.member]
    poisoned := g.poisoned || a.status != 0
    select := g.select || a.select
    selRecord := if a.selRecord.isEmpty then g.selRecord else a.selRecord }

/-- The arrivals that are left. -/
def State.setArrivals (s : State) (d : Die) (l : List Arrival) : State :=
  { s with basin := s.basin.set d { s.basin.get d with arrivals := l } }

/-- BASIN_PARTIAL_ARRIVAL: what has arrived first is merged, or discarded where its generation is stale (R202, R206,
R209). -/
def execBasinPartialArrival (die : Die) (s : State) : Host.Outcome State Fault Refusal :=
  commit s (
    match (s.basin.get die).arrivals with
    | [] => s
    | a :: rest =>
      match (s.basin.get die).group a.handle a.gen with
      | none => (s.setArrivals die rest).bump (basinPage die) 0x050 32 a.parts.length
      | some g => ((s.setArrivals die rest).setGroup die (g.takeIn a)).bump (basinPage die) 0x040 64 a.parts.length)

/-! ### Results (R204) -/

/-- The result record of one query vector. A poisoned record, whose values are all canonical NaN, shows neither nan nor empty
(DESIGN CHOICE, log 114); members merged minus 1 is 0 where none was (DESIGN CHOICE, log 115); a record is empty where m is
−infinity, be it that positions took part (DESIGN CHOICE, log 116). -/
def resultRecord (g : Group) (p : Partial) : List Byte :=
  let m := num32 p.m
  let l := num32 p.l
  let empty := p.isIdentity
  let anyNan := m.isNan || l.isNan || p.o.any (fun x => (num32 x).isNan)
  let o : List (BitVec 32) := if g.poisoned then List.replicate p.o.length nan32
    else if empty then List.replicate p.o.length 0
    else p.o.map (fun x => BitVec.ofNat 32 (convertDiv 0 0 false 0 (num32 x) l).bits)
  let lse := if empty then negInf32 else bits32 (add32 m (fLog2 .basinLog2 l))
  let w (x : BitVec 32) : List Byte := leBytes 4 (if g.poisoned then nan32 else x).toNat
  let flags := boolNat (empty && !g.poisoned) + 2 * boolNat (anyNan && !g.poisoned) + 4 * boolNat g.poisoned +
    8 * boolNat g.select + 256 * (g.merged - 1)
  byteSlice (o.flatMap (fun x => leBytes 4 x.toNat)) 0 512 ++ w p.m ++ w (if empty then 0 else p.l) ++ w lse ++ leBytes 4 flags ++
    List.replicate 16 0

/-- The records a group writes: one for each query vector, or the selection record (R200, R204). -/
def Group.records (g : Group) : List (List Byte) :=
  if g.select && !g.poisoned && !g.selRecord.isEmpty then [g.selRecord] else g.acc.map (resultRecord g)

/-- A group's records written one after another at its destination, 544 B each, and counted (R204). -/
def State.writeResults (s : State) (die : Die) (g : Group) : State :=
  let base := s.imageAddr g.part (spadBase g.dstDie g.dstCore)
  (((List.range g.records.length).zip g.records).foldl (fun (t : State) e => t.storeBytes (base + g.dstSpa + 544 * e.1) e.2) s).bump
    (basinPage die) 0x048 64 g.records.length

/-- A handle and its slots are freed on a die (R206, R209). -/
def State.freeHandle (s : State) (d : Die) (h : Nat) : State := { s with basin := s.basin.set d ((s.basin.get d).free h) }

/-- A group's slots and handle are freed, and its members' results are visible (R180, R209). -/
def State.dissolve (s : State) (die : Die) (g : Group) : State :=
  g.members.foldl (fun (t : State) m =>
    match (t.stack m.1).cmd m.2 with
    | some c => t.setCmd m.1 { c with visible := true }
    | none => t) (s.freeHandle die g.handle)

/-- A slot word of a group is uncorrectable: its records are written with poisoned set, and the error is recorded (R204, R257,
R263; the record's address is log 121's). -/
def State.slotLost (s : State) (die : Die) (g : Group) : State :=
  (s.raise (basinPage die) 0x0301 (some g.part) g.handle 7 false true).writeResults die { g with poisoned := true }

/-- BASIN_RESULT_WRITE: every member has reported; the records are written at the destination, the slots freed, and the
members may complete (R209, R210). -/
def execBasinResultWrite (die : Die) (handle : Nat) (s : State) : Host.Outcome State Fault Refusal :=
  commit s (
    match (s.basin.get die).groups.find? (fun g => g.handle == handle) with
    | none => s
    | some g =>
      if g.broken || g.arrived.length ≠ g.membersM1 + 1 then s
      else if s.domainStopped g.dstDie 0 then s.wakeDie g.dstDie
      else if g.bad then (s.slotLost die g).dissolve die g
      else (s.writeResults die g).dissolve die g)

/-! ### The SCC's reservations and the allotment -/

/-- The reservation a BASIN_RSV value asks for (R211). -/
def rsvOf (x : Nat) : RsvWait := ⟨bits x 8 4, bits x 0 4, none, bits x 4 4, bits x 12 7, bits x 20 21, none⟩

/-- A request is refused on a reserved q, a core the die does not have or an address outside R197's range. -/
def RsvWait.bad (w : RsvWait) : Bool :=
  w.slots == 0 || decide (8 < w.slots) || decide (96 ≤ w.dstCore) || w.dstSpa % 32 != 0 || decide (0x180000 < w.dstSpa + 544 * w.slots)

/-- The SCC asks for a reservation: refused, granted, or waiting (R211, R212). -/
def State.askRsv (s : State) (d : Die) (w : RsvWait) : State :=
  if w.bad then s.setReg (basinPage d + 0x118) 3
  else if s.canReserve d w.part w.slots && (s.basin.get d).first w.part none then s.grantScc d w
  else (s.setReg (basinPage d + 0x118) 0).waitReserve d w

/-- The SCC's reservation that a handle names. -/
def State.sccGroup (s : State) (d : Die) (h : Nat) : Option Group :=
  (s.basin.get d).groups.find? (fun g => g.handle == h && g.strand.isNone)

/-- Every member of a group is killed (R182, R211). -/
def State.killMembers (s : State) (g : Group) : State := g.members.foldl (fun (t : State) m => t.markKilled m.1 m.2) s

/-- The SCC cancels its reservation: every member is killed, and the slots are freed (R211). -/
def State.cancelRsv (s : State) (d : Die) (h : Nat) : State :=
  match s.sccGroup d h with
  | none => s
  | some g => (s.freeHandle d h).killMembers g

/-- BASIN_RSV: a cancel, or a request. -/
def writeBasinRsv (who : Who) (d : Die) (v : Word) (s : State) : Written :=
  if !who.isScc then denied s
  else
    let t := s.setReg (basinPage d + 0x110) (w64 (v.toNat % 2 ^ 52 - bits v.toNat 19 1 * 2 ^ 19))
    written (if bit v.toNat 41 then (t.setReg (basinPage d + 0x118) 1).cancelRsv d (bits v.toNat 42 10) else t.askRsv d (rsvOf v.toNat))

def execBasinRsvRequest (who : Who) (die : Die) (value : Word) (s : State) : Host.Outcome State Fault Refusal :=
  commit s (crossed who (basinPage die + 0x110) 8 (w64 (setBits value.toNat 41 1 0)) (writeBasinRsv who die (w64 (setBits value.toNat 41 1 0))) s)

/-- BASIN_RSV with cancel set: a kill of every member of the SCC's reservation (R211). -/
def execBasinRsvCancel (who : Who) (die : Die) (value : Word) (s : State) : Host.Outcome State Fault Refusal :=
  commit s (crossed who (basinPage die + 0x110) 8 (w64 (setBits value.toNat 41 1 1)) (writeBasinRsv who die (w64 (setBits value.toNat 41 1 1))) s)

/-- BASIN_SLOT_ALLOT: refused whole where the units sum to more than 16, which allot_err shows (R212). -/
def writeBasinSlotAllot (who : Who) (d : Die) (v : Word) (s : State) : Written :=
  rootRwl who (basinPage d) (fun t =>
    if 16 < nibbleSum v.toNat then t.setFlag (basinPage d + 0x108) 13 true
    else ((t.setReg (basinPage d + 0x100) v).setFlag (basinPage d + 0x108) 13 false).noteUnmodelled none) s

def execBasinSlotAllotWrite (who : Who) (die : Die) (value : Word) (s : State) : Host.Outcome State Fault Refusal :=
  commit s (crossed who (basinPage die + 0x100) 8 value (writeBasinSlotAllot who die value) s)

end Sys2Proof.Machine
end

