-- ==== Sys2Proof/Machine/Layout.lean ====
section
/-!
DEFINITION. The layout engine (R137 to R148): the descriptor and its checks, the operations element by element, slices,
completion and cancellation.
-/
namespace Sys2Proof.Machine

/-! ### The descriptor (R138) -/

/-- A layout descriptor's fields. Dimensions not in use have size 1. -/
structure LDesc where
  op : Nat
  sf : Nat
  df : Nat
  rnd : Nat
  sat : Bool
  sblk : Nat
  sfmt : Bool
  bdim : Nat
  n : Nat
  perm : List Nat
  src : Nat
  dst : Nat
  srcScale : Nat
  dstScale : Nat
  ss : List Nat
  ds : List Nat
  sst : List Int
  dst_ : List Int
  shift : Nat
  kbits : Nat
  keyOff : Nat
  fill : Nat
  tag : Nat
deriving DecidableEq, Repr

def lDesc (b : List Byte) : LDesc :=
  let c := leAt b 0 4
  let n := bits c 21 3 + 1
  let f (k : Nat) : List Nat := List.range k
  { op := bits c 0 4, sf := bits c 4 4, df := bits c 8 4, rnd := bits c 12 2, sat := bit c 14, sblk := bits c 15 2,
    sfmt := bit c 17, bdim := bits c 18 3, n := n, perm := (f n).map (fun i => bits (leAt b 4 4) (3 * i) 3),
    src := leAt b 8 8, dst := leAt b 0x10 8, srcScale := leAt b 0x18 8, dstScale := leAt b 0x20 8,
    ss := (f n).map (fun i => leAt b (0x28 + 4 * i) 4), ds := (f n).map (fun i => leAt b (0x40 + 4 * i) 4),
    sst := (f n).map (fun i => signed (leAt b (0x60 + 8 * i) 8) 64), dst_ := (f n).map (fun i => signed (leAt b (0x90 + 8 * i) 8) 64),
    shift := bits (leAt b 0xD0 4) 0 5, kbits := bits (leAt b 0xD0 4) 5 4, keyOff := bits (leAt b 0xD0 4) 9 8,
    fill := leAt b 0xD4 4, tag := leAt b 0xD8 8 }

def LDesc.l (d : LDesc) : Nat := if d.sblk = 1 then 16 else 32
def LDesc.sw (d : LDesc) : Nat := fmtBits d.sf
def LDesc.dw (d : LDesc) : Nat := fmtBits d.df

/-- FP8, FP6, FP4 and INT3 (R139). -/
def narrowFmt (c : Nat) : Bool := [2, 3, 4, 5, 6, 9].contains c

/-- The op and format pairs of R139. -/
def LDesc.pairOk (d : LDesc) : Bool :=
  match d.op with
  | 0 => d.sf == d.df && decide (d.sf ≤ 9)
  | 1 => decide (d.sf ≤ 8) && decide (d.df ≤ 8)
  | 2 => decide (d.sf ≤ 1) && narrowFmt d.df && d.sblk != 0
  | 3 => narrowFmt d.sf && decide (d.df ≤ 1) && d.sblk != 0
  | 4 => d.sf == 7 && d.df == 7 && d.n == 2
  | _ => false

/-- The product of a list of sizes. -/
def prodL (l : List Nat) : Nat := l.foldl (· * ·) 1

/-- Sizes with the block dimension cut into blocks. -/
def blockSizes (sizes : List Nat) (dim l : Nat) : List Nat :=
  (List.range sizes.length).map (fun i => if i = dim then ceilDiv (sizes.getD i 1) l else sizes.getD i 1)

/-- The block dimension as the source counts it. -/
def LDesc.srcDim (d : LDesc) : Nat := d.perm.getD d.bdim 0

/-- Bytes of the dense arrays: source scales, and destination scales or bucket counts. -/
def LDesc.srcScaleBytes (d : LDesc) : Nat := if d.op = 3 then prodL (blockSizes d.ss d.srcDim d.l) else 0
def LDesc.dstScaleBytes (d : LDesc) : Nat :=
  if d.op = 2 then prodL (blockSizes d.ds d.bdim d.l) else if d.op = 4 then 8 * 2 ^ d.kbits else 0

/-- The byte span of an operand (R78, R140). -/
def operandSpan (va : Nat) (sizes : List Nat) (strides : List Int) (w : Nat) : Int × Int :=
  let at_ (i : Nat) : Int := ((sizes.getD i 1 : Int) - 1) * strides.getD i 0
  let upper := (List.range sizes.length).drop 1
  let packed := strides.getD 0 0 == 0
  let lo := (upper.map (fun i => Min.min (at_ i) 0)).foldl (· + ·) (if packed then 0 else Min.min (at_ 0) 0)
  let hi := (upper.map (fun i => Max.max (at_ i) 0)).foldl (· + ·) (if packed then 0 else Max.max (at_ 0) 0)
  let last : Int := if packed then ceilDiv (sizes.getD 0 1 * w) 8 else ceilDiv w 8
  ((va : Int) + lo, (va : Int) + hi + last)

def spansCross (a b : Int × Int) : Bool := decide (a.1 < a.2) && decide (b.1 < b.2) && decide (a.1 < b.2) && decide (b.1 < a.2)

/-- Offsets of the address fields of a source and a destination array that intersect: the lower of each pair (R142). -/
def LDesc.overlaps (d : LDesc) : List Nat :=
  let dense (va n : Nat) : Int × Int := ((va : Int), (va : Int) + n)
  let srcs := [(0x08, operandSpan d.src d.ss d.sst d.sw), (0x18, dense d.srcScale d.srcScaleBytes)]
  let dsts := [(0x10, operandSpan d.dst d.ds d.dst_ d.dw), (0x20, dense d.dstScale d.dstScaleBytes)]
  srcs.flatMap (fun a => (dsts.filter (fun b => spansCross a.2 b.2)).map (fun b => Nat.min a.1 b.1))

/-- The offsets of the fields that break a check of R140. A key_off beyond the row is reported at its own offset 0xD0
only, and a block_dim of 6 or 7 is rejected for every op, also for those that do not use it (DESIGN CHOICE, log 98). -/
def LDesc.badFields (d : LDesc) : List Nat :=
  let r := List.range d.n
  let isPerm := r.all (fun i => d.perm.contains i) && (d.op != 4 || d.perm == r)
  let reserved := decide (4 < d.op) || decide (9 < d.sf) || decide (9 < d.df) || decide (1 < d.rnd) || d.sblk == 3 ||
    decide (5 < d.bdim) || decide (6 < d.n)
  let blocks := d.op == 2 || d.op == 3
  (if reserved || !d.pairOk || (blocks && decide (d.n ≤ d.bdim)) then [0x00] else []) ++
  (if isPerm then [] else [0x04]) ++
  (if (d.srcScale != 0) == (d.op == 3) then [] else [0x18]) ++
  (if (d.dstScale != 0) == (d.op == 2 || d.op == 4) then [] else [0x20]) ++
  (r.filter (fun i => d.ss.getD i 0 == 0)).map (fun i => 0x28 + 4 * i) ++
  (if d.op = 4 ∧ 256 < d.ss.getD 0 0 then [0x28] else []) ++ (if d.op = 4 ∧ 2 ^ 24 < d.ss.getD 1 0 then [0x2C] else []) ++
  (r.filter (fun i =>
    let need := d.ss.getD (d.perm.getD i 0) 0
    isPerm && (decide (d.ds.getD i 0 < need) || (decide (2 ≤ d.op) && d.ds.getD i 0 != need)))).map (fun i => 0x40 + 4 * i) ++
  (if d.sw < 8 ∧ d.sst.getD 0 0 ≠ 0 then [0x60] else []) ++ (if d.dw < 8 ∧ d.dst_.getD 0 0 ≠ 0 then [0x90] else []) ++
  ((r.drop 1).filter (fun i => d.dst_.getD i 0 == 0)).map (fun i => 0x90 + 8 * i) ++
  (if d.op = 4 ∧ (d.kbits = 0 ∨ 8 < d.kbits ∨ d.ss.getD 0 0 < d.keyOff + 4) then [0xD0] else []) ++
  (if 2 ≤ d.op ∧ d.fill ≠ 0 then [0xD4] else []) ++
  (if isPerm then d.overlaps else [])

/-! ### Access by the engine (R141, R142) -/

/-- How an access of the engine ends when it does not succeed: a status and a virtual address, or that it waits for a
Reservoir controller being initialised. -/
inductive LayStop where
  | status (st va : Nat)
  /-- The access waits: for a Reservoir controller's initialisation, or for the core domain of a die to wake. -/
  | held (wake : Option Die)
deriving DecidableEq, Repr

/-- One piece of an access translated and placed: a local address the engine may reach, with its pool bit. -/
def State.layPlace (s : State) (d : Die) (part va : Nat) (perm : Perm) : State × (LayStop ⊕ (Nat × Bool)) :=
  match s.translate (layoutPage d) d part va perm with
  | (t, .fault) => (t, .inl (.status 2 va))
  | (t, .bad) => (t, .inl (.status 4 va))
  | (t, .ok ga pool) =>
    if !t.isLocal ga then (t, .inl (.status 6 va))
    else if t.heldAt (gaLocal ga) then (t, .inl (.held none))
    else if (t.asleepAt (gaLocal ga)).isSome then (t, .inl (.held (t.asleepAt (gaLocal ga))))
    else (t, .inr (gaLocal ga, pool))

/-- Bytes read by the engine from virtual memory. An access that fails is reported by its first byte, wherever in it the unit
lies that fails (DESIGN CHOICE, log 110). -/
def layRead (d : Die) (part : Nat) : List (Nat × Nat) → State → State × (LayStop ⊕ List Byte)
  | [], s => (s, .inr [])
  | (va, n) :: r, s =>
    match s.layPlace d part va .r with
    | (t, .inl e) => (t, .inl e)
    | (t, .inr (a, pool)) =>
      match (if pool then t.poolAsk part a n else t).homeReadPool (askedBy (layoutPage d) 5) part pool a n with
      | (u, 0, b) =>
        match layRead d part r (u.bump (layoutPage d) 0x040 64 n) with
        | (w, .inr rest) => (w, .inr (b ++ rest))
        | x => x
      | (u, st, _) => (u, .inl (.status (if st = 2 then 3 else 4) va))

/-- Bytes written by the engine. -/
def layWrite (d : Die) (part : Nat) : List (Nat × Nat) → List Byte → State → State × Option LayStop
  | [], _, s => (s, none)
  | (va, n) :: r, b, s =>
    match s.layPlace d part va .w with
    | (t, .inl e) => (t, some e)
    | (t, .inr (a, _)) =>
      match t.homeWrite part a (b.take n) with
      | (u, 0) => layWrite d part r (b.drop n) (u.bump (layoutPage d) 0x048 64 n)
      | (u, st) => (u, some (.status (if st = 2 then 3 else 4) va))

/-- Bit position of an element from its operand's address, by its indices: dimension 0 packed or strided (R138). -/
def elemBit (strides : List Int) (w : Nat) (ix : List Nat) : Int :=
  let upper := (((List.range ix.length).drop 1).map (fun i => (ix.getD i 0 : Int) * strides.getD i 0)).foldl (· + ·) 0
  if strides.getD 0 0 = 0 then upper * 8 + (ix.getD 0 0 : Int) * w else (upper + (ix.getD 0 0 : Int) * strides.getD 0 0) * 8

/-- The bytes an element's bits lie in: the first byte's offset, how many, and the bit within the first. -/
def elemBytes (bitOff : Int) (w : Nat) : Int × Nat × Nat :=
  let lo := bitOff / 8
  let sh := (bitOff - lo * 8).toNat
  (lo, ceilDiv (sh + w) 8, sh)

/-- The byte of a virtual address as it stands, for a destination byte that a write does not fill whole. -/
def State.layPeek (s : State) (d : Die) (part va : Nat) : Nat :=
  match (s.layPlace d part va .w).2 with
  | .inr (a, _) => (s.byte (s.imageAddr part a)).toNat
  | .inl _ => 0

/-! ### Units -/

/-- The index vector of a position, first dimension fastest. -/
def unrank : List Nat → Nat → List Nat
  | [], _ => []
  | n :: r, k => k % n :: unrank r (k / n)

/-- The position of an index vector, first dimension fastest. -/
def rankOf : List Nat → List Nat → Nat
  | n :: r, i :: t => i + n * rankOf r t
  | _, _ => 0

/-- The source index of a destination index, where the source has one (R139). -/
def LDesc.srcIndex (d : LDesc) (ix : List Nat) : Option (List Nat) :=
  let j := (List.range d.n).map (fun k => match (List.range d.n).find? (fun i => d.perm.getD i 0 == k) with
    | some i => ix.getD i 0
    | none => 0)
  if (List.range d.n).all (fun k => decide (j.getD k 0 < d.ss.getD k 0)) then some j else none

/-- The rows of a bucket descriptor. -/
def LDesc.rows (d : LDesc) : Nat := d.ss.getD 1 1

/-- Bytes of the source of a bucket descriptor: its elements (R139, R146). -/
def LDesc.elems (d : LDesc) : Nat := d.ss.getD 0 1 * d.rows

/-- How many units a descriptor has: elements or blocks; for bucket the bytes read for their keys, the bytes moved, and the
counts and starting rows (two reads of the source, R144, R146). -/
def LDesc.units (d : LDesc) : Nat :=
  match d.op with
  | 2 => prodL (blockSizes d.ds d.bdim d.l)
  | 3 => prodL (blockSizes d.ds d.bdim d.l)
  | 4 => 2 * d.elems + 2 * 2 ^ d.kbits
  | _ => prodL d.ds

/-! ### Runs (R144) -/

/-- Runs of bytes, each its first byte and the byte after its last, the highest first. -/
abbrev Runs := List (Int × Int)

/-- Runs with one more: runs that touch merge. -/
def addRun (lo hi : Int) : Runs → Runs
  | [] => [(lo, hi)]
  | (a, b) :: r =>
    if b < lo then (lo, hi) :: (a, b) :: r
    else if hi < a then (a, b) :: addRun lo hi r
    else addRun (Min.min a lo) (Max.max b hi) r

/-- What a slice needs of each merged run of an operand (R144): the run's number, and the first byte and the byte after the
last of a stretch of it. -/
abbrev RunParts := List (Nat × Int × Int)

/-- One more stretch of a run; stretches of one run that touch are one. -/
def addPart (id : Nat) (lo hi : Int) : RunParts → RunParts
  | [] => [(id, lo, hi)]
  | (j, a, b) :: r =>
    if j = id ∧ lo ≤ b ∧ a ≤ hi then addPart id (Min.min a lo) (Max.max b hi) r else (j, a, b) :: addPart id lo hi r

/-- Accesses of at most 128 B that runs need (R144). -/
def runAccesses (l : RunParts) : Nat := (l.map (fun x => ceilDiv (x.2.2 - x.2.1).toNat 128)).foldl (· + ·) 0

/-- Dimensions merged into one run, from a run of `b` bytes that takes in `m` dimensions upward: the next one joins where its
stride is the run's length (R144). -/
def mergeDims (sizes : List Nat) (strides : List Int) : Nat → Nat → Nat → Nat
  | 0, m, _ => m
  | n + 1, m, b =>
    if m < sizes.length ∧ strides.getD m 0 = (b : Int) then mergeDims sizes strides n (m + 1) (b * sizes.getD m 1) else m

/-- The number of the merged run of an operand that holds an element (R144). A run is a dimension-0 row; where dimension 0 has
a stride, it is an element, and dimension 0 merges like the others (DEDUCED, log 23). -/
def runOf (sizes : List Nat) (strides : List Int) (w : Nat) (ix : List Nat) : Nat :=
  let m := if strides.getD 0 0 = 0 then mergeDims sizes strides sizes.length 1 (ceilDiv (sizes.getD 0 1 * w) 8)
    else mergeDims sizes strides sizes.length 0 (ceilDiv w 8)
  rankOf (sizes.drop m) (ix.drop m)
def bytesOf (l : Runs) : Nat := (l.map (fun x => (x.2 - x.1).toNat)).foldl (· + ·) 0

/-- A run's accesses as virtual address and length: none crosses a 128 B boundary. -/
def runPieces (lo hi : Int) : List (Nat × Nat) :=
  let first := lo / 128
  (List.range ((hi + 127) / 128 - first).toNat).map (fun i =>
    let a := Max.max lo ((first + i) * 128)
    let b := Min.min hi ((first + i + 1) * 128)
    (va64 a, (b - a).toNat))

/-! ### A slice (R145) -/

/-- The destination indices of a block. -/
def LDesc.blockIx (d : LDesc) (u : Nat) : List (List Nat) :=
  let b := unrank (blockSizes d.ds d.bdim d.l) u
  let first := b.getD d.bdim 0 * d.l
  (List.range (Nat.min d.l (d.ds.getD d.bdim 1 - first))).map (fun k => b.set d.bdim (first + k))

/-- The place of a destination block's scale in the dense source scales (R132, R139). -/
def LDesc.scaleAt (d : LDesc) (u : Nat) : Nat :=
  let first := (d.srcIndex ((d.blockIx u).headD [])).getD []
  rankOf (blockSizes d.ss d.srcDim d.l) (first.set d.srcDim (first.getD d.srcDim 0 / d.l))

/-- Where an element lies: its first byte, how many bytes, and the bit within the first. -/
def LDesc.srcAt (d : LDesc) (ix : List Nat) : Int × Nat × Nat :=
  let e := elemBytes (elemBit d.sst d.sw ix) d.sw
  ((d.src : Int) + e.1, e.2)
def LDesc.dstAt (d : LDesc) (ix : List Nat) : Int × Nat × Nat :=
  let e := elemBytes (elemBit d.dst_ d.dw ix) d.dw
  ((d.dst : Int) + e.1, e.2)

/-- Bucket: the destination row of each source row, by ascending bucket and within a bucket in source order (R146). -/
def placeRows (kbits : Nat) (keys : List Nat) : List Nat × List Nat × Array Nat :=
  let counts := keys.foldl (fun (c : Array Nat) k => c.modify k (· + 1)) (Array.replicate (2 ^ kbits) 0)
  let starts := (counts.foldl (fun (p : Nat × List Nat) c => (p.1 + c, p.1 :: p.2)) (0, [])).2.reverse
  (counts.toList, starts,
    (keys.foldl (fun (p : Array Nat × Array Nat) k => (p.1.modify k (· + 1), p.2.push (p.1.getD k 0))) (starts.toArray, #[])).2)

/-- Bucket of a row's key (R146). -/
def LDesc.bucket (d : LDesc) (key : Nat) : Nat := key / 2 ^ d.shift % 2 ^ d.kbits

/-- The source and destination indices of a unit's elements, in order; `places` are a bucket descriptor's destination
rows. -/
def LDesc.unitIx (d : LDesc) (places : Array Nat) (u : Nat) : List (Option (List Nat)) × List (List Nat) :=
  match d.op with
  | 2 => ((d.blockIx u).map d.srcIndex, d.blockIx u)
  | 3 => ((d.blockIx u).map d.srcIndex, d.blockIx u)
  | 4 =>
    let len := d.ss.getD 0 1
    let v := u - d.elems
    if u < d.elems then ([some [u % len, u / len]], [])
    else if u < 2 * d.elems then ([some [v % len, v / len]], [[v % len, places.getD (v / len) 0]])
    else ([], [])
  | _ => ([d.srcIndex (unrank d.ds u)], [unrank d.ds u])

/-- What a slice reaches: how many units, the bytes of values and scales of either side, and the stretches of runs that are
its accesses. -/
structure Slab where
  k : Nat
  src : Runs
  srcSc : Runs
  dst : Runs
  dstSc : Runs
  srcAcc : RunParts
  dstAcc : RunParts
deriving DecidableEq, Repr

def Slab.none : Slab := ⟨0, [], [], [], [], [], []⟩

/-- A slice with the next unit. The dense scale array of a side is a further operand of one run (R144). -/
def LDesc.grow (d : LDesc) (places : Array Nat) (p : Slab) (u : Nat) : Slab :=
  let ix := d.unitIx places u
  let add (f : List Nat → Int × Nat × Nat) (r : Runs) (i : List Nat) : Runs := addRun (f i).1 ((f i).1 + (f i).2.1) r
  let acc (f : List Nat → Int × Nat × Nat) (run : List Nat → Nat) (r : RunParts) (i : List Nat) : RunParts :=
    addPart (1 + run i) (f i).1 ((f i).1 + (f i).2.1) r
  let sc := if d.op = 3 then some ((d.srcScale + d.scaleAt u : Int), (d.srcScale + d.scaleAt u + 1 : Int)) else none
  let dc := if d.op = 2 then some ((d.dstScale + u : Int), (d.dstScale + u + 1 : Int))
    else if d.op = 4 ∧ 2 * d.elems ≤ u then
      some ((d.dstScale + 4 * (u - 2 * d.elems) : Int), (d.dstScale + 4 * (u - 2 * d.elems) + 4 : Int))
    else none
  let js := ix.1.filterMap id
  let srcA := js.foldl (acc d.srcAt (runOf d.ss d.sst d.sw)) p.srcAcc
  let dstA := ix.2.foldl (acc d.dstAt (runOf d.ds d.dst_ d.dw)) p.dstAcc
  { k := p.k + 1
    src := js.foldl (add d.srcAt) p.src
    srcSc := match sc with | some e => addRun e.1 e.2 p.srcSc | none => p.srcSc
    dst := ix.2.foldl (add d.dstAt) p.dst
    dstSc := match dc with | some e => addRun e.1 e.2 p.dstSc | none => p.dstSc
    srcAcc := match sc with | some e => addPart 0 e.1 e.2 srcA | none => srcA
    dstAcc := match dc with | some e => addPart 0 e.1 e.2 dstA | none => dstA }

/-- A slice is at most 64 KiB of destination, scales included, and 4,096 accesses of either side (R145, log 23). -/
def Slab.fits (p : Slab) : Bool :=
  decide (bytesOf p.dst + bytesOf p.dstSc ≤ 65536) && decide (runAccesses p.srcAcc ≤ 4096) && decide (runAccesses p.dstAcc ≤ 4096)

/-- The longest slice from a unit on and before `stop`, at least one unit. -/
def LDesc.slab (d : LDesc) (places : Array Nat) (stop : Nat) : Nat → Nat → Slab → Slab
  | 0, _, p => p
  | n + 1, u, p =>
    if stop ≤ u then p
    else
      let q := d.grow places p u
      if p.k = 0 ∨ q.fits then d.slab places stop n (u + 1) q else p

/-- How a descriptor's slice is read, converted or written: the staging buffer, runs of bytes by virtual address. -/
abbrev Staged := List (Int × Array Byte)

/-- Read runs into the staging buffer, in ascending order, each byte once. -/
def stage (die : Die) (part : Nat) : List (Int × Int) → State → State × (LayStop ⊕ Staged)
  | [], s => (s, .inr [])
  | (lo, hi) :: r, s =>
    match layRead die part (runPieces lo hi) s with
    | (t, .inl e) => (t, .inl e)
    | (t, .inr b) =>
      match stage die part r t with
      | (u, .inr l) => (u, .inr ((lo, b.toArray) :: l))
      | x => x

/-- The bits of an element in the staging buffer. -/
def Staged.bits (l : Staged) (at_ : Int × Nat × Nat) (w : Nat) : Nat :=
  match l.find? (fun x => decide (x.1 ≤ at_.1) && decide (at_.1 < x.1 + x.2.size)) with
  | some x => Sys2Proof.bits (leNat ((List.range at_.2.1).map (fun k => x.2.getD ((at_.1 - x.1).toNat + k) 0))) at_.2.2 w
  | none => 0

/-- One element to be written: where, its width, its bits. -/
structure Put where
  at_ : Int × Nat × Nat
  w : Nat
  x : Nat
deriving DecidableEq, Repr

/-- A destination index and its bits as a write; the element that ends a packed run writes the fill bits after it as zero
(R130). -/
def LDesc.put (d : LDesc) (ix : List Nat) (x : Nat) : Put :=
  let e := d.dstAt ix
  let last := ix.getD 0 0 + 1 == d.ds.getD 0 1 && d.dst_.getD 0 0 == 0
  ⟨e, if last then 8 * e.2.1 - e.2.2 else d.dw, x⟩

/-- The writes of a unit: its values, its scale bytes, and whether its scale is NaN. -/
def LDesc.unitPuts (d : LDesc) (src scales : Staged) (places : List Nat × List Nat × Array Nat) (u : Nat) : List Put × List Put × Bool :=
  let ix := d.unitIx places.2.2 u
  let raw (i : Option (List Nat)) : Nat := match i with | some j => src.bits (d.srcAt j) d.sw | none => 0
  let bytes (n v : Nat) (at_ : Int) : Put := ⟨(at_, n, 0), 8 * n, v⟩
  match d.op with
  | 2 =>
    let q := quantBlock d.df d.sfmt d.rnd d.sat (ix.1.map (fun i => (decodeNum d.sf (raw i), 0)))
    ((ix.2.zip q.2).map (fun e => d.put e.1 e.2.bits), [bytes 1 q.1 (d.dstScale + u)], q.1 == (if d.sfmt then 0x7F else 0xFF))
  | 3 =>
    let sc := decodeScale d.sfmt (scales.bits ((d.srcScale : Int) + d.scaleAt u, 1, 0) 8)
    ((ix.2.zip ix.1).map (fun e => d.put e.1 (convert d.df d.rnd d.sat 0 ((decodeNum d.sf (raw e.2)).mul sc)).bits), [], false)
  | 4 =>
    let j := u - 2 * d.elems
    ((ix.2.zip ix.1).map (fun e => d.put e.1 (raw e.2)),
      if u < 2 * d.elems then [] else [bytes 4 ((places.1 ++ places.2.1).getD j 0) (d.dstScale + 4 * j)], false)
  | _ =>
    let conv (x : Num) : Nat := (convert d.df d.rnd d.sat 0 x).bits
    ((ix.2.zip ix.1).map (fun e => d.put e.1 (match e.2 with
      | some _ => if d.op = 1 then conv (decodeNum d.sf (raw e.2)) else raw e.2
      | none => if d.op = 1 then conv (decodeNum 0 d.fill) else d.fill % 2 ^ d.dw)), [], false)

/-- Destination runs being filled: each byte's value and which of its bits are written. -/
abbrev Filling := List (Int × Array (Nat × Nat))

/-- One element put into its run. -/
def Put.into (p : Put) : Filling → Filling
  | [] => []
  | (lo, a) :: r =>
    if lo ≤ p.at_.1 then
      let v := p.x % 2 ^ p.w * 2 ^ p.at_.2.2
      let m := (2 ^ p.w - 1) * 2 ^ p.at_.2.2
      (lo, (List.range p.at_.2.1).foldl (fun (b : Array (Nat × Nat)) k =>
        b.modify ((p.at_.1 - lo).toNat + k) (fun o =>
          ((o.1 ^^^ (o.1 &&& bits m (8 * k) 8)) ||| bits v (8 * k) 8, o.2 ||| bits m (8 * k) 8))) a) :: r
    else (lo, a) :: Put.into p r

/-- Write the runs of a destination, in ascending order, each in accesses of at most 128 B; bits of a byte that are not
written keep what memory holds. -/
def unstage (die : Die) (part : Nat) : Filling → State → State × Option LayStop
  | [], s => (s, none)
  | (lo, a) :: r, s =>
    let b := ((List.range a.size).zip a.toList).map (fun e =>
      BitVec.ofNat 8 (if e.2.2 = 255 then e.2.1 else e.2.1 + (s.layPeek die part (va64 (lo + e.1)) &&& (255 - e.2.2))))
    match layWrite die part (runPieces lo (lo + a.size)) b s with
    | (t, none) => unstage die part r t
    | x => x

/-- The runs of a destination filled with the elements put. -/
def fillRuns (r : Runs) (puts : List Put) : Filling :=
  (puts.foldl (fun f p => p.into f) (r.map (fun x => (x.1, Array.replicate (x.2 - x.1).toNat (0, 0))))).reverse

/-- The bytes of keys among the bytes that a bucket descriptor's slice has read for them. -/
def LDesc.keyBytes (d : LDesc) (src : Staged) (u k : Nat) : List Nat :=
  let len := d.ss.getD 0 1
  ((List.range k).filter (fun i => decide (u + i < d.elems) && decide (d.keyOff ≤ (u + i) % len) && decide ((u + i) % len < d.keyOff + 4))).map
    (fun i => src.bits (d.srcAt [(u + i) % len, (u + i) / len]) 8)

/-- Buckets of the rows whose keys' bytes have been read. -/
def LDesc.bucketsOf (d : LDesc) (keys : List Nat) : List Nat :=
  (chunks 4 keys.length keys).map (fun b => d.bucket (leNat (b.map (BitVec.ofNat 8))))

/-- What is left of a slice once its destination is known: its source is read into the staging buffer, each byte once, and its
destination bytes are written. -/
def laySteps (die : Die) (part : Nat) (x : LayoutDesc) (p : Slab) (places : List Nat × List Nat × Array Nat) (s : State) :
    LayoutDesc × State × Option LayStop :=
  let d := lDesc x.bytes
  match stage die part p.srcSc.reverse s with
  | (t, .inl e) => (x, t, some e)
  | (t, .inr scales) =>
    match stage die part p.src.reverse t with
    | (t1, .inl e) => (x, t1, some e)
    | (t1, .inr src) =>
      let out := (List.range p.k).map (fun i => d.unitPuts src scales places (x.pos + i))
      match unstage die part (fillRuns p.dst (out.flatMap (·.1))) t1 with
      | (t2, some e) => (x, t2, some e)
      | (t2, none) =>
        match unstage die part (fillRuns p.dstSc (out.flatMap (·.2.1))) t2 with
        | (t3, some e) => (x, t3, some e)
        | (t3, none) =>
          ({ x with pos := x.pos + p.k, keys := x.keys ++ (if d.op = 4 then d.keyBytes src x.pos p.k else []) },
            t3.bump (layoutPage die) 0x058 32 (out.filter (·.2.2)).length, none)

/-- One slice of a descriptor (R145); what it leaves of the descriptor, the state, and why it stopped. A bucket descriptor's
destination rows follow from its keys: the slice that reads the last of them goes on, within its limits, with the first bytes
moved. -/
def laySlice (die : Die) (part : Nat) (x : LayoutDesc) (s : State) : LayoutDesc × State × Option LayStop :=
  let d := lDesc x.bytes
  let placesOf (y : LayoutDesc) : List Nat × List Nat × Array Nat :=
    if d.op = 4 ∧ d.elems ≤ y.pos then placeRows d.kbits (d.bucketsOf y.keys) else ([], [], #[])
  let first := placesOf x
  let p := d.slab first.2.2 (if d.op = 4 ∧ x.pos < d.elems then d.elems else d.units) (2 ^ 20) x.pos Slab.none
  match laySteps die part x p first s with
  | (y, t, none) =>
    if d.op = 4 ∧ x.pos < d.elems ∧ y.pos = d.elems then
      let places := placesOf y
      let q := d.slab places.2.2 d.units (2 ^ 20) y.pos { p with src := [], k := p.k }
      if q.k = p.k then (y, t, none) else laySteps die part y { q with k := q.k - p.k } places t
    else (y, t, none)
  | r => r

/-! ### The queue -/

def State.layQueue (s : State) (d : Die) : List LayoutDesc := (s.layout.get d).queue
def State.setLayQueue (s : State) (d : Die) (q : List LayoutDesc) : State :=
  { s with layout := s.layout.set d { s.layout.get d with queue := q } }

/-- The descriptor at the front of a partition's queue. -/
def State.layFront (s : State) (d : Die) (part : Nat) : Option LayoutDesc := (s.layQueue d).find? (fun x => x.part == part)
def State.setLayFront (s : State) (d : Die) (x : LayoutDesc) : State :=
  s.setLayQueue d (replaceFirst (fun y => y.part == x.part) (fun _ => x) (s.layQueue d))

/-- A partition may queue another descriptor (R137, R148). -/
def State.layRoom (s : State) (d : Die) (part : Nat) : Bool :=
  decide (((s.layQueue d).filter (fun x => x.part == part)).length < s.fld (layoutPage d + 0x108) (4 * part) 4) &&
    decide ((s.layQueue d).length < 64)

/-- LAYOUT_DESCRIPTOR_CHECK: the descriptor at the front of its partition's queue is checked; a rejected one goes
straight to its completion (R140, R141). -/
def execLayoutDescriptorCheck (die : Die) (part : Nat) (s : State) : Host.Outcome State Fault Refusal :=
  commit s (
    match s.layFront die part with
    | none => s
    | some x =>
      if x.checked || x.result.isSome || x.cancelled then s
      else
        match (lDesc x.bytes).badFields with
        | [] => s.setLayFront die { x with checked := true, readyAt := s.now }
        | f :: r => s.setLayFront die { x with checked := true, readyAt := s.now, result := some (1, r.foldl Nat.min f, 0) })

/-- A descriptor that can run a slice. -/
def LayoutDesc.runs (x : LayoutDesc) : Bool := x.checked && x.result.isNone && !x.cancelled

/-- The front descriptor of a partition is one that can run. -/
def State.layReady (s : State) (d : Die) (p : Nat) : Bool := match s.layFront d p with | some x => x.runs | none => false

/-- The partition whose slice comes next (R143). -/
def State.layNext (s : State) (d : Die) : Option Nat := nextRound (s.layout.get d).last ((List.range 16).filter (s.layReady d))

/-- A slice of partition `p` has ended and left its descriptor as `y`; the partitions that waited meanwhile are charged
(R143, R358). -/
def State.laySliced (s : State) (d : Die) (p : Nat) (y : LayoutDesc) : State :=
  let since := (s.layout.get d).lastEnd
  let t : State := { s with layout := s.layout.set d { s.layout.get d with last := p, lastEnd := s.now } }
  (List.range 16).foldl (fun (v : State) q =>
    if q = p then v
    else
      match v.layFront d q with
      | some z => if z.runs then v.bump (schedPage d) (partOff q + 0x38) 64 (v.now - Nat.max since z.readyAt) else v
      | none => v) (t.setLayFront d y)

/-- LAYOUT_SLICE: the engine passes round-robin to the next partition with a descriptor and runs one slice of it; a
status other than 0 stops the descriptor and is recorded (R141 to R145). -/
def execLayoutSlice (die : Die) (s : State) : Host.Outcome State Fault Refusal :=
  commit s (
    match s.layNext die with
    | none => s
    | some p =>
      match s.layFront die p with
      | none => s
      | some x =>
        match laySlice die p x s with
        | (_, _, some (.held w)) => match w with | some e => s.wakeDie e | none => s
        | (y, t, some (.status st va)) =>
          (t.raise (layoutPage die) 0x030E (some p) va st false false).laySliced die p { y with result := some (st, 0, w64 va) }
        | (y, t, none) =>
          t.laySliced die p (if (lDesc x.bytes).units ≤ y.pos then { y with result := some (0, 0, 0) } else y))

/-- The 32 B completion record (R142). -/
def layRecord (st detail : Nat) (arg : Word) (now tag : Nat) : List Byte :=
  leBytes 4 st ++ leBytes 4 detail ++ leBytes 8 arg.toNat ++ leBytes 8 now ++ leBytes 8 tag

/-- LAYOUT_CANCEL.go reads 1 until every affected descriptor has completed. -/
def State.layGo (s : State) (d : Die) : State :=
  s.setFlag (layoutPage d + 0x104) 4 ((s.layQueue d).any (·.cancelled))

/-- The partition's first descriptor that has finished, was rejected or is cancelled. A cancelled one completes although an
earlier one of its partition still runs (R147). -/
def State.layEnded (s : State) (d : Die) (part : Nat) : Option LayoutDesc :=
  (s.layQueue d).find? (fun x => x.part == part && (x.result.isSome || x.cancelled))

/-- How a descriptor ended: status, detail and argument (R141, R147). -/
def LayoutDesc.outcome (x : LayoutDesc) : Option (Nat × Nat × Word) :=
  match x.result with | some y => some y | none => if x.cancelled then some (5, 0, 0) else none

/-- A descriptor's completion: its record is written, its counter advances, and its end is counted (R142, R148, R358). Of a
copy of its own Quiley learns the end itself (R214). -/
def State.layFinish (s : State) (die : Die) (x : LayoutDesc) (st detail : Nat) (arg : Word) : State :=
  let s1 := s.stir.setLayQueue die ((s.layQueue die).erase x)
  let s2 := match x.moved with
    | none => ((s1.wakeAt x.statusPa).homeWrite x.part x.statusPa (layRecord st detail arg s.now (lDesc x.bytes).tag)).1
    | some m => { s1 with quiley := { s1.quiley with landed := s1.quiley.landed ++ [(m, st)] } }
  let s3 := match x.donePa with | some a => s2.countUp x.part a | none => s2
  let s4 := s3.bump (layoutPage die) (if st = 0 then 0x050 else 0x054) 32 1
  (s4.bump (schedPage die) (partOff x.part + 0x30) 32 1).layGo die

/-- The first descriptor of a partition that has ended completes. -/
def State.layComplete (s : State) (die : Die) (part : Nat) : State :=
  match s.layEnded die part with
  | none => s
  | some x =>
    match x.outcome with
    | none => s
    | some r => s.layFinish die x r.1 r.2.1 r.2.2

/-- Descriptors of a partition that a cancel affects stop at their next slice boundary (R147). -/
def State.layCancel (s : State) (d : Die) (part : Nat) (tag : Option Nat) : State :=
  s.setLayQueue d ((s.layQueue d).map (fun x =>
    if x.part == part && x.result.isNone && (match tag with | some t => (lDesc x.bytes).tag == t | none => true)
    then { x with cancelled := true } else x))

/-- LAYOUT_CANCEL: ignored while go reads 1 (R147, R148). -/
def writeLayoutCancel (who : Who) (d : Die) (v : Word) (s : State) : Written :=
  rootOnly who (fun t =>
    let a := layoutPage d + 0x104
    if t.flag a 4 then written t
    else
      let t1 := t.setReg a (w64 (v.toNat % 64 - 16 * bits v.toNat 4 1))
      if !bit v.toNat 4 then written t1
      else
        let tag := if bit v.toNat 5 then some (t1.reg (layoutPage d + 0x110)).toNat else none
        written ((t1.layCancel d (v.toNat % 16) tag).layGo d)) s

def execLayoutCancel (who : Who) (die : Die) (value : Word) (s : State) : Host.Outcome State Fault Refusal :=
  commit s (crossed who (layoutPage die + 0x104) 4 value (writeLayoutCancel who die value) s)

/-- LAYOUT_QLIMIT: limits that sum to more than 64 leave it. R148 names the SCC beside partition 0 for LAYOUT_CANCEL and
LAYOUT_CANCEL_TAG alone, and a register's own statement governs (R431). -/
def writeLayoutQlimit (who : Who) (d : Die) (v : Word) (s : State) : Written :=
  if who.isScc then denied s else rootRwl who (layoutPage d) (fun t => if 64 < nibbleSum v.toNat then t else (t.setReg (layoutPage d + 0x108) v).noteUnmodelled none) s

def execLayoutQlimitWrite (who : Who) (die : Die) (value : Word) (s : State) : Host.Outcome State Fault Refusal :=
  commit s (crossed who (layoutPage die + 0x108) 8 value (writeLayoutQlimit who die value) s)

end Sys2Proof.Machine
end

