-- ==== Sys2Proof/Machine/Store.lean ====
section
/-!
DEFINITION. The configuration store (R403 to R405), the repair map it carries (R271), and the fused security versions
(R407, R409).
-/
namespace Sys2Proof.Machine

/-! ### Copies -/

/-- A copy of an area: 0 data, 1 firmware; copy 0 A, 1 B. -/
def Store.copy (x : Store) (area c : Nat) : StoreCopy :=
  if area = 0 then (if c = 0 then x.dataA else x.dataB) else (if c = 0 then x.fwA else x.fwB)

def Store.setCopy (x : Store) (area c : Nat) (y : StoreCopy) : Store :=
  if area = 0 then (if c = 0 then { x with dataA := y } else { x with dataB := y })
  else (if c = 0 then { x with fwA := y } else { x with fwB := y })

def Store.used (x : Store) (area : Nat) : Nat := boolNat (if area = 0 then x.dataUse else x.fwUse)

/-- A copy is valid when its commit holds and its crc matches (R403). -/
def StoreCopy.valid (c : StoreCopy) : Bool := c.committed && c.crcOk

/-- The copy an area uses at boot: the valid one with the higher sequence; none where neither is valid (R403). -/
def Store.bootCopy (x : Store) (area : Nat) : Option Nat :=
  let a := x.copy area 0
  let b := x.copy area 1
  if a.valid && b.valid then some (if a.sequence < b.sequence then 1 else 0)
  else if a.valid then some 0
  else if b.valid then some 1
  else none

def State.withStore (s : State) (x : Store) : State := { s with store := x }

/-- The copy a write goes to: never the one in use; else the invalid one, or the one with the lower sequence (R404). -/
def Store.target (x : Store) (area : Nat) : Nat :=
  if (x.copy area (x.used area)).valid then 1 - x.used area
  else if !(x.copy area 0).valid then 0
  else if !(x.copy area 1).valid then 1
  else if (x.copy area 0).sequence ≤ (x.copy area 1).sequence then 0 else 1

/-! ### The repair map in force -/

/-- What the map holds of a stack: nothing, where nothing has been repaired. -/
def Stack.repairs (n : Nat) (k : Stack) : Option StackRepair :=
  let lost := k.unavailable.filter (fun i => (k.nbuRetired.filter (fun e => e.1 == i / 32)).length > 0)
  if k.nbuRetired.isEmpty && k.rowsUsed.isEmpty && k.vcUsed.isEmpty && k.retiredGranules.isEmpty then none
  else some ⟨n, k.nbuRetired, lost, k.rowsUsed, k.rowsReplaced, k.vcUsed, k.retiredGranules⟩

/-- The repair map as it stands (R271). -/
def State.repairMap (s : State) : RepairMap :=
  ⟨(List.range 16).filterMap (fun n => (s.stack n).repairs n), s.roles,
    (List.range 24).filterMap (fun p =>
      let r := portPage p + 0x104
      if s.flag r 3 then some (p, s.fld r 4 4) else none)⟩

/-! ### Writes -/

/-- A write begins: it carries the state as it stands now (R404). -/
def State.storeBegin (s : State) (area : Nat) : State :=
  let x := s.store
  let u := x.copy area (x.used area)
  let id := match x.persistId with | some i => some i | none => u.moduleId
  let w : StoreWrite := ⟨area, x.target area, 0, id, s.repairMap, u.hkVer, u.sccVer⟩
  let y := if area = 0 then { x with writing := some w, pendingData := false, persistId := none }
    else { x with writing := some w, pendingFw := false }
  { s with store := y }

/-- A write of the area waits. -/
def Store.queueWrite (x : Store) (area : Nat) : Store :=
  if area = 0 then { x with pendingData := true } else { x with pendingFw := true }

/-- A write is requested: it begins, or is merged into the one that waits (R404). -/
def State.storeRequest (s : State) (area : Nat) : State :=
  match s.store.writing with
  | none => s.storeBegin area
  | some _ => s.withStore (s.store.queueWrite area)

def State.cfgstPage (s : State) : Nat := pg s.active Blk.cfgst 0

/-- The die diode of the active die reads between 0 °C and 90 °C (R405). -/
def State.storeWarm (s : State) : Bool :=
  let t := (s.hk.get s.active).diodeNow
  decide (0 ≤ t) && decide (t ≤ 90 * 16)

/-- The fused counts raised to the versions now running (R407); never lowered. -/
def State.burnSvn (s : State) : State :=
  { s with
    fuses := { s.fuses with
      hkSvn := Nat.max s.fuses.hkSvn (Nat.min s.store.runHk 64)
      sccSvn := Nat.max s.fuses.sccSvn (Nat.min s.store.runScc 64) }
    store := { s.store with svnWaiting := false } }

/-- A firmware component may be committed: every component received has been verified (R423). -/
def State.mayCommit (s : State) (w : StoreWrite) : Bool := w.area == 0 || s.host.verified

/-- CFG_STORE_WRITE: a write of an area is requested (R404). -/
def execCfgStoreWrite (area : Nat) (s : State) : Host.Outcome State Fault Refusal :=
  commit s (if 1 < area then s else s.storeRequest area)

/-- The copy after the next operation of a write: erased; its body; its header and crc; its commit (R403, R404). -/
def Store.afterOp (x : Store) (w : StoreWrite) : StoreCopy :=
  match w.ops with
  | 0 => { StoreCopy.empty with sequence := 0 }
  | 1 => { StoreCopy.empty with moduleId := w.moduleId, repairs := w.repairs, hkVer := w.hkVer, sccVer := w.sccVer }
  | 2 => { x.copy w.area w.copy with sequence := (x.copy w.area (x.used w.area)).sequence + 1, crcOk := true }
  | _ => { x.copy w.area w.copy with committed := true, hkVer := w.hkVer, sccVer := w.sccVer }

/-- The operation is done to the copy not in use. -/
def Store.runOp (x : Store) (w : StoreWrite) : Store :=
  { x.setCopy w.area w.copy (x.afterOp w) with writing := some { w with ops := w.ops + 1 } }

/-- CFGST_STATUS bit 1: an operation is held for the temperature (R405). -/
def State.holdStore (s : State) (on : Bool) : State := s.setFlag (s.cfgstPage + 0x100) 1 on

/-- What runs while the diode is in range: a fuse programming that waits first, else the next operation of the write. -/
def State.storeOp (s : State) : State :=
  if s.store.svnWaiting then s.burnSvn
  else
    match s.store.writing with
    | none => s
    | some w => if 4 ≤ w.ops ∨ (w.ops = 3 ∧ !s.mayCommit w) then s else s.withStore (s.store.runOp w)

/-- CFG_STORE_OP: the next erase or program operation, or a fuse programming that waits, runs while the diode is in range,
and is held otherwise (R405). The operations of a write are the erase, the body, the header and the commit. -/
def execCfgStoreOp (s : State) : Host.Outcome State Fault Refusal :=
  commit s (
    if s.storeWarm then (s.holdStore false).storeOp
    else if s.store.writing.isSome || s.store.svnWaiting then s.holdStore true
    else s)

/-- The write that waits begins (R404). -/
def State.storeNext (s : State) : State :=
  if s.store.pendingData then s.storeBegin 0 else if s.store.pendingFw then s.storeBegin 1 else s

/-- No write runs; a data copy just written is the one in use, and a firmware copy waits for the next boot. -/
def Store.written (x : Store) (w : StoreWrite) : Store :=
  { x with writing := none, dataUse := if w.area = 0 then w.copy == 1 else x.dataUse }

/-- The commit of a write is programmed, and the merged write begins (R404). -/
def State.storeEnds (s : State) (w : StoreWrite) : State := ((s.withStore (s.store.written w)).bump s.cfgstPage 0x040 32 1).storeNext

/-- The fuse programming waits. -/
def Store.queueSvn (x : Store) : Store := { x with svnWaiting := true }

/-- CFGST_SVN_COMMIT: go raises both counts, under the temperature rule (R407, R409). -/
def writeSvnCommit (who : Who) (v : Word) (s : State) : Written :=
  rootOnly who (fun t =>
    if !bit v.toNat 0 then written t
    else if t.storeWarm then written t.burnSvn
    else written ((t.withStore t.store.queueSvn).holdStore true)) s

def execCfgstSvnCommit (who : Who) (value : Word) (s : State) : Host.Outcome State Fault Refusal :=
  commit s (writeSvnCommit who value s).1

end Sys2Proof.Machine
end

