-- ==== Sys2Proof/Machine/Integrity.lean ====
section
/-!
DEFINITION. Scrubbing (R265 to R267), error injection (R268), repair (R270 to R276), the ordering of maintenance (R277 to
R279), the bridge (R24) and the waking of domains (R34).
-/
namespace Sys2Proof.Machine

/-! ### Resources (R278) -/

/-- A resource holds another inside it, or is it. -/
def resHolds (a b : Resource) : Bool :=
  a == b ||
  (match a, b with
   | .stack s, .dramDie t _ => s == t
   | .stack s, .bankPair t _ => s == t
   | .dramDie s d, .bankPair t n => s == t && n / 32 == d
   | _, _ => false)

/-- What an activity holds while it runs. -/
def Activity.holds : Activity → Resource
  | .rowRepair n o => .bankPair n (nbuOf o)
  | .nbuSwap n u => .dramDie n (u / 32)
  | .vcSwap n g _ => .connGroup n g
  | .coreRetire d p => .core d p
  | .stackRefresh n _ => .stack n
  | .rvrRefresh c _ => .controller c
  | .scrub r => r
  | .calibration r => r

/-- Repair, then refresh-rate change, then scrub, then calibration (R278). -/
def Activity.urgency : Activity → Nat
  | .rowRepair _ _ => 0
  | .nbuSwap _ _ => 0
  | .vcSwap _ _ _ => 0
  | .coreRetire _ _ => 0
  | .stackRefresh _ _ => 1
  | .rvrRefresh _ _ => 1
  | .scrub _ => 2
  | .calibration _ => 3

/-- The pairs of R279 that are unsafe together though their resources differ. -/
def Activity.unsuited (a b : Activity) : Bool :=
  match a, b with
  | .vcSwap n _ _, .calibration (.phy m) => n == m
  | .calibration (.phy m), .vcSwap n _ _ => n == m
  | .coreRetire d _, .coreRetire e _ => d == e
  | _, _ => false

def Activity.meets (a b : Activity) : Bool := resHolds a.holds b.holds || resHolds b.holds a.holds || a.unsuited b

/-- No activity that runs stands in the way. -/
def State.freeFor (s : State) (a : Activity) : Bool := !s.maint.any (fun m => m.running && m.act != a && m.act.meets a)

def State.dropMaint (s : State) (a : Activity) : State := { s with maint := s.maint.filter (fun m => m.act != a) }

/-! ### Repairs of a stack -/

/-- The NBUs of a test have no accepted slice (R178, R273). -/
def State.noSlice (s : State) (n : Nat) (p : Nat → Bool) : Bool := !(s.stack n).cmds.any (fun c => c.slices.any (fun x => p x.nbu))

/-- A repair has its gap. -/
def State.hasGap (s : State) : Activity → Bool
  | .rowRepair n o => s.noSlice n (fun u => u == nbuOf o)
  | .nbuSwap n u => s.noSlice n (fun x => x / 32 == u / 32)
  | .vcSwap _ _ _ => true
  | _ => false

/-- A repair of the map has completed: it is counted, and the map is to be written (R271, R280). -/
def State.repaired (s : State) (n : Nat) : State := (s.bump (scrubStackPage n) 0x058 32 1).storeRequest 0

/-- An address lies in a row of a stack. -/
def inRow (n row k : Nat) : Bool :=
  decide (stackBase n ≤ k) && decide (k < stackBase n + 0x1000000000) && bankRow (k - stackBase n) == row

/-- The units of a row as its copy holds them: corrected, or poison; those that the copy is the first to find uncorrectable are
counted (R272, R280). -/
def State.copyRow (s : State) (n row : Nat) : State :=
  let new := (s.units.filter (fun e => inRow n row e.1 && e.2.uncorr && !e.2.found)).length
  ({ s with units := mmap UnitState.sound (fun k u =>
      if inRow n row k then
        (if u.bad then { u with corr := false, uncorr := false, poison := true, found := true } else UnitState.sound)
      else u) s.units } : State).bump (scrubStackPage n) 0x048 32 new

/-- A row repair: the row moves to a spare, or its granule is retired where the bank has none left (R270, R272). -/
def State.repairRow (s : State) (n row : Nat) : State :=
  let k := s.stack n
  let bank := bankOf row
  if k.rowsReplaced.contains (bank, slotOf row) then s
  else if 16 ≤ mget 0 k.rowsUsed bank then
    let g := row / 2 ^ 20
    ((s.setStack n { k with retiredGranules := if k.retiredGranules.contains g then k.retiredGranules else k.retiredGranules ++ [g] }).raise
      (scrubStackPage n) 0x0307 none (g * 2 ^ 20) 0 false false).storeRequest 0
  else
    ((s.setStack n { k with rowsUsed := mset 0 k.rowsUsed bank (mget 0 k.rowsUsed bank + 1),
                            rowsReplaced := k.rowsReplaced ++ [(bank, slotOf row)] }).copyRow n row).repaired n

/-- An NBU swap: the spare of its DRAM die takes over, or the index stays unavailable where the spare is in use (R158,
R273). -/
def State.swapNbu (s : State) (n u : Nat) : State :=
  let k := s.stack n
  if mget 0 k.nbuRetired (u / 32) = u % 32 + 1 ∧ !k.unavailable.contains u then s
  else if mget 0 k.nbuRetired (u / 32) = 0 then
    (s.setStack n { k with nbuRetired := mset 0 k.nbuRetired (u / 32) (u % 32 + 1), unavailable := k.unavailable.erase u }).repaired n
  else
    (s.setStack n { k with unavailable := if k.unavailable.contains u then k.unavailable else k.unavailable ++ [u] }).storeRequest 0

/-- Spare connections of a group in use. -/
def Stack.vcOf (k : Stack) (g : Nat) : Nat := (k.vcUsed.filter (fun e => e.1 / 256 == g)).length

/-- A vertical-connection swap; with no spare left a record is written (R270, R274). -/
def State.swapVc (s : State) (n g c : Nat) : State :=
  let k := s.stack n
  if mget 0 k.vcUsed (g * 256 + c) = 1 then s
  else if 4 ≤ k.vcOf g then s.raise (scrubStackPage n) 0x0308 none g 0 false false
  else (s.setStack n { k with vcUsed := mset 0 k.vcUsed (g * 256 + c) 1 }).repaired n

/-- A repair runs to its end. -/
def State.doRepair (s : State) (a : Activity) : State :=
  let t := s.dropMaint a
  match a with
  | .rowRepair n o => t.repairRow n o
  | .nbuSwap n u => t.swapNbu n u
  | .vcSwap n g c => t.swapVc n g c
  | _ => t

/-- Row repairs of a stack, swaps of a DRAM die's NBUs, swaps of a connection group. -/
def Activity.isRowOf (n : Nat) : Activity → Bool | .rowRepair m _ => m == n | _ => false
def Activity.isSwapOf (n d : Nat) : Activity → Bool | .nbuSwap m u => m == n && u / 32 == d | _ => false
def Activity.isVcOf (n g : Nat) : Activity → Bool | .vcSwap m h _ => m == n && h == g | _ => false

/-! ### Core retirement (R276) -/

/-- The partitions that name a core latch an event that the admission model does not cover (R362). -/
def State.noteCore (s : State) (d : Die) (c : Nat) : State :=
  ((List.range 16).filter (fun p => s.partOn p && s.namesCore p d c)).foldl (fun t p => t.noteUnmodelled (some p)) s

/-- Retirement begins: the core takes no new context, and its strands are asked to park. -/
def State.beginRetire (s : State) (d : Die) (phys : Nat) : State :=
  match (s.role d phys).logical with
  | none => s
  | some c =>
    let s1 := (s.noteCore d c).setCore d c { (s.noteCore d c).core d c with retiring := true }
    (List.range 8).foldl (fun t i =>
      match t.strand (strandKey d c i) with
      | some x => if x.active then t.setStrand (strandKey d c i) { x with parkAsked := true, parkedFor := none } else t
      | none => t) s1

/-- Waiting refresh-rate changes, core retirements and calibrations that nothing stands in the way of begin, most urgent first, in
order of arrival, and none in Calm (R392); what is less urgent than a repair stands back for one on its resource that has its gap (R278). -/
def State.startMaint (s : State) : State :=
  let starts (u : Nat) (t : State) : State :=
    t.maint.foldl (fun v m =>
      let able : Bool := match m.act with
        | .coreRetire _ _ => true
        | .stackRefresh _ _ => true
        | .rvrRefresh _ _ => true
        | .calibration _ => true
        | _ => false
      let yields := 1 ≤ u && v.maint.any (fun y => !y.running && y.act.urgency == 0 && v.hasGap y.act && y.act.meets m.act)
      if !m.running && able && m.act.urgency == u && v.freeFor m.act && !yields && !v.inCalm then
        let w : State := { v with maint := v.maint.map (fun y => if y.act == m.act then { y with running := true } else y) }
        match m.act with
        | .coreRetire d p => w.beginRetire d p
        | _ => w
      else v) t
  starts 3 (starts 1 (starts 0 s))

/-- The first waiting activity that a test picks, that has its gap, and in whose way nothing stands (R278); none runs in Calm
(R388, R392). -/
def State.nextRepair (s : State) (p : Activity → Bool) : Option Maint :=
  if s.inCalm then none
  else s.maint.find? (fun m => !m.running && p m.act && s.hasGap m.act && s.freeFor m.act)

/-- That activity runs. -/
def State.runFirst (s : State) (p : Activity → Bool) : State :=
  match s.nextRepair p with
  | some m => (s.doRepair m.act).startMaint
  | none => s

/-- A safe point on a resource: the repairs that wait for it and have their gap run, then what waits begins (R278). -/
def State.safePoint (s : State) (r : Resource) : State :=
  let on (a : Activity) : Bool := resHolds r a.holds || resHolds a.holds r
  ((s.maint.filter (fun m => on m.act)).foldl (fun t _ => t.runFirst on) s).startMaint

/-! ### Requests and runs -/

/-- ROW_REPAIR_REQUEST (R272). -/
def execRowRepairRequest (stack off : Nat) (s : State) : Host.Outcome State Fault Refusal :=
  commit s (if 16 ≤ stack ∨ s.stackBytes ≤ off then s else s.askMaint (.rowRepair stack (bankRow off)))

/-- ROW_REPAIR_RUN: the first waiting row repair of the stack whose pair has no accepted slice (R272). -/
def execRowRepairRun (stack : Nat) (s : State) : Host.Outcome State Fault Refusal :=
  commit s (s.runFirst (Activity.isRowOf stack))

/-- NBU_SWAP_REQUEST (R273). -/
def execNbuSwapRequest (stack nbu : Nat) (s : State) : Host.Outcome State Fault Refusal :=
  commit s (if 16 ≤ stack ∨ 512 ≤ nbu then s else s.askMaint (.nbuSwap stack nbu))

/-- NBU_SWAP_RUN: the first waiting swap of the DRAM die, once none of its NBUs has an accepted slice (R273). -/
def execNbuSwapRun (stack dramDie : Nat) (s : State) : Host.Outcome State Fault Refusal :=
  commit s (s.runFirst (Activity.isSwapOf stack dramDie))

/-- VC_SWAP_REQUEST (R274). -/
def execVcSwapRequest (stack group conn : Nat) (s : State) : Host.Outcome State Fault Refusal :=
  commit s (if 16 ≤ stack ∨ 32 ≤ group ∨ 256 ≤ conn then s else s.askMaint (.vcSwap stack group conn))

/-- VC_SWAP_RUN (R274). -/
def execVcSwapRun (stack group : Nat) (s : State) : Host.Outcome State Fault Refusal :=
  commit s (s.runFirst (Activity.isVcOf stack group))

/-- Where a repair stands: its half, and the stack offset its records name (log 20). -/
def Activity.offset : Activity → Nat
  | .rowRepair _ o => o
  | .nbuSwap _ u => (u / 256) * 2 ^ 20 + (u % 32) * 2 ^ 11 + (u / 32 % 8) * 2 ^ 8
  | _ => 0

/-- A repair of a busy half has waited its time and finds no gap (R275). -/
def Maint.starves (s : State) (stack : Nat) (m : Maint) : Bool :=
  match m.act with
  | .rowRepair n o => n == stack && s.halfMode n (halfOf o) && !m.running && !m.starved && !s.hasGap m.act
  | .nbuSwap n u => n == stack && s.halfMode n (u / 256) && !m.running && !m.starved && !s.hasGap m.act
  | _ => false

/-- A repair that has waited its time is recorded and marked (R275). -/
def State.starve (s : State) (stack : Nat) (m : Maint) : State :=
  let t := s.raise (scrubStackPage stack) 0x0309 none m.act.offset ((s.now - m.at_) / 1000000) false false
  { t with maint := t.maint.map (fun y => if y.act == m.act then { y with starved := true } else y) }

/-- Quiley holds the Shared commands of a half (R336). -/
def State.holdHalf (s : State) (h : Nat) : State :=
  if !s.quiley.running || s.quiley.repairHold.any (fun e => e.1 == h) then s
  else { s with quiley := { s.quiley with repairHold := s.quiley.repairHold ++ [(h, s.now)] } }

/-- The instant a repair's wait ends: wait_ms after it was asked for (R275). -/
def State.starveAt (s : State) (stack : Nat) (m : Maint) : Nat := m.at_ + s.fld (scrubStackPage stack + 0x108) 8 8 * 1000000

/-- REPAIR_STARVED: wait_ms has passed for the oldest repair without a gap: the record, and Quiley's hold on the half's
Shared commands (R275, R336). -/
def execRepairStarved (stack : Nat) (s : State) : Host.Outcome State Fault Refusal :=
  commit s (
    match s.maint.find? (fun m => m.starves s stack) with
    | none => s
    | some m => ((s.carry (s.starveAt stack m)).starve stack m).holdHalf (stack * 2 + halfOf m.act.offset))

/-- A scrub or calibration that runs on a resource ends at its safe point (R278). -/
def State.endRuns (s : State) (r : Resource) : State :=
  { s with maint := s.maint.filter (fun m => !(m.running && decide (2 ≤ m.act.urgency) && m.act.holds == r)) }

/-- MAINT_SAFE_POINT: the scrub or calibration that runs on the resource has reached its safe point, and the most urgent
waiting activity runs next (R278). -/
def execMaintSafePoint (res : Resource) (s : State) : Host.Outcome State Fault Refusal :=
  commit s ((s.endRuns res).safePoint res)

/-- The refresh-rate change that runs on a resource. -/
def State.rateChange (s : State) (r : Resource) : Option Maint :=
  s.maint.find? (fun m => m.running && m.act.urgency == 1 && m.act.holds == r)

/-- A refresh rate is in force (R178, R253). -/
def State.setRate (s : State) : Activity → State
  | .stackRefresh n r => s.setFld (stackPage n + 0x05C) 0 2 r
  | .rvrRefresh c r => s.setFld (rvrPage c + 0x104) 3 2 r
  | _ => s

/-- REFRESH_WINDOW_END: a refresh window of a stack or controller ends, and the rate asked for is in force (R253, R278). -/
def execRefreshWindowEnd (res : Resource) (s : State) : Host.Outcome State Fault Refusal :=
  commit s (
    match s.rateChange res with
    | none => s
    | some m => ((s.setRate m.act).dropMaint m.act).safePoint res)

/-- A request for a refresh rate; one for the rate in force asks for nothing (R178, R253). -/
def State.askRefresh (s : State) (a : Activity) (now_ want : Nat) : State :=
  let others := s.maint.filter (fun m => m.act.urgency == 1 && m.act.holds == a.holds)
  if others.any (·.running) then s.askMaint a
  else
    let s1 : State := { s with maint := s.maint.filter (fun m => !(m.act.urgency == 1 && m.act.holds == a.holds)) }
    if now_ = want then s1 else (s1.askMaint a).startMaint

/-! ### Core retirement -/

/-- An instance that is no longer enabled holds every register but its header at reset (R22, R125). -/
def State.clearInst (s : State) (d : Die) (inst : Nat) : State :=
  let a := pg d Blk.core inst
  let other (k : Nat) : Bool := !(decide (a + 0x40 ≤ k) && decide (k < a + 0x1000))
  { s with regs := s.regs.filter (fun e => other e.1), snap := s.snap.filter (fun e => other e.1) }

/-- CORE_RETIRE: go retires this physical instance; a spare is retired at once (R276). -/
def writeCoreRetire (who : Who) (d : Die) (phys : Nat) (v : Word) (s : State) : Written :=
  rootOnly who (fun t =>
    if !bit v.toNat 0 || (t.role d phys).retired || decide (104 ≤ phys) then written t
    else
      match (t.role d phys).logical with
      | none => written (((t.setRole d phys ⟨none, true⟩).clearInst d phys).storeRequest 0)
      | some _ => written ((t.askMaint (.coreRetire d phys)).startMaint)) s

def execCoreRetire (who : Who) (die : Die) (inst : Nat) (value : Word) (s : State) : Host.Outcome State Fault Refusal :=
  commit s (crossed who (pg die Blk.core inst + 0x220) 4 value (writeCoreRetire who die inst value) s)

/-- No strand of the core is on it any more. -/
def State.allParked (s : State) (d : Die) (c : Nat) : Bool :=
  (List.range 8).all (fun i => match s.strand (strandKey d c i) with | some x => !x.active && x.stat != .loading | none => true)

/-- A parked strand of a core that is gone is halted with 0x08, and the rest of its launch is killed (R276). The loss is one
event, which the first record flags (R269). -/
def State.haltParked (s : State) (d : Die) (c : Nat) (page ctx : Nat) (x : Strand) (first : Bool) : State :=
  let s1 := s.raise page 0x0108 (some x.part) 0 (x.tag % 2 ^ 32 + ctx * 2 ^ 32) false first
  let s2 := s1.decideLaunch x.launch 1 (8 + regInst page * 2 ^ 16)
  let s3 := s2.breakGroups x
  let s4 := (s3.setStrand (strandKey d c ctx) (x.cleared .halted)).noteReason ⟨d, c, ctx⟩ 8
  s4.killStrands (fun k y => y.launch == x.launch && k != strandKey d c ctx)

/-- A physical instance of a die that carries no core and is not retired. -/
def State.spareCore (s : State) (d : Die) : Option Nat :=
  (List.range 104).find? (fun p => (s.role d p).logical.isNone && !(s.role d p).retired)

/-- A core's number passes to a spare instance, whose array and contexts are as its reset left them and whose instruction
memory is good (R22, R106, R276). -/
def State.passNumber (s : State) (d : Die) (inst p c : Nat) : State :=
  let k := s.core d c
  (((s.setRole d inst ⟨none, true⟩).setRole d p ⟨some c, false⟩).clearInst d inst).setCore d c
    { k with arrOwner := none, arrShape := 0, reasons := [], lastA := 7, lastE := 7, images := k.images.map (fun m => { m with bad := [] }) }

/-- A core number is lost: the strands parked there halt (R276). -/
def State.loseNumber (s : State) (d : Die) (inst c : Nat) : State :=
  let l := (s.core d c).parked
  (((List.range l.length).zip l).foldl (fun (u : State) (y : Nat × (Nat × Strand)) =>
      u.haltParked d c (pg d Blk.core inst) y.2.1 y.2.2 (y.1 == 0))
    (s.setCore d c { s.core d c with parked := [] })).setRole d inst ⟨none, true⟩ |>.clearInst d inst

/-- A retirement is over. -/
def State.retired (s : State) (d : Die) (inst c : Nat) : State :=
  (((s.setCore d c { s.core d c with retiring := false }).dropMaint (.coreRetire d inst)).storeRequest 0).startMaint

/-- The retirement of an instance has begun, and no strand of its core is on it any more. -/
def State.mayMigrate (s : State) (d : Die) (inst c : Nat) : Bool :=
  s.maint.any (fun m => m.running && m.act == .coreRetire d inst) && s.allParked d c

/-- CORE_RETIRE_MIGRATE: once its strands are parked, the core's number passes to a spare with its scratchpad, errors
included, or is lost where none is left (R276). -/
def execCoreRetireMigrate (die : Die) (inst : Nat) (s : State) : Host.Outcome State Fault Refusal :=
  commit s (
    match (s.role die inst).logical with
    | none => s
    | some c =>
      if !s.mayMigrate die inst c then s
      else
        match s.spareCore die with
        | some p => (s.passNumber die inst p c).retired die inst c
        | none => (s.loseNumber die inst c).retired die inst c)

/-! ### Scrubbing -/

/-- Units of a scrubber's pass, and units to a row. -/
def State.scrubUnits (s : State) (inst : Nat) (d : Die) : Nat :=
  if inst < 8 then (if (s.stack (d.idx * 8 + inst)).trained then s.stackBytes / 32 else 0)
  else
    let c := d.idx * 6 + (inst - 8)
    if s.rvrFailed c || s.heldAt (rvrBase c) then 0 else s.rvrUsable c / 64
def scrubRowUnits (inst : Nat) : Nat := if inst < 8 then 64 else 32

/-- The unit at a place of the pass: rows one after another, each whole. The order of rows is the model's. -/
def scrubUnitAt (d : Die) (inst k : Nat) : Nat :=
  if inst < 8 then
    let r := k / 64
    stackBase (d.idx * 8 + inst) + r / 1024 * 2 ^ 21 + r / 512 % 2 * 2 ^ 20 + k % 64 / 8 * 2 ^ 17 + r % 2 * 2 ^ 16 +
      r / 2 % 32 * 2 ^ 11 + r / 64 % 8 * 2 ^ 8 + k % 8 * 32
  else rvrBase (d.idx * 6 + (inst - 8)) + 64 * k

/-- The scrubber's resource at a unit. -/
def scrubRes (a : Nat) : Resource :=
  match locOf a with
  | .stack n o => .bankPair n (nbuOf o)
  | .rvr c _ => .controller c
  | _ => .controller 12

/-- The slices of the unit's pair let the scrubber at it: none runs, and in a compute half with accepted slices the row is
the only one since the last slice boundary (R267). -/
def State.pairFree (s : State) (a : Nat) : Bool :=
  match locOf a with
  | .stack n o =>
    let k := s.stack n
    mget 0 k.running (nbuOf o) == 0 &&
      (!s.halfMode n (halfOf o) || s.noSlice n (fun u => u == nbuOf o) || mget 0 k.rowAt (nbuOf o) == 0 ||
        mget 0 k.rowAt (nbuOf o) == bankRow o + 1)
  | _ => true

/-- The scrubber may touch the unit now: no slice runs on its pair, nothing holds the resource, and the memory runs (R178,
R267, R278). -/
def State.mayScrub (s : State) (a : Nat) : Bool :=
  s.pairFree a && s.freeFor (.scrub (scrubRes a)) && decide (s.power (regDie (scrubPageOf a)) < 2)

/-- A row of the pass may begin: no repair that has its gap and no refresh-rate change waits for its resource, and Calm is not
being entered (R278, R279). -/
def State.rowMayStart (s : State) (a : Nat) : Bool :=
  !s.inCalm && !s.maint.any (fun m => !m.running && decide (m.act.urgency < 2) && (s.hasGap m.act || m.act.urgency == 1) &&
    m.act.meets (.scrub (scrubRes a)))

/-- The scrub of the unit's row runs. -/
def State.scrubRuns (s : State) (a : Nat) : Bool := s.maint.any (fun m => m.running && m.act == .scrub (scrubRes a))

/-- The scrub of a row begins, and holds its resource to the row's end (R278). -/
def State.rowStart (s : State) (a : Nat) : State :=
  if s.scrubRuns a then s else { s with maint := s.maint ++ [⟨.scrub (scrubRes a), s.now, true, false⟩] }

/-- One unit visited: corrected, or poisoned with its record (R262, R266). -/
def State.scrubOne (s : State) (a : Nat) : State :=
  let page := scrubPageOf a
  let u := s.unit a
  if u.uncorr then
    let s1 := if u.injected || u.found then s else s.noteError a true
    let s2 := if u.found then s1 else s1.bump page 0x048 32 1
    ((s2.raise page 0x0302 none (unitBase a) 0 u.injected false).queueUnit a).setUnit a
      { u with uncorr := false, corr := false, poison := true, injected := false, found := true }
  else if u.corr then
    let s1 := if u.injected then s else s.noteError a false
    (s1.bump page 0x040 32 1).setUnit a UnitState.sound
  else if u.injected then s.setUnit a { u with injected := false }
  else s

/-- behind shows that the pass cannot end in time because slices have kept it from units (R265). -/
def State.markLate (s : State) (page : Nat) : State :=
  if (s.scrubber page).starved && decide ((s.scrubber page).passStart + s.fld (page + 0x100) 0 16 * 60000000000 < s.now) then
    s.setFlag (page + 0x104) 10 true
  else s

/-- The pass has met a pair that its slices keep it from (R267). -/
def State.starveScrub (s : State) (page a : Nat) : State :=
  if s.pairFree a then s else s.setScrubber page { s.scrubber page with starved := true }

/-- The scrubber is on a row of a pair in a compute half, and may touch no other before the pair's next slice boundary
(R267). -/
def State.markRow (s : State) (a : Nat) : State :=
  match locOf a with
  | .stack n o =>
    let k := s.stack n
    if s.halfMode n (halfOf o) then s.setStack n { k with rowAt := mset 0 k.rowAt (nbuOf o) (bankRow o + 1) } else s
  | _ => s

/-- The pass goes on behind the unit just visited, or has ended and the next begins (R265, R266). -/
def State.passOn (s : State) (page cursor total : Nat) : State :=
  let y := s.scrubber page
  if cursor + 1 < total then s.setScrubber page { y with cursor := cursor + 1 }
  else ((s.setScrubber page { y with cursor := 0, passStart := s.now, lastStart := y.passStart, starved := false }).bump page 0x054 32 1).setFlag
    (page + 0x104) 10 false

/-- At a row boundary the scrub holds nothing any more, and the most urgent waiting activity runs (R277, R278). -/
def State.rowEnd (s : State) (inst cursor total a : Nat) : State :=
  if (cursor + 1) % scrubRowUnits inst = 0 ∨ total ≤ cursor + 1 then (s.endRuns (scrubRes a)).safePoint (scrubRes a) else s

/-- SCRUB_VISIT: the next unit of the pass (R265 to R267); the pass stops at a row boundary while it is not enabled, and a row
begins only where nothing more urgent waits (R278). -/
def execScrubVisit (die : Die) (inst : Nat) (s : State) : Host.Outcome State Fault Refusal :=
  commit s (
    let page := pg die Blk.scrub inst
    let total := s.scrubUnits inst die
    let cursor := (s.scrubber page).cursor
    if 14 ≤ inst ∨ total = 0 then s
    else if (!s.flag (page + 0x100) 16 && cursor % scrubRowUnits inst == 0) || !s.mayScrub (scrubUnitAt die inst cursor) ||
        (!s.scrubRuns (scrubUnitAt die inst cursor) && !s.rowMayStart (scrubUnitAt die inst cursor)) then
      (s.starveScrub page (scrubUnitAt die inst cursor)).markLate page
    else
      ((((((s.markLate page).rowStart (scrubUnitAt die inst cursor)).markRow (scrubUnitAt die inst cursor)).scrubOne
        (scrubUnitAt die inst cursor)).passOn page cursor total).rowEnd inst cursor total (scrubUnitAt die inst cursor)))

/-- SCRUB_QUEUED_VISIT: the oldest location of the correction queue, whether or not the pass is enabled (R261, R280). -/
def execScrubQueuedVisit (die : Die) (inst : Nat) (s : State) : Host.Outcome State Fault Refusal :=
  commit s (
    let page := pg die Blk.scrub inst
    let x := s.scrubber page
    match x.queue with
    | [] => s
    | a :: r => if s.mayScrub a then ((s.setScrubber page { x with queue := r }).markRow a).scrubOne a else s)

/-- SCRUB_PERIOD: a pass time outside 60 to 43,200 min leaves that field (R280). -/
def writeScrubPeriod (who : Who) (d : Die) (inst : Nat) (v : Word) (s : State) : Written :=
  let page := pg d Blk.scrub inst
  rootRwl who page (fun t =>
    let m := v.toNat % 2 ^ 16
    let t1 := if 60 ≤ m ∧ m ≤ 43200 then t.setFld (page + 0x100) 0 16 m else t
    t1.setFlag (page + 0x100) 16 (bit v.toNat 16)) s

def execScrubPeriodWrite (who : Who) (die : Die) (inst : Nat) (value : Word) (s : State) : Host.Outcome State Fault Refusal :=
  commit s (crossed who (pg die Blk.scrub inst + 0x100) 4 value (writeScrubPeriod who die inst value) s)

/-- A flip control register: arm, the write-one-to-clear of consumed, and the plain fields of a mask (R268). -/
def State.setFlip (s : State) (a mask : Nat) (v : Word) : State :=
  let old := (s.reg a).toNat
  let keep := setBits old 0 1 (bits v.toNat 0 1)
  let cons := if bit v.toNat 1 then setBits keep 1 1 0 else keep
  s.setReg a (w64 ((List.range 30).foldl (fun x i => if bit mask (i + 2) then setBits x (i + 2) 1 (bits v.toNat (i + 2) 1) else x) cons))

/-- SCRUB_FLIP_CTRL (R268, R280). -/
def writeScrubFlip (who : Who) (d : Die) (inst : Nat) (v : Word) (s : State) : Written :=
  rootOnly who (fun t => written (t.setFlip (pg d Blk.scrub inst + 0x110) 0xFFFF001C v)) s

def execScrubFlipArm (who : Who) (die : Die) (inst : Nat) (value : Word) (s : State) : Host.Outcome State Fault Refusal :=
  commit s (crossed who (pg die Blk.scrub inst + 0x110) 4 value (writeScrubFlip who die inst value) s)

/-- CORE_FLIP_CTRL: the word field and the upper half of check_mask read 0 (R268); an instance that is not enabled takes no
write (R22). -/
def writeCoreFlip (who : Who) (d : Die) (inst : Nat) (v : Word) (s : State) : Written :=
  rootOnly who (fun t =>
    written (if (t.role d inst).logical.isSome then t.setFlip (pg d Blk.core inst + 0x200) 0x00FF0000 v else t)) s

def execCoreFlipArm (who : Who) (die : Die) (inst : Nat) (value : Word) (s : State) : Host.Outcome State Fault Refusal :=
  commit s (crossed who (pg die Blk.core inst + 0x200) 4 value (writeCoreFlip who die inst value) s)

/-! ### Thermal limits and misses (R362) -/

/-- A partition has resources on a die; partition 0 may use both. -/
def State.usesDie (s : State) (p : Nat) (d : Die) : Bool :=
  p == 0 || s.coreMask d p != 0 || s.halves d p != 0 || s.rvrMask d p != 0

/-- A die clock, a stack governor or a Reservoir controller that a partition may use is held by a thermal limit. -/
def State.thermalOn (s : State) (p : Nat) : Bool :=
  [Die.windward, Die.leeward].any (fun d =>
    s.usesDie p d && (decide ((s.hk.get d).thermLim < 38) || (s.hk.get d).throttling || (s.hk.get d).stopped)) ||
  (List.range 16).any (fun n => decide ((s.stack n).gov < 375) && (p == 0 || s.namesHalf p n 0 || s.namesHalf p n 1)) ||
  (List.range 12).any (fun c => s.flag (rvrPage c + 0x104) 2 && (p == 0 || s.namesRvr p c))

/-- A promise with its deadline still to come latches a thermal limit in force on what its partition may use. -/
def State.noteThermal (s : State) : State :=
  let s1 : State := { s with launches := s.launches.map (fun l =>
    if l.deadline ≠ 0 ∧ !l.missed ∧ s.now ≤ l.deadline / 1000 * 1000 ∧ s.thermalOn l.part then { l with thermalSeen := true } else l) }
  s1.monitors.foldl (fun t e =>
    let r := pg (dieOf (e.1 / 64)) Blk.fault 0 + 0x800 + e.1 % 64 * 0x20
    if t.flag (r + 0x1C) 0 && !t.flag (r + 0x1C) 1 && decide (s.now ≤ (t.reg r).toNat / 1000 * 1000) &&
        t.thermalOn (t.fld (r + 0x18) 1 4) then t.setFlag (r + 0x1C) 4 true else t) s1

/-! ### The Reservoir (R253, R254) -/

/-- A device is above its range: the limit starts (R253), and promises it touches latch it (R362). -/
def State.rvrHot (s : State) (c ch : Nat) : State :=
  let t : State := { s with rvrNormal := mset 0 s.rvrNormal c 0 }
  if t.flag (rvrPage c + 0x104) 2 then t
  else ((t.setFlag (rvrPage c + 0x104) 2 true).bump (rvrPage c) 0x050 32 1).raise (rvrPage c) 0x030A none ch 0 false false |>.noteThermal

/-- Every device is in range: the second such poll in turn ends the limit (R253). -/
def State.rvrCool (s : State) (c : Nat) : State :=
  if !s.flag (rvrPage c + 0x104) 2 then s
  else if mget 0 s.rvrNormal c = 0 then { s with rvrNormal := mset 0 s.rvrNormal c 1 }
  else ({ s with rvrNormal := mset 0 s.rvrNormal c 0 } : State).setFlag (rvrPage c + 0x104) 2 false

/-- RVR_MR4_POLL: the highest rate a device asks for becomes the rate wanted; a device above its range starts the limit,
and two successive polls with every device in range end it (R253). -/
def execRvrMr4Poll (c : Nat) (report : List (Nat × Bool)) (s : State) : Host.Outcome State Fault Refusal :=
  commit s (
    if 12 ≤ c ∨ !s.flag (rvrPage c + 0x104) 0 ∨ s.rvrFailed c ∨ report.isEmpty then s
    else
      let want := Nat.min (listMax (report.map (·.1))) 2
      let t := s.askRefresh (.rvrRefresh c want) (s.fld (rvrPage c + 0x104) 3 2) want
      match (List.range report.length).find? (fun i => (report[i]?.map (·.2)).getD false) with
      | some ch => t.rvrHot c ch
      | none => t.rvrCool c)

/-- A controller has failed and is no longer initialised (R254). -/
def State.rvrDown (s : State) (c : Nat) : State :=
  let t := (s.setFlag (rvrPage c + 0x104) 1 true).setFlag (rvrPage c + 0x104) 0 false
  { t with rvrInit := t.rvrInit.erase c }

/-- A request needs a Reservoir controller: its package has weights there, or keeps cold pages in the Reservoir and its partition
names the controller (DESIGN CHOICE, log 91). -/
def State.needsRvr (s : State) (r : Serve) (c : Nat) : Bool :=
  match s.model r.part r.entry.model with
  | some m =>
    m.weights.any (fun w => match locOf w.1 with | .rvr x _ => x == c | _ => false) ||
      (m.heads.any (fun h => h.coldStep != 0) && s.namesRvr r.part c)
  | none => false

/-- Requests that need a failed controller end with FAILED, reason 4 (R314, R320). -/
def State.failRvr (s : State) (c : Nat) : State :=
  (s.quiley.reqs.filter (fun r => (r.stat == .prefill || r.stat == .decoding || r.stat == .held) && !r.masked && r.ending.isNone && s.needsRvr r c)).foldl
    (fun (t : State) r => t.failReq r 4) s

/-- RVR_LINK_LOSS: the controller fails while it runs; the loss interrupts work (R254, R269). -/
def execRvrLinkLoss (c : Nat) (s : State) : Host.Outcome State Fault Refusal :=
  commit s (
    if 12 ≤ c ∨ !s.flag (rvrPage c + 0x104) 0 ∨ s.rvrFailed c then s
    else ((s.rvrDown c).raise (rvrPage c) 0x030B none 0 2 false true).failRvr c)

/-! ### The bridge (R24) -/

/-- Retries of the bridge, each counted: an event that the admission model does not cover (R24, R362). -/
def State.bridgeRetried (s : State) (d : Die) (n : Nat) : State :=
  if n = 0 then s else (s.bump (pg d Blk.bridge 0) 0x040 32 n).noteUnmodelled none

/-- BRIDGE_RETRY: one retry, counted (R24). -/
def execBridgeRetry (die : Die) (s : State) : Host.Outcome State Fault Refusal := commit s (s.bridgeRetried die 1)

/-- The virtual address of a run of an instruction in flight that holds a local address; the first run's otherwise. -/
def Inflight.vaOf (m : Inflight) (addr : Nat) : Nat :=
  match m.runs.find? (fun r => r.pieces.any (fun p => decide (gaLocal p.1 ≤ addr) && decide (addr < gaLocal p.1 + p.2.1))) with
  | some r => r.va
  | none => (m.runs.map (·.va)).headD addr

def State.pciePage (s : State) : Nat := pg s.active Blk.pcie 0

/-- A host read that gives no data: EP, its counter and its record (R414). -/
def State.hostPoison (s : State) (addr : Nat) : State :=
  let s1 := (s.bump s.pciePage 0x048 32 1).raise s.pciePage 0x0905 (some 0) addr 1 false false
  { s1 with out := s1.out ++ [.cplEp] }

/-- A transfer the bridge could not deliver is counted and recorded; the loss interrupts work (R24). -/
def State.bridgeLost (s : State) (d : Die) (part : Option Nat) (addr : Nat) : State :=
  (s.bump (pg d Blk.bridge 0) 0x044 32 1).raise (pg d Blk.bridge 0) 0x030C part addr 0 false true

/-- An instruction in flight ends with an error: the strand halts at that instruction, unless it has ended already (R100,
R101). -/
def State.failMem (s : State) (i : Sid) (m : Inflight) (reason va : Nat) : State :=
  match s.strand i.key with
  | none => s
  | some x =>
    let y := dropInflight m.id x
    let ended := x.stat == .halted || s.launches.any (fun l => l.key == x.launch && l.result.isSome)
    if ended then s.setStrand i.key y else (s.setStrand i.key { y with apc := m.place }).haltStrand i reason va

/-- The command write of an SCMD in flight does not reach its stack: it leaves the port it waits at, and a group it was to
join is broken (R24, R210). -/
def State.dropPortWrite (s : State) (i : Sid) (x : Strand) (id : Nat) : State :=
  let mine (w : PortWrite) : Bool := w.strand == some (i.key, x.launch) && w.inflight == id
  (List.range 16).foldl (fun (t : State) n =>
    match (t.stack n).port.find? mine with
    | none => t
    | some w =>
      let u := t.leavePort n w
      if cOpcode w.bytes = 1 then (u.breakGroup (cHome w.bytes) (cHandle w.bytes) (cGen w.bytes)).memberEnded w.bytes else u) s

/-- The strand an instruction in flight belongs to halts with 0x08 at that instruction (R24, R34). -/
def State.failFlight (s : State) (i : Sid) (m : Inflight) (va : Nat) : State :=
  match s.strand i.key with
  | some x => ((if m.kind = .scmd then s.dropPortWrite i x m.id else s).failMem i m 0x08 va)
  | none => s

/-! ### Domains (R31, R34) -/

/-- DOMAIN_WAKE: a request meets a stopped domain and raises its wake line. The request itself is held by the command that
made it (R34). -/
def execDomainWake (die : Die) (domain : Nat) (_request : Nat) (s : State) : Host.Outcome State Fault Refusal :=
  commit s (if s.domainStopped die domain then s.wakeDie die else s)

/-- The address a held access names. -/
def Held.addr : Held → Nat
  | .hostWrite a _ _ => a
  | .hostRead a _ => a
  | .packet _ k _ => k.addr
  | .mgmtRead _ a => a
  | .regWrite _ a _ _ => a
  | .jtag op => match op with
    | .registerRead a => a
    | .memoryRead a _ => a
    | .memoryWrite a _ => a
    | _ => 0

end Sys2Proof.Machine
end

