-- ==== Sys2Proof/Machine/Sched.lean ====
section
/-!
DEFINITION. SCHED: rings and launches (R41 to R53), translation invalidation (R58), partitions (R341 to R349), the
sharing of a core and pre-emption (R350 to R355), accounting (R357, R358) and the multicast unit (R117 to R120).
-/
namespace Sys2Proof.Machine

/-! ### Thermal limits and misses (R362) -/

/-- TIME_STATUS reads locked (1) or root (3) (R311). -/
def State.timeGood (s : State) : Bool :=
  let v := s.fld (pg .windward Blk.time 0 + 0x10C) 0 2
  v == 1 || v == 3

/-- A condition of R362's list holds now for a partition: the time is not locked, a port is Dead, Degraded or retraining,
or a core of the partition's is being retired. -/
def State.unmodelledOn (s : State) (p : Nat) : Bool :=
  !s.timeGood || s.cores.any (fun e => e.2.any (·.retiring) && s.namesCore p (dieOf (e.1 / 96)) (e.1 % 96)) || allPorts.any (fun p => s.portState p == 3 || s.portState p == 4 || (s.portState p == 1 && (s.port p).everUp))

/-- Cause of a miss: 1 thermal, 2 admission-model, 3 unknown (R362). -/
def missCause (thermal unmodelled late : Bool) : Nat := if thermal then 1 else if unmodelled || late then 3 else 2

/-- A DEADLINE_MISS record (R362), counted for its partition on the die (R357). -/
def State.missRecord (s : State) (page part late cause : Nat) (abandoned : Bool) (monitor detail : Nat) : State :=
  let arg := Nat.min late (2 ^ 55 - 1) + cause * 2 ^ 55 + boolNat abandoned * 2 ^ 57 + monitor * 2 ^ 58
  (s.raise page 0x0701 (some part) arg detail false false).bump (schedPage (regDie page)) (partOff part + 0x34) 32 1

/-- The FAULT page's miss interrupt (R361, R435). -/
def State.missIrq (s : State) (d : Die) : State :=
  let s1 := s.setFlag (faultPage d + 0x18) 2 true
  if s1.flag (faultPage d + 0x1C) 2 then s1.msix 0 31 else s1

/-! ### Reads in flight (R288) -/

/-- A span cut at 512 B boundaries: each part travels in one READ. -/
def readChunks (ga len : Nat) : List (Nat × Nat) :=
  if len = 0 then []
  else
    (List.range ((ga % 512 + len + 511) / 512)).map (fun i =>
      let lo := Nat.max ga (ga / 512 * 512 + i * 512)
      let hi := Nat.min (ga + len) (ga / 512 * 512 + (i + 1) * 512)
      (lo, hi - lo))

/-- The pieces of a run with their virtual addresses. -/
def Run.placed (r : Run) : List (Nat × (Nat × Nat × Bool)) :=
  (r.pieces.foldl (fun (acc : Nat × List (Nat × (Nat × Nat × Bool))) p => (acc.1 + p.2.1, acc.2 ++ [(acc.1, p)])) (r.va, [])).2

/-- The pieces of an instruction in flight, in the order of its bytes, with their place among them and their virtual
addresses. -/
def Inflight.placed (m : Inflight) : List (Nat × Nat × (Nat × Nat × Bool)) :=
  ((m.runs.flatMap Run.placed).foldl
    (fun (acc : Nat × List (Nat × Nat × (Nat × Nat × Bool))) e => (acc.1 + e.2.2.1, acc.2 ++ [(acc.1, e.1, e.2)])) (0, [])).2

/-- The parts of its remote pieces: place, virtual address, global address, length. -/
def State.remoteParts (s : State) (m : Inflight) : List (Nat × Nat × Nat × Nat) :=
  (m.placed.filter (fun e => !s.isLocal e.2.2.1)).flatMap (fun e =>
    (readChunks e.2.2.1 e.2.2.2.1).map (fun c => (e.1 + (c.1 - e.2.2.1), e.2.1, c.1, c.2)))

/-- READs sent for the remote parts that are neither answered nor on their way (R288): each asks for the 4 B words that
cover its part. -/
def State.sendReads (s : State) (i : Sid) (part : Nat) (m : Inflight) : State × Inflight :=
  let due := (s.remoteParts m).filter (fun e =>
    !m.got.any (fun g => g.1 == e.1) && !s.requests.any (fun r => m.remote.contains r.id && r.die == i.die && r.off == e.1))
  due.foldl (fun (acc : State × Inflight) e =>
    let lo := e.2.2.1 / 4 * 4
    let n := (e.2.2.1 % 4 + e.2.2.2 + 3) / 4 * 4
    let r := acc.1.request i.die part 2 lo e.2.1 e.1 (w64 n) [] false (match s.mergeOf m with | some y => .mcast y.id | none => .strand i m.id)
    if r.1.stillOut i.die r.2 then (r.1, { acc.2 with remote := acc.2.remote ++ [r.2] })
    else (r.1, { acc.2 with err := if acc.2.err.isNone then some (0x08, w64 e.2.1) else acc.2.err })) (s, m)

/-- The runs of an instruction translated afresh (R93: it runs again from the start). A failed translation is the error it
meets. -/
def State.retranslate (s : State) (i : Sid) (part : Nat) (m : Inflight) : State × Inflight :=
  let r := m.runs.foldl (fun (acc : State × List Run × Option (Nat × Word)) run =>
    match acc.2.2 with
    | some _ => acc
    | none =>
      let len := (run.pieces.map (fun p => p.2.1)).foldl (· + ·) 0
      match translateSpan (fun t va => t.coreTranslate i.die i.core part va .r) (granules run.va len) acc.1 with
      | (t, .ok ps) => (t, acc.2.1 ++ [{ run with pieces := ps }], none)
      | (t, .fault va) => (t, acc.2.1, some (0x06, w64 va))
      | (t, .bad va) => (t, acc.2.1, some (0x08, w64 va))) (s, [], none)
  (r.1, match r.2.2 with
    | some e => { m with err := some e, remote := [], got := [], rest := none }
    | none => { m with runs := r.2.1, remote := [], got := [], rest := none })

/-! ### Rings -/

def ringBase (d : Die) (r : Nat) : Nat := schedPage d + 0x100 + r * 0x20
def State.ringHead (s : State) (d : Die) (r : Nat) : Nat := s.fld (ringBase d r + 0x10) 0 16
def State.ringTail (s : State) (d : Die) (r : Nat) : Nat := s.fld (ringBase d r + 0x14) 0 16
def State.ringLog2 (s : State) (d : Die) (r : Nat) : Nat := s.fld (ringBase d r + 0x08) 0 4
def ringPart (r : Nat) : Nat := r / 4

/-- The ring is enabled and not stopped (R50): by a reserved size, or on a bad tail. A ring stopped by a reserved size runs
again as soon as a valid one is written with its enable still set (DESIGN CHOICE, log 102). -/
def State.ringRuns (s : State) (d : Die) (r : Nat) : Bool :=
  s.flag (ringBase d r + 0x08) 4 && decide (4 ≤ s.ringLog2 d r) && decide (s.ringLog2 d r ≤ 12) && !s.flag (ringBase d r + 0x0C) 1

def State.ringLaunches (s : State) (d : Die) (r : Nat) : List Launch := s.launches.filter (fun l => l.die == d && l.ring == r)

/-- Index of the descriptor SCHED reads next. -/
def State.ringNext (s : State) (d : Die) (r : Nat) : Nat :=
  match (s.ringLaunches d r).getLast? with
  | some l => (l.index + 1) % 65536
  | none => s.ringHead d r

/-- Launches between step 1 and step 5 of R46. -/
def State.ringInflight (s : State) (d : Die) (r : Nat) : Nat := ((s.ringLaunches d r).filter (fun l => l.stage != .done)).length

/-- How many may be in progress at once (R50). -/
def State.ringMay (s : State) (d : Die) (r : Nat) : Bool :=
  match s.fld (ringBase d r + 0x08) 6 2 with
  | 0 => decide (s.ringInflight d r < 1)
  | 1 => decide (s.ringInflight d r < 4)
  | 2 => decide (s.ringInflight d r < 16)
  | _ => true

/-- The ring's completion interrupt (R50, R435). -/
def State.ringIrq (s : State) (d : Die) (r : Nat) : State :=
  if !s.flag (ringBase d r + 0x08) 5 then s
  else
    let s1 := s.setFlag (schedPage d + 0x910) r true
    if s1.flag (schedPage d + 0x1C) 1 then s1.msix 0 30 else s1

/-- The head passes every completed descriptor at the front. -/
def passDone (d : Die) (r : Nat) : Nat → State → State
  | 0, s => s
  | n + 1, s =>
    match s.ringLaunches d r with
    | [] => s
    | l :: _ =>
      if l.stage = .done then
        passDone d r n (({ s with launches := s.launches.erase l } : State).setFld (ringBase d r + 0x10) 0 16 (l.index + 1))
      else s

/-- Step 5 of R46 for the ring: the head advances and the interrupt is raised. -/
def State.leaveRing (s : State) (d : Die) (r : Nat) : State := (passDone d r (s.launches.length + 1) s).ringIrq d r

/-- A launch's place in the list changed. -/
def State.setLaunch (s : State) (l : Launch) : State :=
  { s with launches := s.launches.map (fun x => if x.key == l.key then l else x) }

/-- A strand is no longer asked to make room for a launch, nor kept parked for it. -/
def Strand.unask (x : Strand) (key : Nat) : Strand :=
  if x.parkedFor = some key then { x with parkAsked := false, parkedFor := none } else x

/-- A launch that has started or completed needs no room any more: the strands asked to park for it are no longer asked, and
those parked for it may resume (R353; DESIGN CHOICE, log 103). -/
def State.unask (s : State) (key : Nat) : State :=
  { s with
    strands := s.strands.map (fun e => (e.1, e.2.map (fun x => x.unask key)))
    cores := s.cores.map (fun e => (e.1, e.2.map (fun c => { c with parked := c.parked.map (fun y => (y.1, y.2.unask key)) }))) }

/-- The deadline of a launch had passed when SCHED read its descriptor: a miss of unknown cause (R361, R362). -/
def Launch.armedLate (l : Launch) : Bool := decide (l.deadline / 1000 * 1000 < l.at_)

/-- What a launch holds is given up: reserved contexts, merge entries, and the contexts of its halted strands, which keep
their reason (R42, R46). -/
def State.releaseLaunch (s : State) (key : Nat) : State :=
  let s1 : State := { s with
    cores := s.cores.map (fun e => (e.1, e.2.map (fun c => { c with reserved := c.reserved.filter (fun x => x.2 != key) })))
    mcast := s.mcast.filter (fun m => m.launch != key)
    strands := s.strands.map (fun e => (e.1, e.2.map (fun x =>
      if x.launch = key ∧ x.stat = .halted then { x with stat := .free } else x))) }
  s1.unask key

/-- Steps 4 and 5 of R46: status, detail and end time in the descriptor, a miss where the deadline has passed, the counter,
the accounting, the head (R45, R47, R48, R361). -/
def State.finishLaunch (s : State) (l : Launch) (status detail : Nat) : State :=
  let s1 := (s.homeWrite 0 (l.descPa + 0x70) (leBytes 4 status ++ leBytes 4 detail ++ leBytes 8 s.now)).1
  let d := l.deadline / 1000 * 1000
  let s2 := if l.deadline ≠ 0 ∧ !l.missDone ∧ d < s1.now then
      (if l.missed then s1 else s1.missIrq l.die).missRecord (schedPage l.die) l.part (s1.now - d)
        (missCause l.thermalSeen l.unmodelledSeen l.armedLate) (status == 3) 0 l.tag
    else s1
  let s3 := match l.donePa with
    | some a => s2.countUp l.part a
    | none => s2
  let s4 := (s3.bump (schedPage l.die) (partOff l.part + 0x30) 32 1).releaseLaunch l.key
  ((((s4.stir).stirLull .windward).stirLull .leeward).setLaunch { l with stage := .done, result := some (status, detail) }).leaveRing
    l.die l.ring

/-- A launch that has not reached step 3 completes with a status. -/
def State.abortLaunch (s : State) (l : Launch) (status : Nat) : State := s.finishLaunch l status 0

/-- Every launch of a ring that has not started completes with status 3 (R49). -/
def State.stopRing (s : State) (d : Die) (r : Nat) : State :=
  ((s.ringLaunches d r).filter (fun l => l.stage == .checked)).foldl (fun t l => t.abortLaunch l 3) s

/-- SCHED_RING_TAIL: ignored while the ring does not run; accepted up to the free entries; otherwise the ring stops
(R50 to R52). -/
def writeRingTail (who : Who) (d : Die) (r : Nat) (v : Nat) (s : State) : Written :=
  if !(who.root || who.part == some (ringPart r)) then denied s
  else if !s.ringRuns d r then written s
  else
    let t := s.ringTail d r
    let ahead := (v % 65536 + 65536 - t) % 65536
    let used := (t + 65536 - s.ringHead d r) % 65536
    if ahead ≤ (2 ^ s.ringLog2 d r + 65536 - used) % 65536 then written (s.setFld (ringBase d r + 0x14) 0 16 v)
    else
      written (((s.setFlag (ringBase d r + 0x0C) 1 true).raise (schedPage d) 0x0202 (some (ringPart r)) v r false false).stopRing d r)

def execSchedRingTailWrite (who : Who) (die : Die) (ring value : Nat) (s : State) : Host.Outcome State Fault Refusal :=
  commit s (
    if 64 ≤ ring then s
    else crossed who (schedPage die + 0x100 + ring * 0x20 + 0x14) 4 (w64 value) (writeRingTail who die ring value) s)

/-- SCHED_RING_CTRL: clearing enable clears stopped_bad_tail; a cleared enable or a reserved size stops the ring (R49 to
R51). -/
def writeRingCtrl (who : Who) (d : Die) (r : Nat) (v : Word) (s : State) : Written :=
  rootRwl who (schedPage d) (fun t =>
    let ran := t.ringRuns d r
    let t1 := t.setReg (ringBase d r + 0x08) (w64 (v.toNat % 256))
    let t2 := if bit v.toNat 4 then t1 else t1.setFlag (ringBase d r + 0x0C) 1 false
    if ran && !t2.ringRuns d r then t2.stopRing d r else t2) s

/-! ### Launches -/

/-- The cores a mask selects, Windward first (R41, R45). -/
def selCores (mask : Nat) : List (Die × Nat) := ((List.range 192).filter (fun i => bit mask i)).map (fun i => (dieOf (i / 96), i % 96))

/-- Every selected core is the partition's and holds a logical number (R46). -/
def State.coresOk (s : State) (p mask : Nat) : Bool :=
  (selCores mask).all (fun c => s.namesCore p c.1 c.2 && (s.physOf c.1 c.2).isSome)

/-- How SCHED's translation of an address ends: a local address, or a cause of R45. -/
def State.schedPlace (s : State) (d : Die) (p va len : Nat) (perm : Perm) : State × (Nat ⊕ Nat) :=
  match s.translate (schedPage d) d p va perm with
  | (t, .fault) => (t, .inl 1)
  | (t, .bad) => (t, .inl 4)
  | (t, .ok ga _) =>
    if !t.isLocal ga then (t, .inl 2)
    else if !t.holds (gaLocal ga) len || !t.admits p (gaLocal ga) then (t, .inl 3)
    else if t.lostAt (gaLocal ga) then (t, .inl 4)
    else (t, .inr (gaLocal ga))

/-- 0x0204 and status 4 (R47, R440). -/
def State.unusable (s : State) (l : Launch) (va cause done : Nat) : State :=
  (s.raise (schedPage l.die) 0x0204 (some l.part) va (l.tag + l.ring * 2 ^ 32 + cause * 2 ^ 40 + done * 2 ^ 48) false false).finishLaunch l 4
    (cause + done * 256)

/-- Contexts of a core that a launch may take: free, with nothing of an ended strand in flight, and held for no other
launch. -/
def State.freeCtx (s : State) (d : Die) (c : Nat) (key : Nat) : List Nat :=
  (List.range 8).filter (fun i =>
    (match s.strand (strandKey d c i) with | none => true | some x => x.stat == .free && x.inflight.isEmpty) &&
    !(s.core d c).reserved.any (fun r => r.1 == i && r.2 != key))

/-- Contexts held by strands in them. -/
def State.resident (s : State) (d : Die) (c : Nat) : List (Nat × Strand) :=
  (List.range 8).filterMap (fun i => match s.strand (strandKey d c i) with
    | some x => if x.active || x.stat == .loading then some (i, x) else none
    | none => none)

/-- A launch waits for contexts: checked, and under the order flag the descriptor before it on its ring has completed
(R45). -/
def State.launchTurn (s : State) (l : Launch) : Bool :=
  l.stage == .checked && (!l.order || !(s.ringLaunches l.die l.ring).any (fun x => x.stage != .done &&
    (x.index + 1) % 65536 == l.index % 65536))

/-- A partition waits for a core: a strand of its own there, parked or in a context, or a launch in step 2 (R350). -/
def State.waitsFor (s : State) (p : Nat) (d : Die) (c : Nat) : Bool :=
  (s.resident d c).any (fun e => e.2.part == p) || (s.core d c).parked.any (fun e => e.2.part == p) ||
    s.launches.any (fun l => l.part == p && s.launchTurn l && (selCores l.coreMask).contains (d, c))

/-- The partition whose turn is next: the next waiting one after the holder (R350). -/
def State.nextHolder (s : State) (d : Die) (c holder : Nat) : Option Nat :=
  nextRound holder ((s.coreUsers d c).filter (fun p => p != holder && s.waitsFor p d c))

/-- The holder of a core has been asked away while another partition waits; once none does, the turn goes on as long as the
holder likes (R350). -/
def State.turnOver (s : State) (d : Die) (c : Nat) : Bool :=
  (s.core d c).turnAsked && ((s.holderOf d c).bind (fun p => s.nextHolder d c p)).isSome

/-- The strands pre-empted for a launch on a core that its partition holds: lowest priority first, latest launched first,
as many as the launch lacks contexts (R353). -/
def State.preemptOn (s : State) (l : Launch) (d : Die) (c : Nat) : State :=
  if s.holderOf d c ≠ some l.part then s
  else
    let res := s.resident d c
    let asked := (res.filter (fun e => e.2.parkedFor == some l.key && e.2.parkAsked)).length
    let short := l.perCore - (s.freeCtx d c l.key).length - asked
    let seqOf (x : Strand) : Nat := ((s.launches.find? (fun y => y.key == x.launch)).map (·.seq)).getD 0
    let cand := res.filter (fun e => e.2.part == l.part && decide (e.2.prio < l.prio) && !e.2.parkAsked && e.2.active)
    let ranked := cand.mergeSort (fun a b => decide (a.2.prio < b.2.prio) || (a.2.prio == b.2.prio && decide (seqOf b.2 ≤ seqOf a.2)))
    (ranked.take short).foldl (fun t e => t.setStrand (strandKey d c e.1) { e.2 with parkAsked := true, parkedFor := some l.key }) s

def State.preemptFor (s : State) (l : Launch) : State :=
  if s.launchTurn l then (selCores l.coreMask).foldl (fun t c => t.preemptOn l c.1 c.2) s else s

/-- Every launch that waits for a core may pre-empt there. -/
def State.preemptAll (s : State) (d : Die) (c : Nat) : State :=
  (s.launches.filter (fun l => (selCores l.coreMask).contains (d, c))).foldl
    (fun t l => if t.launchTurn l then t.preemptOn l d c else t) s

/-- A launch lacks what it needs and waits in step 2 of R46 (R49). -/
def State.holdLaunch (s : State) (l : Launch) : State := s.setLaunch { l with waits := true }

/-- The contexts that a launch takes are reserved for it while its image cannot be read yet (R46 step 2): they are Loading
(R42). Cores that lack contexts reserve none. -/
def State.reserveCtx (s : State) (l : Launch) : State :=
  let cs := selCores l.coreMask
  if cs.all (fun c => s.holderOf c.1 c.2 == some l.part && !(s.core c.1 c.2).retiring && !s.turnOver c.1 c.2 &&
      decide (l.perCore ≤ (s.freeCtx c.1 c.2 l.key).length)) then
    cs.foldl (fun (t : State) c =>
      let k := t.core c.1 c.2
      t.setCore c.1 c.2 { k with reserved := k.reserved.filter (fun e => e.2 != l.key) ++
        ((t.freeCtx c.1 c.2 l.key).take l.perCore).map (fun i => (i, l.key)) }) s
  else s

/-- The ring is blocked: its oldest launch that has not started waits for resources (R49, R50). -/
def State.ringBlocked (s : State) (d : Die) (r : Nat) : Bool :=
  match (s.ringLaunches d r).find? (fun x => x.stage == .checked) with
  | some x => x.waits
  | none => false

/-- A descriptor's fields (R45), in a launch not yet checked. -/
def launchOf (d : Die) (r idx pa : Nat) (b : List Byte) (s : State) : Launch :=
  { die := d, ring := r, index := idx, part := ringPart r, descPa := pa, kernelVa := leAt b 0 8, imageLen := leAt b 8 4,
    perCore := leAt b 0xC 1, prio := leAt b 0xD 1, order := bit (leAt b 0xE 2) 0, coreMask := leAt b 0x10 24,
    argVa := w64 (leAt b 0x28 8), donePa := none, deadline := leAt b 0x38 8, wdUs := leAt b 0x40 4, tag := leAt b 0x44 4,
    stage := .checked, result := none, missed := false,
    thermalSeen := s.thermalOn (ringPart r), unmodelledSeen := s.unmodelledOn (ringPart r), missDone := false, waits := false, at_ := s.now,
    seq := 0 }

/-- The checks of step 1 of R46, with R349. -/
def State.launchOk (s : State) (l : Launch) : Bool :=
  l.kernelVa % 256 == 0 && decide (256 ≤ l.imageLen) && decide (l.imageLen ≤ 131072) && l.imageLen % 256 == 0 &&
  decide (1 ≤ l.perCore) && decide (l.perCore ≤ 8) && decide (l.prio ≤ 3) && decide (1 ≤ l.wdUs) && decide (l.wdUs ≤ 1000000) &&
  (!s.partG l.part || decide (l.wdUs ≤ 50)) && decide (l.wdUs ≤ s.wdCapMs l.part * 1000) && l.coreMask != 0 &&
  s.coresOk l.part l.coreMask && s.partOn l.part

/-- A descriptor that cannot be read: recorded with the unreadable bit, and passed over (R47). -/
def State.unreadLaunch (s : State) (d : Die) (ring idx pa : Nat) : State :=
  let t := s.raise (schedPage d) 0x0201 (some (ringPart ring)) pa (ring * 2 ^ 32 + 2 ^ 40) false false
  let u : State := { t with
    launches := t.launches ++ [{ launchOf d ring idx pa [] s with stage := .done }], doomed := t.doomed.erase (launchKey d ring idx) }
  (u.bump (schedPage d) (partOff (ringPart ring) + 0x30) 32 1).leaveRing d ring

/-- Where a launch's done counter lies: nowhere for a done_va of 0, or why it is unusable (R45, R47). -/
def State.doneAt (s : State) (d : Die) (p va : Nat) : State × (Nat ⊕ Option Nat) :=
  if va = 0 then (s, .inr none)
  else if va % 8 ≠ 0 then (s, .inl 5)
  else
    match s.schedPlace d p va 8 .w with
    | (u, .inl c) => (u, .inl c)
    | (u, .inr a) => (u, .inr (some a))

/-- The kill that came before the descriptor was read is served with it (R53). -/
def State.undoom (s : State) (key : Nat) : State := { s with doomed := s.doomed.erase key }

def State.addLaunch (s : State) (l : Launch) : State := { s with launches := s.launches ++ [l] }

def Launch.withDone (l : Launch) (a : Option Nat) : Launch := { l with donePa := a }

/-- A descriptor that has been read is judged: killed before, rejected, or checked (R46, R53); a checked launch that lacks
contexts pre-empts (R353). -/
def State.judgeLaunch (s : State) (l : Launch) (killed : Bool) : State :=
  if killed then s.abortLaunch l 3
  else if !s.launchOk l then
    (s.raise (schedPage l.die) 0x0201 (some l.part) l.descPa (l.tag + l.ring * 2 ^ 32) false false).abortLaunch l 2
  else s.preemptFor l

/-- Local address of the descriptor a ring reads next. The ring's base is a local address, and bits above 41 of
SCHED_RING_BASE, of which R44 and R50 say nothing, are dropped (DESIGN CHOICE, log 92). -/
def State.descPa (s : State) (d : Die) (ring : Nat) : Nat :=
  (s.reg (ringBase d ring)).toNat % 2 ^ 42 + s.ringNext d ring % 2 ^ s.ringLog2 d ring * 128

/-- The ring has a submitted descriptor that SCHED may read now, which it never does in Calm (R50, R52, R388, R399). -/
def State.mayRead (s : State) (d : Die) (ring : Nat) : Bool :=
  decide (ring < 64) && !s.inCalm && s.ringRuns d ring && s.ringNext d ring != s.ringTail d ring && s.ringMay d ring && !s.heldAt (s.descPa d ring)

/-- The location of a descriptor holds something (R27). -/
def State.descReadable (s : State) (pa : Nat) : Bool := isDram pa && s.holds pa 128 && !s.lostAt pa

/-- LAUNCH_DESCRIPTOR_CHECK: the ring's next submitted descriptor is read and checked (R46, R47). One that was killed before
it was read and whose done_va is unusable completes with status 4, since its counter cannot be reached (DESIGN CHOICE,
log 104). -/
def execLaunchDescriptorCheck (die : Die) (ring : Nat) (s : State) : Host.Outcome State Fault Refusal :=
  commit s (
    if !s.mayRead die ring then s
    else if !s.descReadable (s.descPa die ring) then s.unreadLaunch die ring (s.ringNext die ring) (s.descPa die ring)
    else
      match (s.countStack (ringPart ring) (s.descPa die ring) 128).demand (askedBy (schedPage die) 0x12) (some (ringPart ring))
          (s.descPa die ring) 128 with
      | (t, some _) => t.unreadLaunch die ring (s.ringNext die ring) (s.descPa die ring)
      | (t, none) =>
        let l := launchOf die ring (s.ringNext die ring) (s.descPa die ring) (t.bytes (s.descPa die ring) 128) t
        let va := leAt (t.bytes (s.descPa die ring) 128) 0x30 8
        match (t.undoom l.key).doneAt die l.part va with
        | (u, .inl c) => (u.addLaunch l).unusable l va c 1
        | (u, .inr a) => (u.addLaunch (l.withDone a)).judgeLaunch (l.withDone a) (s.doomed.contains l.key))

/-! ### Resources of a launch (R46 step 2) -/

/-- Bytes of a kernel image in memory, or a cause of R45. -/
def imageRead (d : Die) (p : Nat) : List (Nat × Nat) → State → State × (Nat ⊕ List Byte)
  | [], s => (s, .inr [])
  | (va, n) :: r, s =>
    match s.schedPlace d p va n .x with
    | (t, .inl c) => (t, .inl c)
    | (t, .inr a) =>
      match (t.countStack p a n).demand (askedBy (schedPage d) 0x12) (some p) a n with
      | (u, some _) => (u, .inl 4)
      | (u, none) =>
        match imageRead d p r u with
        | (w, .inr rest) => (w, .inr (u.bytes a n ++ rest))
        | x => x

/-- The image lies in a controller being initialised, for which SCHED waits (R399). -/
def State.imageHeld (s : State) (d : Die) (p va len : Nat) : Bool :=
  (granules va len).any (fun g => match (s.translate (schedPage d) d p g.1 .x).2 with
    | .ok ga _ => s.isLocal ga && s.heldAt (gaLocal ga)
    | _ => false)

/-- An image as instruction memory holds it. -/
def sparseBytes (b : List Byte) : List Host.Cell :=
  ((List.range b.length).zip b).filter (fun e => e.2 != 0)

/-- The header of an image (R65): queue mask and entry points, where it is in order. -/
def headerOf (len : Nat) (at_ : Nat → Nat → Nat) : Option (Nat × Nat × Nat) :=
  let a := at_ 8 4
  let e := at_ 0xC 4
  if at_ 0 4 = 0x314B4C4F ∧ at_ 4 2 = 1 ∧ a % 16 = 0 ∧ e % 16 = 0 ∧ 0x100 ≤ a ∧ 0x100 ≤ e ∧ a < len ∧ e < len then
    some (at_ 6 1, a, e)
  else none

def Image.field (m : Image) (off n : Nat) : Nat := leNat ((List.range n).map (fun i => memGet m.bytes (off + i)))

/-- Images that strands of a core use, resident or parked. -/
def State.usedImages (s : State) (d : Die) (c : Nat) : List Image :=
  let k := s.core d c
  let users := (s.resident d c).map (·.2) ++ k.parked.map (·.2)
  k.images.filter (fun m => users.any (fun x => x.part == m.part && x.kernelVa == m.va))

/-- The resident copy of a kernel on a core; a copy that no strand uses any more is discarded, so that a later launch reads
the image again (R46, R234). -/
def State.copyOn (s : State) (d : Die) (c p va : Nat) : Option Image :=
  (s.usedImages d c).find? (fun m => m.part == p && m.va == va)

/-- Physical queues in use on a core. -/
def State.usedQueues (s : State) (d : Die) (c : Nat) : List Nat := (s.resident d c).flatMap (fun e => e.2.qmap.map (·.2))

/-- A core has what a launch needs: its partition holds it, it is not being retired, and contexts, queues and instruction
memory suffice (R46, R66, R276). -/
def State.coreRoom (s : State) (l : Launch) (d : Die) (c queues : Nat) : Bool :=
  let img : Nat := match s.copyOn d c l.part l.kernelVa with | some _ => 0 | none => l.imageLen
  let used : Nat := ((s.usedImages d c).map (fun (m : Image) => m.len)).foldl (· + ·) 0
  s.holderOf d c == some l.part && !(s.core d c).retiring && !s.turnOver d c &&
    decide (l.perCore ≤ (s.freeCtx d c l.key).length) && decide (l.perCore * queues + (s.usedQueues d c).length ≤ 8) &&
    decide (used + img ≤ 131072)

/-- Physical queues for the logical queues of a mask. -/
def assignQueues (mask : Nat) (free : List Nat) : Map Nat := (bitList mask 8).zip free

/-- A strand as it enters Ready (R41, R65, R66). The scalar registers and the descriptor registers of a new strand, for
which the spec gives no values, start at zero (DESIGN CHOICE, log 96). -/
def strandFresh (s : State) (l : Launch) (d : Die) (index mask a e len : Nat) (free : List Nat) : Strand :=
  { stat := .ready, part := l.part, launch := l.key, index := index, argVa := l.argVa, prio := l.prio, queueMask := mask,
    imageLen := len, kernelVa := l.kernelVa, wdUs := l.wdUs, tag := l.tag, apc := a, epc := e, scal := [], desc := [], queues := [],
    qmap := assignQueues mask free, shadow := none, busy := [], cycles := 0, cycSince := s.cycle8.get d, tiles := 0,
    wdElapsed8 := 0, wdSince8 := s.time8 d, waitA := none, waitE := none, savedA := none, savedE := none, endA := false,
    endE := false, blockA := none, blockE := none, progA := none, progE := none, inflight := [], nextId := 0, groups := [],
    cmds := [], badCmd := none, parkAsked := false, parkedFor := none, parkOrder := 0, atMark := false,
    mcastCount := [], lastRun := s.now }

/-- A launch's strands placed on one core; images nothing uses make room (R46 step 3, R234). -/
def State.startOn (s : State) (l : Launch) (img : Image) (mask a e : Nat) (first : Nat) (dc : Die × Nat) : State :=
  let d := dc.1
  let c := dc.2
  let k := s.core d c
  let copy := (s.copyOn d c l.part l.kernelVa).getD img
  let kept := if (s.copyOn d c l.part l.kernelVa).isSome then s.usedImages d c else s.usedImages d c ++ [img]
  let h := (headerOf copy.len copy.field).getD (mask, a, e)
  let ctxs := (s.freeCtx d c l.key).take l.perCore
  let s1 := (s.setCore d c { k with
    images := kept, reserved := k.reserved.filter (fun x => x.2 != l.key), turnAsked := false }).wakeDie d
  ((List.range ctxs.length).zip ctxs).foldl (fun t e2 =>
    let free := (List.range 8).filter (fun q => !(t.usedQueues d c).contains q)
    t.setStrand (strandKey d c e2.2) (strandFresh t l d (first + e2.1) h.1 h.2.1 h.2.2 copy.len free)) s1

/-- LAUNCH_RESOURCED: contexts, queues and instruction memory are free on every selected core: the contexts pass through Loading
while the image is read, and the strands enter Ready; otherwise the launch waits, or completes where it can never start (R42,
R46, R47, R65, R66; log 52). -/
def execLaunchResourced (die : Die) (ring index : Nat) (s : State) : Host.Outcome State Fault Refusal :=
  commit s (
    match s.launches.find? (fun l => l.key == launchKey die ring index) with
    | none => s
    | some l =>
      if !s.launchTurn l then s
      else if !s.coresOk l.part l.coreMask then s.abortLaunch l 2
      else if s.imageHeld die l.part l.kernelVa l.imageLen then s.reserveCtx l
      else
        let cs := selCores l.coreMask
        match imageRead die l.part (granules l.kernelVa l.imageLen) s with
        | (t, .inl cause) => t.unusable l l.kernelVa cause 0
        | (t, .inr b) =>
          let copies := cs.map (fun c => t.copyOn c.1 c.2 l.part l.kernelVa)
          let img : Image := ⟨l.part, l.kernelVa, l.imageLen, sparseBytes b, [], []⟩
          let lead := if copies.all (·.isSome) then (copies.headD none).getD img else img
          match headerOf lead.len lead.field with
          | none => (t.raise (schedPage die) 0x0201 (some l.part) l.descPa (l.tag + ring * 2 ^ 32) false false).abortLaunch l 2
          | some (mask, a, e) =>
            let q := (bitList mask 8).length
            if 8 < l.perCore * q then
              (t.raise (schedPage die) 0x0201 (some l.part) l.descPa (l.tag + ring * 2 ^ 32) false false).abortLaunch l 2
            else if !cs.all (fun c => t.coreRoom l c.1 c.2 q) then (t.preemptFor l).holdLaunch l
            else
              let u := ((List.range cs.length).zip cs).foldl (fun (v : State) c => v.startOn l img mask a e (c.1 * l.perCore) c.2)
                t
              let v := (u.setLaunch { l with stage := .started, seq := u.parkSeq + 1 }).unask l.key
              cs.foldl (fun (w : State) c => w.restatCore c.1 c.2) { v with parkSeq := v.parkSeq + 1 })

/-- A strand of a launch, ended or not, still has an ST, STA, ATADD or GATHER in flight (R231). -/
def State.launchBusy (s : State) (key : Nat) : Bool :=
  let lives (x : Strand) : Bool := x.launch == key &&
    (x.live || x.inflight.any (fun m => m.kind == .st || m.kind == .sta || m.kind == .atadd || m.kind == .gather))
  s.strands.any (fun e => match e.2 with | some x => lives x | none => false) ||
  s.cores.any (fun e => match e.2 with | some c => c.parked.any (fun y => lives y.2) | none => false)

/-- The last strand of a launch has ended or halted and the launch's writes are performed (R46 steps 4 and 5). -/
def State.launchComplete (s : State) (die : Die) (ring index : Nat) : State :=
  match s.launches.find? (fun l => l.key == launchKey die ring index) with
  | none => s
  | some l =>
    if (l.stage ≠ .started ∧ l.stage ≠ .ending) ∨ s.launchBusy l.key then s
    else s.finishLaunch l (l.result.getD (0, 0)).1 (l.result.getD (0, 0)).2

/-- The deadline of a launch has passed: the miss is noted and the interrupt raised (R361). -/
def State.noteLate (s : State) (d : Die) (l : Launch) : State := (s.setLaunch { l with missed := true }).missIrq d

/-- The miss of a launch is recorded as abandoned (R361). -/
def State.abandonLate (s : State) (d : Die) (l : Launch) : State :=
  (s.missRecord (schedPage d) l.part (s.now - l.deadline / 1000 * 1000) (missCause l.thermalSeen l.unmodelledSeen l.armedLate) true 0
    l.tag).setLaunch { l with missDone := true }

/-- LAUNCH_DEADLINE_PASS: the deadline of a launch passes before its completion: the miss is noted and the interrupt raised;
once 1,000 ms more have passed, the record is written as abandoned (R48, R361). -/
def execLaunchDeadlinePass (die : Die) (ring index : Nat) (s : State) : Host.Outcome State Fault Refusal :=
  commit s (
    match s.launches.find? (fun l => l.key == launchKey die ring index) with
    | none => s
    | some l =>
      if l.deadline = 0 ∨ l.stage = .done ∨ l.missDone then s
      else if !l.missed then (s.carry (l.deadline / 1000 * 1000)).noteLate die l
      else (s.carry (l.deadline / 1000 * 1000 + 1000000000)).abandonLate die l)

/-- SCHED_LAUNCH_KILL (R53). -/
def writeLaunchKill (who : Who) (d : Die) (v : Word) (s : State) : Written :=
  rootOnly who (fun t =>
    let r := bits v.toNat 0 6
    let idx := bits v.toNat 16 16
    let key := launchKey d r idx
    match t.launches.find? (fun l => l.key == key) with
    | some l =>
      if l.stage = .done then written t
      else if l.stage = .checked then written (t.abortLaunch l 3)
      else written ((t.decideLaunch key 3 0).killStrands (fun _ x => x.launch == key))
    | none =>
      let from_ := t.ringNext d r
      if (idx + 65536 - from_) % 65536 < (t.ringTail d r + 65536 - from_) % 65536 && !t.doomed.contains key then
        written { t with doomed := t.doomed ++ [key] }
      else written t) s

def execSchedLaunchKill (who : Who) (die : Die) (value : Word) (s : State) : Host.Outcome State Fault Refusal :=
  commit s (crossed who (schedPage die + 0x918) 8 value (writeLaunchKill who die value) s)

/-! ### Translation invalidation (R58, R438) -/

/-- What a word of SCHED_TLB_INVAL keeps: an end of the range, and in word 0 the partition and the all bit (R438). -/
def tlbWord (word : Nat) (v : Word) : Word :=
  w64 (setBits 0 16 42 (bits v.toNat 16 42) + (if word = 0 then v.toNat % 32 else 0))

/-- SCHED_TLB_INVAL: a go starts an invalidation, or is held with its words; a write by a partition other than 0 is refused
with a record. -/
def writeTlbInval (who : Who) (d : Die) (word : Nat) (v : Word) (s : State) : Written :=
  if !who.root then denied (s.raise (schedPage d) 0x0203 who.part v.toNat word false false)
  else
    let s1 := s.setReg (schedPage d + 0x990 + 8 * word) (tlbWord word v)
    if word = 1 ∧ bit v.toNat 0 then written { s1 with inval := s1.inval ++ [⟨s1.reg (schedPage d + 0x990), v⟩] } else written s1

def execSchedTlbInval (who : Who) (die : Die) (word : Nat) (value : Word) (s : State) : Host.Outcome State Fault Refusal :=
  commit s (if 1 < word then s else crossed who (schedPage die + 0x990 + 8 * word) 8 value (writeTlbInval who die word value) s)

/-- TLB_INVAL_DONE: the running invalidation ends on both dies, and a held one runs (R58). -/
def execTlbInvalDone (s : State) : Host.Outcome State Fault Refusal :=
  commit s (
    match s.inval with
    | [] => s
    | x :: r =>
      let w := x.word0.toNat
      ({ s with inval := r } : State).dropTlb (bits w 0 4) (bit w 4) (bits w 16 42 * 0x10000) (bits x.word1.toNat 16 42 * 0x10000 + 0xFFFF))

/-! ### Core time (R357) -/

/-- A core's time up to now charged to its holder. -/
def State.settleCore (s : State) (d : Die) (c : Nat) : State :=
  let k := s.core d c
  let s1 := match s.holderOf d c with
    | some p => s.bump (schedPage d) (partOff p + 0x18) 64 (s.now - k.chargedAt)
    | none => s
  s1.setCore d c { k with chargedAt := s.now }

/-! ### Partitions (R343 to R347) -/

/-- The configuration is one that R343 allows. -/
def State.partsOk (s : State) : Bool :=
  let gs := (List.range 16).filter (fun p => s.flag (schedPage .windward + partOff p) 1 && p != 0)
  let onG := gs.filter (fun p => s.partOn p)
  [Die.windward, Die.leeward].all (fun d =>
    onG.all (fun g => (List.range 16).all (fun q =>
      q == g || !s.partOn q ||
        ((s.coreMask d g &&& s.coreMask d q) == 0 && (s.halves d g &&& s.halves d q) == 0 && (s.rvrMask d g &&& s.rvrMask d q) == 0))) &&
    (List.range 8).all (fun j => gs.all (fun g => gs.all (fun q =>
      g == q || !(bit (s.halves d g) (2 * j) && bit (s.halves d q) (2 * j + 1))))) &&
    decide (((List.range 16).map (fun p => s.fld (schedPage d + partOff p + 4) 22 6)).foldl (· + ·) 0 ≤ 56) &&
    (List.range 8).all (fun j => gs.all (fun g => (List.range 2).all (fun h =>
      !bit (s.halves d g) (2 * j + h) ||
        (s.stack (d.idx * 8 + j)).own.all (fun e => !(e.1 % 2 == h && bit e.2 4 && e.2 != g + 16))))))

/-- A partition loses what it runs: its launches end with status 3, its stack commands are killed, its layout and shadow
descriptors cancelled (R346). -/
def State.disablePart (s : State) (p : Nat) : State :=
  let s1 := (s.launches.filter (fun l => l.part == p)).foldl (fun t l =>
    if l.stage = .checked then t.abortLaunch l 3 else if l.stage = .done then t else t.decideLaunch l.key 3 0) s
  let s2 := s1.killStrands (fun _ x => x.part == p)
  let s3 := (List.range 16).foldl (fun t n => (writeStkKillAll .scc n p 1 t).1) s2
  let s4 := (s3.layCancel .windward p none).layCancel .leeward p none
  let cancel (l : List Shadow) : List Shadow := l.map (fun x => if x.part = p then { x with cancelled := true } else x)
  { s4 with shadow := ⟨cancel s4.shadow.w, cancel s4.shadow.l⟩ }

/-- Launches that have started on a core end with status 3 where their partition loses it; those that have not complete
with status 2 (R46, R346). -/
def State.loseCore (s : State) (p : Nat) (d : Die) (c : Nat) : State :=
  let keys := ((s.resident d c).map (·.2) ++ (s.core d c).parked.map (·.2)).filter (fun x => x.part == p) |>.map (·.launch)
  let s1 := keys.dedup.foldl (fun t k => t.decideLaunch k 3 0) s
  let s2 := s1.killStrands (fun _ x => x.part == p && keys.contains x.launch)
  (s2.launches.filter (fun l => l.part == p && l.stage == .checked && (selCores l.coreMask).contains (d, c))).foldl
    (fun t l => t.abortLaunch l 2) s2

/-- Check state gone from a span that is written whole, and the flip-masks armed there consumed (R262, R268). -/
def State.freshSpan (s : State) (a len : Nat) : State :=
  let s1 : State := { s with units := s.units.filter (fun e => !(decide (a ≤ e.1) && decide (e.1 < a + len))) }
  (s1.armedUnits a len).foldl (fun t u => t.consumeFlip u a len) s1

/-- A span of storage set to zero, its check state with it. -/
def State.zeroSpan (s : State) (a len : Nat) : State := (s.clearMem a len).freshSpan a len

/-- A span of storage moved: the target is written whole, and every unit of it that receives a byte of data that cannot be
delivered is poisoned in DRAM, and stays uncorrectable in SRAM (R263). -/
def State.moveSpan (s : State) (src dst len : Nat) : State :=
  let bad := (s.badUnits src len).filter (fun e => e.2.bad)
  let s1 := (s.copyMem src dst len).freshSpan dst len
  bad.foldl (fun t e =>
    let lo := Nat.max e.1 src - src + dst
    let n := Nat.min (e.1 + unitSize e.1) (src + len) - Nat.max e.1 src
    if isDram dst then t.poison lo n
    else (List.range ((lo % 8 + n + 7) / 8)).foldl (fun u i => u.setUnit (lo + 8 * i) { e.2 with poison := false, uncorr := true }) t) s1

/-- A core that passes from one partition to another: the new holder's image replaces the whole scratchpad, zero where the
partition has just been given the core (R235, R348, R351). -/
def State.passCore (s : State) (d : Die) (c : Nat) : State :=
  match s.holderOf d c with
  | none => s
  | some q =>
    let k := s.core d c
    if k.spadPart = some q then s
    else
      let s1 := if k.spadPart.isSome then s.moveSpan (s.imageBase q d c) (spadBase d c) spadBytes else s
      s1.setCore d c { s1.core d c with spadPart := some q, holder := some q, turnStart := s.now, turnAsked := false, leftAt := s.now }

/-- A core given to a partition: its image is cleared (R348). -/
def State.gainCore (s : State) (p : Nat) (d : Die) (c : Nat) : State := s.zeroSpan (s.imageBase p d c) 0x200000

/-- A change of a partition's configuration registers takes effect, with what follows from it (R346, R348, R362). -/
def State.reassign (t : State) (p : Nat) (apply : State → State) : State :=
  let u := apply t
  let dies := [Die.windward, Die.leeward]
  let named (v : State) (e : Die) (c : Nat) : Bool := v.partOn p && v.namesCore p e c
  let touched := dies.flatMap (fun e => (((List.range 96).filter (fun c => named t e c != named u e c)).map (fun c => (e, c))))
  -- time up to now belongs to the old holders
  let t1 := touched.foldl (fun v x => v.settleCore x.1 x.2) t
  let given := dies.flatMap (fun e => (((List.range 96).filter (fun c => !t.namesCore p e c && u.namesCore p e c)).map (fun c => (e, c))))
  let off := t.partOn p && !u.partOn p
  let u1 := apply t1
  let u2 := if off then u1.disablePart p else u1
  let u3 := touched.foldl (fun v x => if named t x.1 x.2 && !off then v.loseCore p x.1 x.2 else v) u2
  let u4 := touched.foldl (fun v x => v.passCore x.1 x.2) (given.foldl (fun v x => v.gainCore p x.1 x.2) u3)
  ((u4.stirLull .windward).stirLull .leeward).noteUnmodelled (some p)

/-- A configuration write that R343 judges: refused whole, or applied. `apply` writes the registers. -/
def judgePart (who : Who) (d : Die) (p : Nat) (extra : State → Bool) (apply : State → State) (s : State) : Written :=
  rootRwl who (schedPage d) (fun t =>
    let u := apply t
    let err := schedPage d + 0x904
    if !(u.partsOk && extra u) then t.setFlag err 0 true else (t.reassign p apply).setFlag err 0 false) s

/-- A partition is disabled as clearing its enable would (R346, R425). -/
def State.clearEnable (s : State) (p : Nat) : State :=
  if !s.partOn p then s
  else s.reassign p (fun t => [Die.windward, Die.leeward].foldl (fun (u : State) e => u.setFlag (schedPage e + partOff p) 0 false) t)

/-- The fields of SCHED_PART_CFG_p as written, on both dies (R341, R347): partition 0 is always enabled and never Guaranteed,
and a cap or a weight outside its range is left. -/
def State.applyPartCfg (s : State) (p x : Nat) : State :=
  [Die.windward, Die.leeward].foldl (fun u e =>
    let a := schedPage e + partOff p
    let u1 := if p = 0 then u else (u.setFlag a 0 (bit x 0)).setFlag a 1 (bit x 1)
    let u2 := u1.setFlag a 2 (bit x 2)
    let u3 := if 1 ≤ bits x 3 10 ∧ bits x 3 10 ≤ 1000 then u2.setFld a 3 10 (bits x 3 10) else u2
    if bits x 16 16 = 0 then u3 else u3.setFld a 16 16 (bits x 16 16)) s

/-- A partition may be enabled: its save areas are enabled on both dies, outside Maintenance mode (R347, R425). -/
def State.mayEnable (s : State) (p x : Nat) (u : State) : Bool :=
  p == 0 || !bit x 0 || s.partOn p ||
    (u.flag (schedPage .windward + 0x908) 0 && u.flag (schedPage .leeward + 0x908) 0 && !u.flag (pg u.active Blk.mgmt 0 + 0x104) 2)

/-- SCHED_PART_RES_p as written. -/
def State.applyPartRes (s : State) (d : Die) (p x : Nat) : State := s.setReg (schedPage d + partOff p + 4) (w64 (x % 2 ^ 28))

/-- `n` words of a core mask as written, from word `i`. -/
def State.applyPartCores (s : State) (d : Die) (p i n x : Nat) : State :=
  (List.range n).foldl (fun u j => u.setReg (schedPage d + partOff p + 8 + 4 * (i + j)) (w64 (x / 2 ^ (32 * j) % 2 ^ 32))) s

/-- SCHED_PART_CFG_p. -/
def writePartCfg (who : Who) (d : Die) (p : Nat) (v : Word) (s : State) : Written :=
  judgePart who d p (s.mayEnable p v.toNat) (fun t => t.applyPartCfg p v.toNat) s

/-- SCHED_PART_RES_p. -/
def writePartRes (who : Who) (d : Die) (p : Nat) (v : Word) (s : State) : Written :=
  judgePart who d p (fun _ => true) (fun t => t.applyPartRes d p v.toNat) s

/-- SCHED_PART_CORES_p: `n` words of its three from word `i`, in one write. -/
def writePartCores (who : Who) (d : Die) (p i n : Nat) (v : Nat) (s : State) : Written :=
  judgePart who d p (fun _ => true) (fun t => t.applyPartCores d p i n v) s

/-- SCHED_PART_CORES_p written whole, in two accesses where it is held at the crossing. -/
def crossedCores (who : Who) (off value : Nat) (k : State → Written) (s : State) : State :=
  match s.regSleeps off with
  | some d => { s.wakeDie d with
      held := s.held ++ [.regWrite who off 8 (w64 value), .regWrite who (off + 8) 4 (w64 (value / 2 ^ 64))] }
  | none => (k s).1

/-- SCHED_PART_CFG_WRITE: one of a partition's three configuration registers, the core mask whole (R343). -/
def execSchedPartCfgWrite (who : Who) (die : Die) (off : Nat) (value : Nat) (s : State) : Host.Outcome State Fault Refusal :=
  commit s (
    let p := (off - 0xC00) / 0x40
    if off < 0xC00 ∨ 0x1000 ≤ off then s
    else
      let o := (off - 0xC00) % 0x40
      if o = 0x0 then crossed who (schedPage die + off) 4 (w64 value) (writePartCfg who die p (w64 value)) s
      else if o = 0x4 then crossed who (schedPage die + off) 4 (w64 value) (writePartRes who die p (w64 value)) s
      else if o = 0x8 then crossedCores who (schedPage die + off) value (writePartCores who die p 0 3 value) s
      else s)

/-! ### Multicast (R117 to R120) -/

/-- SCHED_MCAST_ALLOT: refused whole above 16 units (R120). -/
def writeMcastAllot (who : Who) (d : Die) (v : Word) (s : State) : Written :=
  rootRwl who (schedPage d) (fun t =>
    if 16 < nibbleSum v.toNat then t.setFlag (schedPage d + 0xB10) 6 true
    else ((t.setReg (schedPage d + 0xB08) v).setFlag (schedPage d + 0xB10) 6 false).noteUnmodelled none) s

def execSchedMcastAllotWrite (who : Who) (die : Die) (value : Word) (s : State) : Host.Outcome State Fault Refusal :=
  commit s (crossed who (schedPage die + 0xB08) 8 value (writeMcastAllot who die value) s)

def State.setMcast (s : State) (e : McastEntry) : State := { s with mcast := s.mcast.map (fun x => if x.id = e.id then e else x) }

/-- Entries of an instruction pushed into its queue while there is room; it commits once none is left (R68, R69). `n` is how
many of its entries stand in the queue already. -/
def State.pushLoad (s : State) (i : Sid) (m : Inflight) (q : Nat) (todo : List QEntry) : State × Bool :=
  match s.strand i.key with
  | none => (s, true)
  | some x =>
    match pushAll (todo.map (fun e => (q, e))) x with
    | (y, []) =>
      (((s.setStrand i.key ((dropInflight m.id (y.advance .access)).setBlocked .access none)).restatCore i.die i.core).settleFence i,
        true)
    | (y, rest) =>
      let m1 : Inflight := { m with rest := some (rest.map (fun (e : Nat × QEntry) => e.2)), byteOff := m.byteOff + (todo.length - rest.length) }
      let z : Strand := { y with inflight := y.inflight.map (fun (w : Inflight) => if w.id = m.id then m1 else w) }
      (((s.setStrand i.key (z.setBlocked .access (some (.queue q)))).restatCore i.die i.core), false)

/-- An entry that has served every member is freed; it stays known, so that a later load of its number is an ordinary one
(R118). -/
def McastEntry.served1 (e : McastEntry) (key : Nat) : McastEntry :=
  let s := e.served ++ [key]
  if e.membersM1 + 1 ≤ s.length then { e with served := s, freed := true, data := none } else { e with served := s }

/-- MCAST_DELIVER: a member that has issued its load receives the entry's data as its AQ has room; where a word of it is
uncorrectable the strand halts instead (R118, R263). -/
def execMcastDeliver (die : Die) (entry : Nat) (sid : Sid) (s : State) : Host.Outcome State Fault Refusal :=
  commit s (
    match s.mcast.find? (fun e => e.id == entry && e.die == die && !e.freed), s.strand sid.key with
    | some e, some x =>
      match e.data, x.inflight.find? (fun m => m.mcast == some entry) with
      | some b, some m =>
        match m.dest with
        | .queue q _ =>
          if !x.active || e.served.contains sid.key || x.padBehind m.id then s
          else if e.bad then
            (s.raise (schedPage die) 0x0301 (some x.part) (gaLocal e.ga) 1 false false).haltStrand sid 0x08 (m.runs.map (·.va)).headI
          else
            let todo := m.rest.getD ((toEntries b).drop m.byteOff)
            match s.pushLoad sid m q todo with
            | (t, true) =>
              (if e.fetcher = sid.key then t else t.bump (t.corePage sid.die sid.core) 0x058 32 1).setMcast (e.served1 sid.key)
            | (t, false) => t
        | _ => s
      | _, _ => s
    | _, _ => s)

/-- The lines of a load of pool pages looked up (R244). -/
def State.askLines (s : State) (part : Nat) (m : Inflight) : State :=
  (m.runs.flatMap (·.pieces)).foldl (fun (t : State) p => if p.2.2 && t.isLocal p.1 then t.poolAsk part (gaLocal p.1) p.2.1 else t) s

/-- A load that reads for itself in place of its merge entry: an ordinary load, counted, that looks its lines up (R118,
R244). -/
def State.goSolo (s : State) (i : Sid) (part : Nat) (m : Inflight) : State × Inflight :=
  ((s.bump (s.corePage i.die i.core) 0x05C 32 1).askLines part m, { m with mcast := none, remote := [], got := [], err := none, rest := none })

/-- A member of a multicast that was not served when the hold time ended reads for itself: R118 speaks only of the loads
that come later (DESIGN CHOICE, log 105). -/
def State.leaveMcast (s : State) (entry k : Nat) : State :=
  match s.strand k with
  | some x =>
    let r := x.inflight.foldl (fun (acc : State × List Inflight) m =>
      if m.mcast = some entry then
        let y := acc.1.goSolo (keySid k) x.part m
        (y.1, acc.2 ++ [y.2])
      else (acc.1, acc.2 ++ [m])) (s, [])
    if x.inflight.any (fun m => m.mcast == some entry) then r.1.setStrand k { x with inflight := r.2 } else s
  | none => s

/-- The members of a multicast not yet served. -/
def McastEntry.left (e : McastEntry) : List Nat := e.joined.filter (fun k => !e.served.contains k)

/-- An entry that is freed holds nothing. -/
def McastEntry.free (e : McastEntry) : McastEntry := { e with freed := true, data := none }

/-- MCAST_HOLD_EXPIRY: hold_us after the fetch the entry is freed, and the members not yet served read for themselves
(R118). -/
def execMcastHoldExpiry (die : Die) (entry : Nat) (s : State) : Host.Outcome State Fault Refusal :=
  commit s (
    match s.mcast.find? (fun e => e.id == entry && e.die == die && !e.freed) with
    | none => s
    | some e =>
      if e.data.isNone then s
      else (e.left.foldl (fun (v : State) k => v.leaveMcast entry k)
        (s.carry (e.fetchedAt + s.fld (schedPage die + 0xB00) 0 7 * 1000))).setMcast e.free)

/-! ### Sharing a core (R350, R351) -/

/-- turn_p in ns (R350). -/
def State.turnNs (s : State) (d : Die) (c p : Nat) : Nat :=
  let w := ((s.coreUsers d c).map s.weight).foldl (· + ·) 0
  Nat.max 50000 (s.fld (schedPage d + 0x900) 0 17 * 1000 * s.weight p / w)

/-- When the holder last had a strand Ready or Running on a core, where it has none now (R350). -/
def State.idleFrom (s : State) (d : Die) (c p : Nat) : Option Nat :=
  let mine := (s.resident d c).filter (fun e => e.2.part == p)
  if mine.any (fun e => e.2.stat == .ready || e.2.stat == .running) then none
  else some (mine.foldl (fun m e => Nat.max m e.2.lastRun) (Nat.max (s.core d c).turnStart (s.core d c).leftAt))

/-- The holder's strands are asked to park (R351 step 1). -/
def State.askTurn (s : State) (d : Die) (c p : Nat) : State :=
  let s1 := s.setCore d c { s.core d c with turnAsked := true }
  (s1.resident d c).foldl (fun t e =>
    if e.2.part = p then t.setStrand (strandKey d c e.1) { e.2 with parkAsked := true, parkedFor := none } else t) s1

/-- TURN_END: the turn of a shared core's holder has lasted its time while another partition waits (R350, R351). -/
def execTurnEnd (die : Die) (core : Nat) (s : State) : Host.Outcome State Fault Refusal :=
  commit s (
    match s.holderOf die core with
    | none => s
    | some p =>
      if s.turnOver die core || (s.nextHolder die core p).isNone then s
      else (s.carry ((s.core die core).turnStart + s.turnNs die core p)).askTurn die core p)

/-- TURN_IDLE_EXPIRY: the holder has had no strand Ready or Running for 5 µs while another waits (R350). -/
def execTurnIdleExpiry (die : Die) (core : Nat) (s : State) : Host.Outcome State Fault Refusal :=
  commit s (
    match s.holderOf die core with
    | none => s
    | some p =>
      match s.idleFrom die core p with
      | none => s
      | some t =>
        if s.turnOver die core || (s.nextHolder die core p).isNone then s else (s.carry (t + 5000)).askTurn die core p)

/-! ### Parking and resuming (R94, R99, R353) -/

/-- A wait killed by pre-emption keeps the time it has spent (R99). -/
def Strand.killWait (x : Strand) (s : State) (d : Die) (str : Stream) : Strand :=
  match x.ctrWait str with
  | some w => (x.setCtrWait str none).setSaved str (some (w.elapsed s d))
  | none => x

/-- A begun load into a queue keeps the number of entries pushed; any other load is killed, and runs again (R93). -/
def Inflight.parked (m : Inflight) : Inflight := { m with remote := [], got := [], rest := none }

/-- The loads and waits a parking strand leaves are killed: what a load had begun to write is no longer known (R93, R94). -/
def State.killLoads (s : State) (i : Sid) (x : Strand) : State :=
  ((x.inflight.foldl (fun (t : State) m => (t.forgetFills x.part m).scrambleDest m.dest) s).orphanReqs i (x.inflight.map (·.id))).dropWaits i.key

/-- The strand as it is saved: its registers, queues and pcs as they were, the time its waits have spent, its cycles counted
and its place in the order of parking (R94, R99, R353). -/
def Strand.parkedForm (x : Strand) (s : State) (d : Die) : Strand :=
  let y := (x.killWait s d .access).killWait s d .execute
  let z := if x.waitE.isNone then y.stopWatch s d else y
  { z with
    stat := .parked
    parkAsked := false
    parkOrder := s.parkSeq + 1
    cycles := z.cycles + (s.cycle8.get d - z.cycSince)
    cycSince := s.cycle8.get d
    qmap := []
    blockA := if x.fenced .access then x.blockA else none
    blockE := none
    atMark := false
    inflight := z.inflight.map (fun m => m.parked) }

/-- One more parked strand of a core; a context it left for a launch that lacked one is reserved for that launch (R66). -/
def Core.keep (k : Core) (ctx : Nat) (z : Strand) : Core :=
  { k with
    parked := k.parked ++ [(ctx, z)]
    reserved := match z.parkedFor with | some l => k.reserved ++ [(ctx, l)] | none => k.reserved }

/-- The context of a strand that parks is free. -/
def State.unseat (s : State) (i : Sid) : State := { s with strands := mdel s.strands i.key, parkSeq := s.parkSeq + 1 }

/-- The strand leaves its context and is held among the core's parked strands. -/
def State.vacate (s : State) (i : Sid) (z : Strand) : State :=
  (((s.unseat i).setCore i.die i.core (((s.unseat i).core i.die i.core).keep i.ctx z)).dropHolds i).restatCore i.die i.core

/-- KILL_POINT_PARK: a strand asked to park is at a kill point and none of its instructions that are never killed is in
flight: its waits and loads are killed, its context and queues are saved, and its context is free (R93, R94, R99). -/
def execKillPointPark (sid : Sid) (s : State) : Host.Outcome State Fault Refusal :=
  commit s (
    match s.strand sid.key with
    | none => s
    | some x =>
      if !x.active || !x.parkAsked || !x.atKillPoint || x.inflight.any (fun m => m.kind.stays) then s
      else (s.killLoads sid x).vacate sid (x.parkedForm (s.killLoads sid x) sid.die))

/-- A parked strand may come back: its partition holds the core, no turn or retirement asks it away, its context and as many
queues as it declares are free, and the launch it made room for has started or completed (R66, R353). -/
def State.mayResume (s : State) (d : Die) (c ctx : Nat) (x : Strand) : Bool :=
  let k := s.core d c
  let waits := match x.parkedFor with
    | some l => s.launches.any (fun y => y.key == l && y.stage == .checked)
    | none => false
  s.holderOf d c == some x.part && !k.retiring && !s.turnOver d c && !waits &&
    (s.freeCtx d c x.launch).contains ctx && decide (popcount x.queueMask 8 + (s.usedQueues d c).length ≤ 8)

/-- A parked strand becomes Ready: its queues are mapped anew, its killed loads run again (R66, R94). -/
def State.resume (s : State) (d : Die) (c ctx : Nat) (x : Strand) : State :=
  let i : Sid := ⟨d, c, ctx⟩
  let k := s.core d c
  let free := (List.range 8).filter (fun q => !(s.usedQueues d c).contains q)
  let s1 := (s.setCore d c { k with parked := k.parked.filter (fun e => e.1 != ctx || e.2 != x), turnAsked := false }).wakeDie d
  let y : Strand := { x with
    stat := .ready, qmap := assignQueues x.queueMask free, cycSince := s1.cycle8.get d, wdSince8 := s1.time8 d, parkedFor := none,
    parkOrder := 0, lastRun := s1.now }
  let r := y.inflight.foldl (fun (acc : State × List Inflight) m =>
    let a := acc.1.retranslate i x.part m
    let b := if a.1.unitFetches m then a
      else
        let g := if m.mcast.isSome then a.1.goSolo i x.part a.2
          else if m.kind == .ld || m.kind == .gather || m.kind == .sld then (a.1.askLines x.part a.2, a.2) else a
        g.1.sendReads i x.part g.2
    (b.1, acc.2 ++ [b.2])) (s1, [])
  ((r.1.setStrand i.key { y with inflight := r.2 }).restatCore d c).settleFence i

/-- STRAND_RESUME (R353): the parked strand of a partition that left this context; a launch that still lacks contexts may
pre-empt again. -/
def execStrandResume (sid : Sid) (part : Nat) (s : State) : Host.Outcome State Fault Refusal :=
  commit s (
    match (s.core sid.die sid.core).parked.find? (fun e => e.1 == sid.ctx && e.2.part == part) with
    | none => s
    | some e =>
      if s.mayResume sid.die sid.core sid.ctx e.2 then (s.resume sid.die sid.core sid.ctx e.2).preemptAll sid.die sid.core else s)

/-- A core passes to a partition in its turn, and the scratchpad holds that partition's data. -/
def Core.handTo (k : Core) (q now : Nat) : Core :=
  { k with holder := some q, turnAsked := false, spadPart := some q, turnStart := now, leftAt := now }

/-- Since when a partition has waited for a core in the turn that runs: from the start of the turn with a strand of its own
there, and otherwise from when the first of its launches came to wait (R350, R358). -/
def State.waitFrom (s : State) (p : Nat) (d : Die) (c : Nat) : Nat :=
  let strands := (s.resident d c).any (fun e => e.2.part == p) || (s.core d c).parked.any (fun e => e.2.part == p)
  let came := (s.launches.filter (fun l => l.part == p && s.launchTurn l && (selCores l.coreMask).contains (d, c))).map (·.at_)
  if strands then (s.core d c).turnStart else Nat.max (s.core d c).turnStart (came.foldl Nat.min s.now)

/-- The waits of the other partitions are counted and the core's time charged (R357, R358). -/
def State.chargeTurn (s : State) (d : Die) (c p : Nat) : State :=
  (((s.coreUsers d c).filter (fun y => y != p && s.waitsFor y d c)).foldl
    (fun t y => t.bump (schedPage d) (partOff y + 0x38) 64 (s.now - s.waitFrom y d c)) s).settleCore d c

/-- The scratchpad is saved for the partition that leaves and restored for the one that comes (R348, R351). -/
def State.exchangeSpad (s : State) (d : Die) (c p q : Nat) : State :=
  (s.moveSpan (spadBase d c) (s.imageBase p d c) spadBytes).moveSpan (s.imageBase q d c) (spadBase d c) spadBytes

/-- A core handed from the partition that holds it to another (R351 steps 2 to 4). -/
def State.handOver (s : State) (d : Die) (c p q : Nat) : State :=
  let t := (s.chargeTurn d c p).exchangeSpad d c p q
  t.setCore d c ((t.core d c).handTo q s.now)

/-- The parked strands of a partition on a core, highest priority first and then as they were parked (R351 step 5). -/
def Core.parkedOf (k : Core) (q : Nat) : List (Nat × Strand) :=
  (k.parked.filter (fun e => e.2.part == q)).mergeSort (fun a b =>
    decide (b.2.prio < a.2.prio) || (a.2.prio == b.2.prio && decide (a.2.parkOrder ≤ b.2.parkOrder)))

/-- The holder's strands have all left their contexts and nothing of the core is in flight. -/
def State.coreLeft (s : State) (d : Die) (c p : Nat) : Bool :=
  !(s.resident d c).any (fun e => e.2.part == p) &&
    (List.range 8).all (fun i => match s.strand (strandKey d c i) with | some x => x.inflight.isEmpty | none => true)

/-- The parked strands come back one by one where their contexts and queues are free, and what is left over is judged for
preemption (R351 step 5, R353). -/
def State.reseat (s : State) (d : Die) (c : Nat) (l : List (Nat × Strand)) : State :=
  (l.foldl (fun (t : State) (e : Nat × Strand) =>
    if t.mayResume d c e.1 e.2 then t.resume d c e.1 e.2 else t) s).preemptAll d c

/-- The partition that holds a core and the one whose turn comes next (R350, R351). -/
def State.nextTurn (s : State) (d : Die) (c : Nat) : Option (Nat × Nat) :=
  (s.holderOf d c).bind (fun p => (s.nextHolder d c p).map (fun q => (p, q)))

/-- TURN_SWITCH: the holder's strands have parked: the scratchpad is saved and the next holder's restored, core time is
charged, waits are counted, and the new holder's parked strands become Ready (R351, R352, R357, R358). -/
def execTurnSwitch (die : Die) (core : Nat) (s : State) : Host.Outcome State Fault Refusal :=
  commit s (
    match s.nextTurn die core with
    | none => s
    | some e =>
      if !s.turnOver die core || !s.coreLeft die core e.1 then s
      else (s.handOver die core e.1 e.2).reseat die core ((s.core die core).parkedOf e.2))

end Sys2Proof.Machine
end

