-- ==== Sys2Proof/Machine/Monitors.lean ====
section
/-!
DEFINITION. The deadline monitors of the FAULT pages (R360 to R363).
-/
namespace Sys2Proof.Machine

/-- First register of monitor m of a die (R363). -/
def dlBase (d : Die) (m : Nat) : Nat := faultPage d + 0x800 + m * 0x20

def monKey (d : Die) (m : Nat) : Nat := d.idx * 64 + m

/-- A monitor's deadline: whole microseconds (R360). -/
def State.dlAt (s : State) (d : Die) (m : Nat) : Nat := (s.reg (dlBase d m)).toNat / 1000 * 1000
def State.dlPart (s : State) (d : Die) (m : Nat) : Nat := s.fld (dlBase d m + 0x18) 1 4
def State.dlArmed (s : State) (d : Die) (m : Nat) : Bool := s.flag (dlBase d m + 0x1C) 0
def State.dlMissed (s : State) (d : Die) (m : Nat) : Bool := s.flag (dlBase d m + 0x1C) 1

/-- The monitor is no longer armed; a disarmed one watches nothing. -/
def State.dlDisarm (s : State) (d : Die) (m : Nat) : State :=
  ({ s.stir with
      monitors := mset none s.monitors (monKey d m) none
      quiley := { s.quiley with watches := mset [] s.quiley.watches (monKey d m) [] } } : State).setFlag (dlBase d m + 0x1C) 0 false

/-- The counter has reached its target; one in a poisoned unit counts as below it, and the poison is recorded (R361). -/
def State.dlReached (s : State) (d : Die) (m : Nat) : State × Bool :=
  let a := (s.reg (dlBase d m + 8)).toNat
  match s.demand (askedBy (faultPage d) 0x11) (some (s.dlPart d m)) a 8 with
  | (t, some _) => (t, false)
  | (t, none) => (t, decide ((t.reg (dlBase d m + 0x10)).toNat ≤ t.load a 8))

/-- The deadline has passed with the counter below its target: missed is set and the interrupt raised (R361). -/
def State.dlMiss (s : State) (d : Die) (m : Nat) : State :=
  (s.setFlag (dlBase d m + 0x1C) 1 true).missIrq d

/-- Quiley tells the requests of a step that its monitor has recorded a miss (R320). -/
def State.tellMiss (s : State) (d : Die) (m late cause : Nat) : State :=
  (mget [] s.quiley.watches (monKey d m)).foldl (fun (t : State) k =>
    match t.req k with
    | some r => if r.stat.live then t.reqEvent r 0x0E cause (Nat.min late (2 ^ 32 - 1)) else t
    | none => t) s

/-- A monitor's DEADLINE_MISS record, with the lateness up to now and its cause; the monitor disarms (R361, R362). -/
def State.dlRecord (s : State) (d : Die) (m : Nat) (abandoned : Bool) : State :=
  let st := dlBase d m + 0x1C
  let late := match mget none s.monitors (monKey d m) with | some x => x.armedLate | none => false
  let cause := missCause (s.flag st 4) (s.flag st 5) late
  let s1 := (s.missRecord (faultPage d) (s.dlPart d m) (s.now - s.dlAt d m) cause abandoned m
    (s.reg (dlBase d m + 0x10)).toNat).setFld st 6 2 cause
  (s1.tellMiss d m (s.now - s.dlAt d m) cause).dlDisarm d m

/-- The counter has reached target and the monitor disarms. -/
def State.dlMet (s : State) (d : Die) (m : Nat) : State := (s.setFlag (dlBase d m + 0x1C) 2 true).dlDisarm d m

/-- An armed monitor whose counter has been performed anew: met at or before the deadline, late after it (R361). -/
def State.dlEvaluate (s : State) (d : Die) (m : Nat) : State :=
  match s.dlReached d m with
  | (t, false) => t
  | (t, true) =>
    if t.now ≤ t.dlAt d m && !t.dlMissed d m then t.dlMet d m
    else (if t.dlMissed d m then t else t.dlMiss d m).dlRecord d m false

/-- Arming (R361): refused with bad where the counter does not lie, aligned, in the package's own memory (R89); late where
the deadline has already passed. -/
def State.dlArm (s : State) (d : Die) (m : Nat) : State :=
  let st := dlBase d m + 0x1C
  let a := (s.reg (dlBase d m + 8)).toNat
  let clean := s.setFld st 0 6 0
  if a % 8 ≠ 0 || !isDram a || !clean.holds a 8 then clean.setFlag st 3 true
  else
    let p := clean.dlPart d m
    let late := decide (clean.dlAt d m < clean.now)
    let s1 := ({ clean with monitors := mset none clean.monitors (monKey d m) (some ⟨late, false⟩) } : State).setFlag st 0 true
    if late then (s1.dlMiss d m).dlEvaluate d m
    else ((s1.setFlag st 4 (s1.thermalOn p)).setFlag st 5 (s1.unmodelledOn p)).dlEvaluate d m

/-- arm written 0: nothing while disarmed; before the deadline the monitor disarms, after it the miss is recorded as
abandoned (R361). -/
def State.dlRelease (s : State) (d : Die) (m : Nat) : State :=
  if !s.dlArmed d m then s
  else if s.dlMissed d m then s.dlRecord d m true
  else if s.now ≤ s.dlAt d m then s.dlDisarm d m
  else (s.dlMiss d m).dlRecord d m true

/-- FAULT_DL_CTRL's fields: max_late_ms of 0 is ignored, and the partition is kept while armed (R361, R363). -/
def State.dlFields (s : State) (d : Die) (m : Nat) (v : Nat) : State :=
  let c := dlBase d m + 0x18
  let t := if bits v 16 16 = 0 then s else s.setFld c 16 16 (bits v 16 16)
  if t.dlArmed d m then t else t.setFld c 1 4 (bits v 1 4)

/-- FAULT_DL_CTRL: its fields, then arming or release (R361, R363). -/
def writeDlCtrl (who : Who) (d : Die) (m : Nat) (v : Word) (s : State) : Written :=
  rootOnly who (fun t =>
    if 64 ≤ m then written t
    else if !bit v.toNat 0 then written ((t.dlFields d m v.toNat).dlRelease d m)
    else if (t.dlFields d m v.toNat).dlArmed d m then written (t.dlFields d m v.toNat)
    else written ((t.dlFields d m v.toNat).dlArm d m)) s

/-- FAULT_DL_DEADLINE, FAULT_DL_CTR, FAULT_DL_TARGET: ignored while armed (R361). -/
def writeDlWord (who : Who) (d : Die) (m off : Nat) (v : Word) (s : State) : Written :=
  rootOnly who (fun t => if t.dlArmed d m then written t else written (t.setReg (dlBase d m + off) v)) s

/-- FAULT_DL_ARM: arm written 1. -/
def execFaultDlArm (who : Who) (die : Die) (m : Nat) (value : Word) (s : State) : Host.Outcome State Fault Refusal :=
  commit s (writeDlCtrl who die m (value ||| 1) s).1

/-- FAULT_DL_DISARM: arm written 0. -/
def execFaultDlDisarm (who : Who) (die : Die) (m : Nat) (value : Word) (s : State) : Host.Outcome State Fault Refusal :=
  commit s (writeDlCtrl who die m (value &&& ~~~ (1 : Word)) s).1

/-- DL_COUNTER_CHANGE: the counter of an armed monitor has changed (R361). -/
def execDlCounterChange (die : Die) (m : Nat) (s : State) : Host.Outcome State Fault Refusal :=
  commit s (if s.dlArmed die m then s.dlEvaluate die m else s)

/-- DL_DEADLINE_PASS: the deadline of an armed monitor passes; a counter that has reached its target by then is met
(R361). -/
def execDlDeadlinePass (die : Die) (m : Nat) (s : State) : Host.Outcome State Fault Refusal :=
  commit s (
    if !s.dlArmed die m || s.dlMissed die m then s
    else if s.now ≤ s.dlAt die m then
      let t := s.dlEvaluate die m
      if t.dlArmed die m then (t.carry (t.dlAt die m)).dlMiss die m else t
    else s.dlMiss die m)

/-- DL_MAX_LATE_EXPIRY: max_late_ms after the deadline of a missed monitor, the record is written as abandoned (R361). -/
def execDlMaxLateExpiry (die : Die) (m : Nat) (s : State) : Host.Outcome State Fault Refusal :=
  commit s (
    if !s.dlArmed die m || !s.dlMissed die m then s
    else (s.carry (s.dlAt die m + s.fld (dlBase die m + 0x18) 16 16 * 1000000)).dlRecord die m true)

end Sys2Proof.Machine
end

