-- ==== Sys2Proof/Machine/Housekeeping.lean ====
section
/-!
DEFINITION. Housekeeping: the package cap (R37 to R40), current measurement (R368 to R372), the estimator (R373, R374),
thermal limits and power-down (R375 to R377), AVSBus (R378 to R381), leadership (R382 to R384) and liveness (R385, R301).
-/
namespace Sys2Proof.Machine

def hkPg (d : Die) : Nat := pg d Blk.hk 0
def thermPg (d : Die) : Nat := pg d Blk.therm 0
def measPg (d : Die) : Nat := pg d Blk.meas 0
def avsPg (d : Die) : Nat := pg d Blk.avs 0
def leadPg (d : Die) : Nat := pg d Blk.lead 0
def pwrstPg (d : Die) : Nat := pg d Blk.pwrst 0
/-- First register of a current channel (R387). -/
def chanReg (d : Die) (c : Nat) : Nat := measPg d + 0x100 + c * 0x20

def State.setHk (s : State) (d : Die) (h : Hk) : State := { s with hk := s.hk.set d h }

/-- The package's power alert line, low while asserted. -/
def State.alert (s : State) : State := { s with pins := { s.pins with pwrAlertN := false } }

/-! ### Core clock (R39, R40, R375, R380) -/

/-- The HKC processor of a die does not run: the die is in Calm, and its exit has not begun (R392, R394). -/
def State.hkSleeps (s : State) (d : Die) : Bool := s.power d == 2 && !s.flag (pwrstPg d + 0x108) 3

/-- A current channel of either die has failed (R40, R372). -/
def State.anyChanFailed (s : State) : Bool := bothDies.any (fun d => (List.range 5).any (fun c => s.flag (chanReg d c + 0x14) 3))

/-- The clock a die may reach beside the power limit: the thermal limit and the 1.2 GHz holds. -/
def State.otherLim (s : State) (d : Die) : Nat :=
  let h := s.hk.get d
  Nat.min h.thermLim (if h.holdPll || h.holdCap || s.anyChanFailed then 24 else 38)

/-- The lower of the limits applies (R40). -/
def State.clockLim (s : State) (d : Die) : Nat := Nat.min (s.hk.get d).powerLim (s.otherLim d)

/-- A voltage write of the core rail waits on the die's bus (R380). -/
def State.askVolt (s : State) (d : Die) (mv : Nat) : State :=
  let h := s.hk.get d
  s.setHk d { h with avs := h.avs ++ [⟨2, 0, .setVolt, mv, 0⟩] }

/-- The core clock of a die, in units of 50 MHz. -/
def State.setClock (s : State) (d : Die) (c : Nat) : State := s.setFld (thermPg d + 0x148) 8 6 c

/-- Limits applied: a clock above its limit is lowered, its voltage after it; a raise above it is given up and the voltage
lowered back (R39, R380). -/
def State.applyLimit (s : State) (d : Die) : State :=
  let lim := s.clockLim d
  let s1 := match (s.hk.get d).raiseTo with
    | some r => if lim < r then (s.setHk d { s.hk.get d with raiseTo := none }).askVolt d (s.fusedMv (s.clock50 d)) else s
    | none => s
  if lim < s1.clock50 d then (s1.setClock d lim).askVolt d (s1.fusedMv lim) else s1

def State.applyLimits (s : State) : State := ((s.applyLimit .windward).applyLimit .leeward).noteThermal

/-- A raise by one step begins: the higher voltage is written first (R380). -/
def State.startRaise (s : State) (d : Die) (c : Nat) : State :=
  (s.setHk d { s.hk.get d with raiseTo := some c }).askVolt d (s.fusedMv c)

/-- What a die does to its clock and duty, as THERM_STATE shows it (R387). -/
def State.showTherm (s : State) (d : Die) : State :=
  let h := s.hk.get d
  let zone := s.fld (thermPg d + 0x100) 17 2
  let act := if zone = 3 then 4 else if s.duty8 d < 8 then 3 else if h.throttling || decide (h.thermLim < 38 ∧ !h.rateOn) then 2
    else if h.rateOn then 1 else 0
  s.setFld (thermPg d + 0x148) 0 3 act

/-! ### Power-down (R377) -/

/-- The rails a die's bus drives, in the order they are turned off. -/
def railsOf : Die → List Rail
  | .windward => [.coreW, .sramW, .vddq, .stk, .vpp]
  | .leeward => [.coreL, .sramL, .link, .lp]

/-- The ports of a die go to electrical idle (R301). -/
def State.idlePorts (s : State) (d : Die) : State :=
  (List.range 12).foldl (fun (t : State) i => t.setPort (d.idx * 12 + i) { t.port (d.idx * 12 + i) with txIdle := true }) s

/-- The endpoint's transmitters go to electrical idle: the host sees Surprise Down (R418). -/
def State.linkDown (s : State) : State :=
  ({ s with host := { s.host with linkUp := false } } : State).setReg (pg s.active Blk.pcie 0 + 0x100) 0

/-- The HKC withdraws the alive token of a die, and the ports and the endpoint that it keeps alive go idle (R301, R418). -/
def State.withdraw (s : State) (d : Die) : State :=
  let s1 := (s.setFlag (hkPg d + 0x100) 2 false).idlePorts d
  if d = s.active then s1.linkDown else s1

/-- A threshold event of R375 or R371 is sent to management, and in band to the collector where one is set (R421, R422). -/
def State.telemetry (s : State) (kind : Nat) : State :=
  let s1 : State := { s with out := s.out ++ [.platformEvent kind] }
  let g := pg s.active Blk.mgmt 0
  if !s1.flag (g + 0x100) 7 then s1
  else
    let b := s1.freeBytes 64
    b.2.sendPacket s.active true
      { ptype := 0x20, vc := 3, falling := false, hopsLeft := s1.fld (vroutePage s.active + 0x120) 0 5
        dst := s1.fld (g + 0x108) 0 16, src := s1.selfId, part := 0, poison := false, reqId := 0, srcDie := s.active, addr := 0
        arg := 0, payload := b.1, link := ⟨0, 0⟩ }

/-- The package is in the split state (R384): no transfer of the sideband gets through (R366). -/
def State.isSplit (s : State) : Bool := bothDies.any (fun d => s.flag (leadPg d + 0x104) 1)

/-- The dies that a die's HKC reaches: both, or itself alone while the sideband fails (R366, R384). -/
def State.reached (s : State) (d : Die) : List Die := if s.isSplit then [d] else bothDies

/-- One die's power-down begins: its token withdrawn, its core clock stopped, queued transactions discarded (R377, R379). -/
def State.dieDown (s : State) (d : Die) : State :=
  let h := s.hk.get d
  if h.downRails.isSome then s
  else (s.withdraw d).setHk d { h with
    stopped := true, raiseTo := none, avs := [], offRail := none
    downRails := some ((railsOf d).filter (fun r => s.pins.rails.contains r)) }

/-- The power-down sequence begins on the die that found its cause and, over the sideband, on the other (R377). -/
def State.powerDown (s : State) (d : Die) : State := (s.reached d).foldl State.dieDown s

/-- The package is Off once no rail but VDD_HK is left (R388). -/
def State.offWhenBare (s : State) : State :=
  if s.pins.rails.all (· == .hk) then bothDies.foldl (fun (t : State) d => t.setFld (pwrstPg d + 0x108) 0 2 3) s else s

/-- A rail is gone. -/
def State.dropRail (s : State) (r : Rail) : State := { s with pins := { s.pins with rails := s.pins.rails.filter (· != r) } }

/-- Select of a rail on its die's bus (R378). -/
def railSelect : Rail → Nat
  | .coreW | .coreL | .hk => 0
  | .sramW | .sramL => 1
  | .stk | .link => 2
  | .vddq | .lp => 3
  | .vpp => 4

/-- The rail at a select of a die's bus (R378). -/
def railAt (d : Die) (sel : Nat) : Option Rail := (railsOf d).find? (fun r => railSelect r == sel)

/-- The next rail of a power-down is to be turned off: a power-mode write, before all other frames (R377 to R379). -/
def State.askOff (s : State) (d : Die) (r : Rail) (rest : List Rail) : State :=
  let h := s.hk.get d
  s.setHk d { h with downRails := some rest, offRail := some r, offAt := s.now, avs := h.avs ++ [⟨1, railSelect r, .off, 0, 0⟩] }

/-- The last rail that a die's power-down turned off did not go: only after 2 ms does the next one follow (R377). -/
def State.awaitOff (s : State) (d : Die) : State :=
  match (s.hk.get d).offRail with
  | some r => if s.pins.rails.contains r then s.carry ((s.hk.get d).offAt + 2000000) else s
  | none => s

/-- RAIL_OFF_STEP: the rail before has fallen below 10% of nominal, or 2 ms have passed: the next rail of a power-down is turned
off. It waits for the frame before to complete or fail (R377, R379). -/
def execRailOffStep (die : Die) (s : State) : Host.Outcome State Fault Refusal :=
  commit s (
    match (s.hk.get die).downRails with
    | some (r :: rest) => if (s.hk.get die).avs.any (fun q => q.kind == .off) then s else (s.awaitOff die).askOff die r rest
    | _ => s)

/-- THERM_TRIP_N is asserted. -/
def State.assertTrip (s : State) : State := { s with pins := { s.pins with thermTripN := false } }

/-- A diode has tripped: latched, recorded, and told to management (R375, R377). -/
def State.noteTrip (s : State) (d : Die) (diode : Nat) (reading : Int) : State :=
  ((s.setFlag (thermPg d + 0x100 + diode * 4) 20 true).raise (thermPg d) 0x0604 none diode (unsignedOf reading 64) false
    true).telemetry 0x0604

/-- TRIP_COMPARE: a diode at 115 °C or above trips: the pin is asserted and latched, a record interrupts work, and the
power-down begins (R375, R377). -/
def execTripCompare (die : Die) (diode : Nat) (reading : Int) (s : State) : Host.Outcome State Fault Refusal :=
  commit s (
    if 8 < diode ∨ reading < 115 * 16 ∨ s.flag (thermPg die + 0x100 + diode * 4) 20 then s
    else (s.noteTrip die diode reading).assertTrip.powerDown die)

/-- A rail below its minimum (R454): as a failed transaction, then the power-down. -/
def State.railLow (s : State) (d : Die) (sel : Nat) : State :=
  let a := avsPg d
  let s1 := ((s.setFlag (a + 0x100) 1 true).setFld (a + 0x100) 2 3 sel).raise a 0x0609 none sel 0 false false
  s1.alert.powerDown d

/-! ### AVSBus (R378 to R380) -/

/-- The request served next: the most urgent, the oldest among equals (R379). -/
def Hk.nextAvs (h : Hk) : Option AvsReq := minBy (fun r => r.urgency) h.avs

/-- A frame was answered, or given up. -/
def Hk.dropAvs (h : Hk) (r : AvsReq) : Hk := { h with avs := h.avs.erase r }

/-- A frame is to be repeated. -/
def Hk.retryAvs (h : Hk) (r : AvsReq) : Hk :=
  { h with avs := replaceFirst (fun x => x == r) (fun x => { x with tries := x.tries + 1 }) h.avs }

/-- A failed raise is not retried for 100 ms (R380). -/
def State.failRaise (s : State) (d : Die) (r : AvsReq) : State :=
  let h := s.hk.get d
  if r.kind == .setVolt && (match h.raiseTo with | some c => r.mv == s.fusedMv c | none => false) then
    s.setHk d { h with raiseTo := none, raiseNotBefore := s.now + 100000000 } else s

/-- The fourth failure of a frame is recorded (R379). -/
def State.failAvs (s : State) (d : Die) (r : AvsReq) : State :=
  ((((s.failRaise d r).setFlag (avsPg d + 0x100) 1 true).setFld (avsPg d + 0x100) 2 3 r.sel).raise (avsPg d) 0x0609 none r.sel 0 false
    false).alert

/-- What a frame's answer brings: a reading stored with its time (R367), or a rail turned off (R377). -/
def State.avsDone (s : State) (d : Die) (r : AvsReq) (v : Int) : State :=
  let h := s.hk.get d
  let times := mset 0 h.times (32 + r.sel) s.now
  match r.kind with
  | .readCur => s.setHk d { h with railCur := mset 0 h.railCur r.sel v, times := times }
  | .readTemp => s.setHk d { h with railTemp := mset 0 h.railTemp r.sel v, times := times }
  | .off => match railAt d r.sel with | some x => (s.dropRail x).offWhenBare | none => s
  | _ => s

/-- AVS_TRANSACTION: the next waiting frame is answered; a bad answer is repeated at most three times, and the fourth failure
is recorded (R379). -/
def execAvsTransaction (die : Die) (answer : AvsAnswer) (s : State) : Host.Outcome State Fault Refusal :=
  commit s (
    match (s.hk.get die).nextAvs with
    | none => s
    | some r =>
      match answer with
      | .ok v => (s.setHk die ((s.hk.get die).dropAvs r)).avsDone die r v
      | _ =>
        if r.tries < 3 then (s.setHk die ((s.hk.get die).retryAvs r)).bump (avsPg die) 0x040 32 1
        else (s.setHk die ((s.hk.get die).dropAvs r)).failAvs die r)

/-- A raise has ended; while the estimator is stale, no other begins for 100 ms (R374). -/
def State.endRaise (s : State) (d : Die) : State :=
  let h := s.hk.get d
  s.setHk d { h with
    raiseTo := none, staleNotBefore := if s.flag (measPg d + 0x204) 30 then s.now + 100000000 else h.staleNotBefore }

/-- VOLTAGE_SETTLED: the voltage of a raise has been written and has settled: the clock steps (R380). -/
def execVoltageSettled (die : Die) (s : State) : Host.Outcome State Fault Refusal :=
  commit s (
    match (s.hk.get die).raiseTo with
    | none => s
    | some c => if (s.hk.get die).avs.any (fun r => r.kind == .setVolt) then s else ((s.endRaise die).setClock die c).showTherm die)

/-! ### Current channels (R368 to R372) -/

/-- High range of a channel in mA, and its low range, a fifth of it. -/
def highMa (d : Die) (c : Nat) : Nat := highRangeA d c * 1000
def lowMa (d : Die) (c : Nat) : Nat := highMa d c / 5

/-- Energy of one sample, in pJ: V × I × 4 µs (R370). -/
def samplePj (mv ma : Nat) : Nat := mv * ma * 4

/-- Energy added to a channel's counter, what is below 1 µJ kept (R370). -/
def State.addEnergy (s : State) (d : Die) (c : Nat) (x : Chan) (pj : Nat) : State × Chan :=
  (s.bump (chanReg d c) 0x008 64 ((x.ePj + pj) / 1000000), { x with ePj := (x.ePj + pj) % 1000000 })

/-- Currents of n invalid samples between two valid ones, by linear interpolation (R369). -/
def interpolate (before after n : Nat) : List Nat :=
  (List.range n).map (fun (j : Nat) =>
    ((before : Int) + ((after : Int) - before) * ((j : Int) + 1) / ((n : Int) + 1)).toNat)

/-- A channel taking its fine sample: range, validity, energy (R368 to R370). -/
def State.fineSample (s : State) (d : Die) (c mv : Nat) (m : CurSample) (x : Chan) : State × Chan :=
  let st := chanReg d c + 0x14
  let high := s.flag st 0
  if m.bad || m.saturated || decide (0 < x.invalidLeft) then
    let up := m.saturated && !high && x.invalidLeft == 0
    let cap := (m.coarse + 1) * highMa d c / 256
    ((if up then s.setFlag st 0 true else s),
     { x with
        invalidLeft := if up then 2 else x.invalidLeft - 1
        lowRun := 0, pendMv := x.pendMv ++ [mv], capMa := cap, mv := mv })
  else
    let n := x.pendMv.length
    let old := (x.pendMv.zip (interpolate x.lastValid m.fineMa n)).foldl (fun t e => t + samplePj e.1 e.2) 0
    let r := (s.bump (chanReg d c) 0x010 32 n).addEnergy d c x (old + samplePj mv m.fineMa)
    let run := if high && decide (m.fineMa * 10 < lowMa d c * 7) then x.lowRun + 1 else 0
    let up := !high && decide (lowMa d c * 9 < m.fineMa * 10)
    let down := run == 64
    let s1 := if up then r.1.setFlag st 0 true else if down then r.1.setFlag st 0 false else r.1
    (s1.setReg (chanReg d c) (w64 (m.fineMa % 2 ^ 32)),
     { r.2 with
        pendMv := [], lastValid := m.fineMa, lowRun := if down then 0 else run
        invalidLeft := if up || down then 2 else 0, capMa := m.fineMa, mv := mv })

/-- The fine sample takes part in the comparisons of R371. -/
def fineValid (m : CurSample) (x : Chan) : Bool := !m.bad && !m.saturated && x.invalidLeft == 0

/-- Fine and coarse path disagree by more than 10% of the high range (R372). -/
def pathsDiffer (d : Die) (c : Nat) (m : CurSample) : Bool :=
  let h := highMa d c
  decide (h * 256 < 10 * (Nat.max (m.fineMa * 256) (m.coarse * h) - Nat.min (m.fineMa * 256) (m.coarse * h)))

/-- A sample reaches a limit in A, by its fine value where that is valid, or by its coarse one (R371). -/
def reaches (d : Die) (c : Nat) (m : CurSample) (valid : Bool) (limit : Nat) : Bool :=
  (valid && decide (limit * 1000 ≤ m.fineMa)) || decide (limit * 256 ≤ m.coarse * highRangeA d c)

/-- The sample in A as a record gives it: the larger of the values compared. -/
def sampleA (d : Die) (c : Nat) (m : CurSample) (valid : Bool) : Nat :=
  Nat.max (if valid then m.fineMa / 1000 else 0) (m.coarse * highRangeA d c / 256)

/-- CHANNEL_FAIL: a failed channel holds both dies at 1.2 GHz until it has read valid for 1 ms (R40, R372). -/
def State.chanHealth (s : State) (d : Die) (c : Nat) (m : CurSample) (valid : Bool) (x : Chan) : State × Chan :=
  let st := chanReg d c + 0x14
  let run := if pathsDiffer d c m then x.mismatchRun + 1 else 0
  let fails := m.bad || decide (16 ≤ run)
  let y := { x with mismatchRun := run }
  if fails then
    ((if s.flag st 3 then s else (s.setFlag st 3 true).raise (measPg d) 0x0608 none c 0 false false), { y with goodSince := none })
  else if !s.flag st 3 then (s, y)
  else if !valid then (s, { y with goodSince := none })
  else
    match x.goodSince with
    | none => (s, { y with goodSince := some s.now })
    | some t => if t + 1000000 ≤ s.now then (s.setFlag st 3 false, { y with goodSince := none }) else (s, y)

/-- One channel's sample: its health, the overcurrent limits (R371), then its fine path. The last part says that the trip
limit has been reached three times in a row. -/
def State.sampleChan (s : State) (d : Die) (c mv : Nat) (m : CurSample) (x : Chan) : State × Chan × Bool :=
  let st := chanReg d c + 0x14
  let valid := fineValid m x
  let amps := sampleA d c m valid
  let warn := reaches d c m valid (s.fld (chanReg d c + 0x18) 0 16)
  let trip := reaches d c m valid (s.fld (chanReg d c + 0x18) 16 16)
  let s1 := if warn then ((s.setFlag st 1 true).raise (measPg d) 0x0606 none c amps false false).alert.telemetry 0x0606 else s
  let s2 := if warn && c == 0 then s1.setHk d { s1.hk.get d with powerLim := 24 } else s1
  let run := if trip then x.tripRun + 1 else 0
  let x1 := { x with
    tripRun := run
    belowSince := if warn then none else match x.belowSince with | some t => some t | none => some s.now }
  let down := run == 3
  let s3 := if down then (s2.setFlag st 2 true).raise (measPg d) 0x0607 none c amps false true |>.telemetry 0x0607 else s2
  let a := s3.chanHealth d c m valid x1
  let b := a.1.fineSample d c mv m a.2
  (b.1, b.2, down)

/-! ### The package cap (R37 to R39) -/

/-- The leading die, if one leads (R382). -/
def State.leader (s : State) : Option Die := bothDies.find? (fun d => s.flag (leadPg d + 0x100 + 4) 0)

/-- A die's total of its last samples, in µW. -/
def Hk.dieUw (h : Hk) : Nat := (h.chans.map (fun x => x.capMa * x.mv)).foldl (· + ·) 0

/-- The package total as a die knows it, in µW: its own, and the other's as the sideband last carried it (R37, R366). -/
def State.packageUw (s : State) (d : Die) : Nat := (s.hk.get d).dieUw + (s.hk.get d).peerUw

/-- A die's samples reach the other over the sideband, outside the split state (R366). -/
def State.sendSamples (s : State) (d : Die) : State :=
  if s.isSplit then s else s.setHk d.other { s.hk.get d.other with peerUw := (s.hk.get d).dieUw }

def cap2800 : Nat := 2800000000
def cap2700 : Nat := 2700000000
def cap3300 : Nat := 3300000000

/-- Both dies' clocks lowered one step of 50 MHz, each followed by its voltage request (R38, R39). -/
def State.capStep (s : State) : State :=
  (bothDies.foldl (fun (t : State) d =>
    t.setHk d { t.hk.get d with powerLim := Nat.max 24 (Nat.min (t.hk.get d).powerLim (t.clock50 d) - 1) }) s).applyLimits

/-- Both dies' clocks lowered for the cap: a step each µs of the 4 µs between samples, one after the other (R39, R368). -/
def State.capLower (s : State) : State := s.capStep.capStep.capStep.capStep

/-- The leader evaluates the package total with its own sample (R37, R39). -/
def State.evaluateCap (s : State) (d : Die) : State :=
  if s.leader ≠ some d then s
  else
    let w := s.packageUw d
    let c := s.cap
    if cap2800 < w then
      let t0 := c.t0.getD s.now
      let big := decide (cap3300 < w)
      let s1 : State := { s with cap := { c with
        total := w, t0 := some t0, below2800 := none, below2700 := none, alert3300 := c.alert3300 || big, fresh := true } }
      let s2 := if big then (s1.raise (measPg d) 0x0605 none (w / 1000000) 0 false false).alert else s1
      if big || c.alert3300 || c.spent || decide (t0 + 8000000 ≤ s.now) then s2.capLower else s2
    else
      let since := match c.below2800 with | some t => t | none => s.now
      { s with cap :=
        { total := w
          t0 := none
          spent := (c.spent || c.t0.isSome) && decide (s.now < since + 100000000)
          below2800 := some since
          below2700 := if cap2700 < w then none else match c.below2700 with | some t => some t | none => some s.now
          alert3300 := false
          fresh := true } }

/-- PWR_ALERT_N is released once every channel has been below its warning for 1 ms and no excursion lasts (R39, R371). -/
def State.releaseAlert (s : State) : State :=
  let calm := bothDies.all (fun d => (s.hk.get d).chans.all (fun x =>
    match x.belowSince with | some t => decide (t + 1000000 ≤ s.now) | none => false))
  if calm && !s.cap.alert3300 && s.cap.t0.isNone then { s with pins := { s.pins with pwrAlertN := true } } else s

/-- Each HKC receives a cap command from the leader with every sample of the leader, outside the split state (R383). -/
def State.capCommands (s : State) (d : Die) : State :=
  if s.leader ≠ some d ∨ s.isSplit = true then s
  else bothDies.foldl (fun (t : State) d => t.setHk d { t.hk.get d with lastCap := t.now, holdCap := false }) s

/-- One channel of a die takes its sample, and whether a trip limit has been reached three times in a row. -/
def State.takeSample (s : State) (d : Die) (volts : List Nat) (e : Nat × CurSample) : State × Bool :=
  let x := (s.hk.get d).chans.getD e.1 Chan.reset
  let y := s.sampleChan d e.1 (volts.getD e.1 x.mv) e.2 x
  (y.1.setHk d { y.1.hk.get d with chans := (y.1.hk.get d).chans.set e.1 y.2.1 }, y.2.2)

/-- Every channel of a die takes its sample. -/
def State.takeSamples (s : State) (d : Die) (samples : List CurSample) (volts : List Nat) : State × Bool :=
  ((List.range 5).zip samples).foldl (fun (acc : State × Bool) e =>
    let y := acc.1.takeSample d volts e
    (y.1, acc.2 || y.2)) (s, false)

/-- What follows from a die's samples: cap commands, the package total, the alert, the limits (R37, R371, R383). -/
def State.sampled (s : State) (d : Die) : State :=
  ((((((s.sendSamples d).capCommands d).evaluateCap d).releaseAlert).applyLimits).showTherm .windward).showTherm .leeward

/-- CURRENT_SAMPLE: every channel of a die takes a sample; the leader evaluates the package total (R37, R368 to R372). In Calm the
HKC processor does not run (R394). -/
def execCurrentSample (die : Die) (samples : List CurSample) (voltsMv : List Nat) (s : State) :
    Host.Outcome State Fault Refusal :=
  commit s (
    let r := s.takeSamples die samples voltsMv
    if s.hkSleeps die then s
    else if r.2 then (r.1.sampled die).powerDown die
    else r.1.sampled die)

/-- POWER_EXCURSION_TIMER: 8 ms after an excursion began, with the total still above 2,800 W (R39). -/
def execPowerExcursionTimer (s : State) : Host.Outcome State Fault Refusal :=
  commit s (
    match s.cap.t0 with
    | none => s
    | some t => (s.carry (t + 8000000)).capLower)

/-- I_est of R373 in 1/65536 mA: c0 × leak + Σ c_k × a_k, of a window's leakage and rates. -/
def Hk.estimate (h : Hk) (leak : Nat) (rates : List Nat) : Int :=
  (h.coeff.zip (leak :: rates)).foldl (fun t e => t + e.1 * (e.2 : Int)) 0

/-- The estimate of the newest window (R373). -/
def Hk.estimateNow (h : Hk) : Int :=
  match h.windows with
  | (_ :: leak :: rates) :: _ => h.estimate leak rates
  | _ => 0

/-- One die's raise for the cap: a step above its clock, where no other limit forbids it and the estimator, unless it is
stale, does not predict that the cap would be exceeded (R39, R373, R374, R380). -/
def State.capRaise (s : State) (d : Die) : State :=
  let h := s.hk.get d
  let c := s.clock50 d + 1
  let stale := s.flag (measPg d + 0x204) 30
  let predicted := stale || Config.raiseFits h.estimateNow (s.packageUw (s.leader.getD d)) c
  if h.raiseTo.isSome || decide (s.now < h.raiseNotBefore) || (stale && decide (s.now < h.staleNotBefore)) || decide (s.otherLim d < c) || decide (38 < c) || h.stopped ||
      h.downRails.isSome || !predicted then s
  else (s.setHk d { h with powerLim := Nat.max h.powerLim c }).startRaise d c

/-- CLOCK_RAISE_TIMER: with the total at or below 2,700 W for 50 ms, the core clocks are raised a step; a further step
waits until a sample has evaluated the total again (R39). -/
def execClockRaiseTimer (s : State) : Host.Outcome State Fault Refusal :=
  commit s (
    match s.cap.below2700 with
    | none => s
    | some t =>
      if s.cap.fresh then
        (({ s.carry (t + 50000000) with cap := { s.cap with fresh := false } }).capRaise .windward).capRaise .leeward
      else s)

/-! ### Diodes (R375, R376) -/

/-- The zone a reading puts a diode in, with hysteresis (R375). -/
def State.zoneOf (s : State) (d : Die) (old : Nat) (t : Int) : Nat :=
  let lim (i : Nat) : Int := (s.fld (thermPg d + 0x140) (8 * (i - 1)) 8 : Int) * 16
  let hyst : Int := (s.fld (thermPg d + 0x144) 8 4 : Int) * 16
  let at_ (i : Nat) : Bool := decide (lim i ≤ t) || (decide (i ≤ old) && decide (lim i - hyst < t))
  if at_ 3 then 3 else if at_ 2 then 2 else if at_ 1 then 1 else 0

/-- The records of the thresholds a diode crosses upward, and their events (R375, R421, R440). -/
def State.zoneUp (s : State) (d : Die) (n old new : Nat) (t : Int) : State :=
  let one (z code detail : Nat) (v : State) : State :=
    if old < z ∧ z ≤ new then (v.raise (thermPg d) code none n detail false false).telemetry code else v
  one 3 0x0603 (unsignedOf t 64) (one 2 0x0602 0 (one 1 0x0601 (unsignedOf t 64) s))

/-- A diode register (R387): reading, validity, zone and rate-of-rise. -/
def State.showDiode (s : State) (d : Die) (n zone : Nat) (rising : Bool) (t : Int) : State :=
  let r := thermPg d + 0x100 + n * 4
  let keep := if s.flag r 20 then 2 ^ 20 else 0
  s.setReg r (w64 (unsignedOf t 16 + 2 ^ 16 + zone * 2 ^ 17 + boolNat rising * 2 ^ 19 + keep))

/-- Rise of the newest reading above the lowest of its window (R376). -/
def riseOf (l : List Int) : Int := l.headD 0 - l.foldl (fun a b => if b < a then b else a) (l.headD 0)

/-- A rate-of-rise event begins above the limit and ends below half of it (R376). -/
def State.rateNow (s : State) (d : Die) (on : Bool) (rise : Int) : Bool :=
  let q : Int := (s.fld (thermPg d + 0x144) 0 6 : Int) * 4
  if on then decide (q ≤ rise * 2) else decide (q < rise)

/-- A step of the throttle: 50 MHz down to 1.2 GHz, which from then on is the thermal limit, so that a raise under way is given
up (R380), then an eighth of the duty down to a quarter, which a rate-of-rise event
never takes (R375, R376). -/
def State.throttleDown (s : State) (d : Die) (gates : Bool) : State :=
  let c := s.clock50 d
  let t := (s.setHk d { s.hk.get d with thermLim := Nat.max 24 (c - 1) }).applyLimits
  if decide (c ≤ 24) && gates && decide (2 < s.duty8 d) then (t.setFld (thermPg d + 0x148) 3 3 (s.duty8 d - 2)).noteThermal
  else t

/-- DIODE_SAMPLE of the die diode: the warning, throttle, critical and rate-of-rise actions (R375, R376). -/
def State.dieDiode (d : Die) (s : State) (t : Int) : State :=
  let h := s.hk.get d
  let old := s.fld (thermPg d + 0x100) 17 2
  let zone := s.zoneOf d old t
  let hist := (t :: h.history).take 33
  let rate := s.rateNow d h.rateOn (riseOf hist)
  let begins := (2 ≤ zone && old < 2) || (rate && !h.rateOn)
  let s1 := s.setHk d { h with
    history := hist, rateOn := rate, throttling := decide (2 ≤ zone), diodeNow := t
    thermEntry := if begins && h.thermLim == 38 then s.clock50 d else h.thermEntry
    stopped := zone == 3 || h.downRails.isSome }
  let s2 := (s1.zoneUp d 0 old zone t).showDiode d 0 zone rate t
  let s3 := if rate && !h.rateOn then s2.raise (thermPg d) 0x0602 none 0 1 false false else s2
  ((if begins then s3.throttleDown d false else s3).showTherm d).noteThermal

/-- A stack diode's reading: refresh (R178), the governor (R185, R375), and a warning on a rate-of-rise (R376). The governor
that holds the stack's 48 W cap lets 375 to 512 NBUs run where the stack is not throttled; its law is not given, and the
number is a free value of that range at each reading (R38, R173, R186; DESIGN CHOICE, log 24). -/
def State.stackDiode (d : Die) (s : State) (k : Nat) (t : Int) : State :=
  let h := s.hk.get d
  let n := d.idx * 8 + k
  let old := s.fld (thermPg d + 0x100 + (k + 1) * 4) 17 2
  let was := s.flag (thermPg d + 0x100 + (k + 1) * 4) 19
  let zone := s.zoneOf d old t
  let hist := (t :: h.stackHist.getD k []).take 9
  let rate := s.rateNow d was (riseOf hist)
  let s1 := s.setHk d { h with stackHist := h.stackHist.set k hist }
  let s2 := (s1.zoneUp d (k + 1) old zone t).showDiode d (k + 1) zone rate t
  let s3 := if rate && !was then (s2.raise (thermPg d) 0x0601 none (k + 1) (unsignedOf t 64) false false).telemetry 0x0601 else s2
  let want := if 95 * 16 < t then 2 else if 85 * 16 < t then 1 else 0
  let s4 := if (s3.stack n).trained then s3.askRefresh (.stackRefresh n want) (s3.fld (stackPage n + 0x05C) 0 2) want else s3
  let gov := if zone = 3 then 0
    else if zone = 2 then (if old = 2 then (s4.stack n).gov else Nat.min 374 (Config.throttledGov s4.fresh))
    else 375 + Config.freeGov s4.fresh % 138
  let s5 : State := if zone = 3 ∨ (zone = 2 ∧ old = 2) then s4 else { s4 with fresh := s4.fresh + 1 }
  (if gov = (s5.stack n).gov then s5 else s5.setStack n { s5.stack n with gov := gov }).noteThermal

/-- The die diode rises: its newest reading is above that of four samples before (R376). -/
def Hk.rising (h : Hk) : Bool :=
  match h.history with
  | t :: r => decide (r.getD 3 (r.getLastD t) < t)
  | [] => false

/-- The throttle is released: the duty comes back first and the clock second, up to where the throttle began (R375). -/
def State.throttleUp (s : State) (d : Die) : State :=
  let h := s.hk.get d
  if s.duty8 d < 8 then s.setFld (thermPg d + 0x148) 3 3 (s.duty8 d)
  else if h.thermLim = 38 then s
  else if h.thermEntry ≤ h.thermLim then s.setHk d { h with thermLim := 38 }
  else
    let c := s.clock50 d + 1
    let t := s.setHk d { h with thermLim := h.thermLim + 1 }
    if h.raiseTo.isSome || decide (t.clockLim d < c) || decide (s.now < h.raiseNotBefore) then t else t.startRaise d c

/-- THROTTLE_STEP_TIMER: each ms the throttle lowers a step while the die diode rises, and once released the duty comes back
first and the clock second, up to where the throttle began (R375, R376). -/
def execThrottleStepTimer (die : Die) (s : State) : Host.Outcome State Fault Refusal :=
  commit s (
    let h := s.hk.get die
    if s.hkSleeps die then s
    else if h.throttling || h.rateOn then
      (if h.rising then (s.throttleDown die h.throttling).showTherm die else s.showTherm die)
    else (s.throttleUp die).showTherm die)

/-! ### The scan round (R367, R381, R454) -/

/-- Least voltage of a measured rail in mV (R451), by channel; the core rail's is R381's matter. -/
def minMv (d : Die) (c : Nat) : Nat :=
  match c, d with
  | 1, _ => 728
  | 2, .windward => 1067
  | 3, .windward => 388
  | 4, .windward => 1746
  | 2, .leeward => 825
  | 3, .leeward => 873
  | _, _ => 0

/-- UNDERVOLTAGE: the core rail more than 30 mV low in three rounds: the clock is lowered to the highest point the reading
supports, or the power-down runs (R381). -/
def State.coreVolt (s : State) (d : Die) (mv : Nat) : State :=
  let h := s.hk.get d
  let c := s.clock50 d
  if s.fusedMv c ≤ mv + 30 then s.setHk d { h with uvRun := 0 }
  else if h.uvRun + 1 < 3 then s.setHk d { h with uvRun := h.uvRun + 1 }
  else
    let s1 := s.setHk d { h with uvRun := 0 }
    match ((List.range 15).map (fun i => 38 - i)).find? (fun x => decide (x < c) && decide (s.fusedMv x ≤ mv + 30)) with
    | some x => (((s1.setHk d { s1.hk.get d with powerLim := Nat.min (s1.hk.get d).powerLim x }).applyLimits).raise
        (measPg d) 0x060A none mv (x * 50) false false).showTherm d
    | none => (s1.raise (measPg d) 0x060A none mv 0 false false).powerDown d

/-- A reading of a die is taken now (R367). -/
def State.timed (s : State) (d : Die) (k : Nat) : State := s.setHk d { s.hk.get d with times := mset 0 (s.hk.get d).times k s.now }

/-- The core and SRAM rails of a die stand at, or on their way to or from, the retention voltage of Calm (R392). -/
def State.retains (s : State) (d : Die) : Bool := s.power d == 2 || (s.power d == 1 && s.flag (pwrstPg d + 0x108) 2)

/-- The rails of a round read: registers, then the checks of R381 and R454, which leave out a rail at retention voltage. -/
def State.railVolts (s : State) (d : Die) (mv : List Nat) : State :=
  let s1 := ((List.range 5).zip mv).foldl (fun (t : State) e =>
    (t.setReg (chanReg d e.1 + 4) (w64 (e.2 % 2 ^ 16))).timed d (16 + e.1)) s
  if (s1.hk.get d).downRails.isSome || decide (3 ≤ s1.power d) then s1
  else
    let s2 := match mv with | v :: _ => if s1.retains d then s1 else s1.coreVolt d v | [] => s1
    match ((List.range 5).zip mv).find? (fun e => decide (e.2 < minMv d e.1) && !(s.retains d && decide (e.1 < 2))) with
    | some e => if (s2.hk.get d).downRails.isSome then s2 else s2.railLow d e.1
    | none => s2

/-- A round that came late is counted (R367). -/
def State.countLate (s : State) (d : Die) (late : Bool) : State :=
  if late then s.setFld (hkPg d + 0x100) 16 16 (Nat.min (s.fld (hkPg d + 0x100) 16 16 + 1) 65535) else s

/-- The diodes of the die and of its stacks are read (R375, R376). -/
def State.readDiodes (s : State) (d : Die) (facts : ScanFacts) : State :=
  ((List.range 8).zip facts.stackDiode).foldl (fun (t : State) e => (State.stackDiode d t e.1 e.2).timed d (e.1 + 1))
    ((facts.dieDiode.foldl (State.dieDiode d) s).timed d 0)

/-- The round ends: one rail's current and temperature are asked for, one port's eye was measured (R367, R379). -/
def State.endRound (s : State) (d : Die) (eye : Nat) : State :=
  let h := s.hk.get d
  s.setHk d { h with
    avs := if h.downRails.isSome then h.avs else h.avs ++ [⟨3, h.roundRail, .readCur, 0, 0⟩, ⟨3, h.roundRail, .readTemp, 0, 0⟩]
    roundRail := (h.roundRail + 1) % (railsOf d).length
    roundPort := (h.roundPort + 1) % 12
    eyes := mset 0 h.eyes h.roundPort eye
    times := mset 0 h.times (48 + h.roundPort) s.now
    readAt := s.now }

/-- Reference age in ms, saturating (R387). -/
def State.refAgeMs (s : State) (d : Die) : Nat := Nat.min ((s.now - (s.hk.get d).refAt) / 1000000) (2 ^ 28 - 1)

/-- The instant at which the reference age passes stale_s (R373). -/
def State.staleAt (s : State) (d : Die) : Nat := (s.hk.get d).refAt + s.fld (measPg d + 0x208) 0 12 * 1000000000

/-- The estimator has gone stale (R373). -/
def State.goStale (s : State) (d : Die) : State :=
  (s.setFlag (measPg d + 0x204) 30 true).raise (measPg d) 0x060C none (s.refAgeMs d) 0 false false

/-- The calibration check of a round (R367, R373). -/
def State.checkStale (s : State) (d : Die) : State :=
  if !s.flag (measPg d + 0x204) 30 && decide (s.staleAt d < s.now) then s.goStale d else s

/-- SCAN_ROUND: the readings of a round and what follows from them (R367). In Calm the HKC processor does not run (R394). -/
def execScanRound (die : Die) (facts : ScanFacts) (s : State) : Host.Outcome State Fault Refusal :=
  commit s (
    if s.hkSleeps die then s
    else (((((s.countLate die facts.late).readDiodes die facts).railVolts die facts.railMv).checkStale die).endRound die
      facts.eyeMargin))

/-! ### The housekeeping clock (R365) -/

def State.setHoldPll (s : State) (d : Die) (b : Bool) : State := s.setHk d { s.hk.get d with holdPll := b }

/-- PLL_LOCK_LOSS: the domain falls back to 25 MHz, and the cores to 1.2 GHz. -/
def execPllLockLoss (die : Die) (s : State) : Host.Outcome State Fault Refusal :=
  commit s ((((((s.setFlag (hkPg die + 0x100) 0 false).setFlag (hkPg die + 0x100) 1 true).raise (hkPg die) 0x060B none 0 0 false
    false).setHoldPll die true).applyLimits).showTherm die)

/-- PLL_LOCK_REGAIN: the 200 MHz clock is back and the hold ends. -/
def execPllLockRegain (die : Die) (s : State) : Host.Outcome State Fault Refusal :=
  commit s (((s.setFlag (hkPg die + 0x100) 0 true).setFlag (hkPg die + 0x100) 1 false).setHoldPll die false)

/-! ### The estimator (R373, R374) -/

/-- An accepted update: the coefficients, the method, and the reference age (R373). -/
def State.calibrated (s : State) (d : Die) (coeff : List Int) (method : Nat) : State :=
  let r := measPg d + 0x204
  ((s.setHk d { s.hk.get d with coeff := coeff, refAt := s.now, quietRun := 0 }).setFld r 28 2 method).setFlag r 30 false

/-- A window of the estimator: the channel's mean, the leakage, and the rates; quiet ones in a row are counted (R373). -/
def Hk.window (h : Hk) (meanMa leak : Nat) (rates : List Nat) (quiet : Bool) : Hk :=
  { h with windows := ((meanMa :: leak :: rates) :: h.windows).take 256, quietRun := if quiet then h.quietRun + 1 else 0 }

/-- A window is quiet in itself (R373). -/
def quietWindow (spread : Nat) (spreads : List Nat) : Bool := decide (spread < 10) && spreads.all (fun x => decide (x < 20))

/-- Values vary by less than so many parts per thousand of their mean (R373; DESIGN CHOICE, log 111: of what the percentage is
taken). -/
def variesLess (l : List Nat) (ppt : Nat) : Bool :=
  let top := l.foldl Nat.max 0
  let low := l.foldl Nat.min top
  decide ((top - low) * 1000 * l.length < ppt * l.foldl (· + ·) 0) || top == 0

/-- The last eight windows vary little among themselves: the mean by less than 1%, every rate by less than 2% (R373). -/
def Hk.steady (h : Hk) : Bool :=
  let col (k : Nat) : List Nat := (h.windows.take 8).map (fun w => w.getD k 0)
  variesLess (col 0) 10 && (List.range 7).all (fun k => variesLess (col (k + 2)) 20)

/-- The residual of coefficients over the windows is at most 3% of the mean current: root of the mean square (R373; DESIGN CHOICE,
log 111). -/
def Hk.residualOk (h : Hk) (coeff : List Int) : Bool :=
  let err (w : List Nat) : Int := (w.headD 0 : Int) * 65536 - ({ h with coeff := coeff } : Hk).estimate (w.getD 1 0) (w.drop 2)
  let sq := (h.windows.map (fun w => err w * err w)).foldl (· + ·) 0
  let sum : Int := ((h.windows.map (fun w => w.headD 0)).foldl (· + ·) 0 : Nat) * 65536
  decide (sq * (h.windows.length : Int) * 10000 ≤ 9 * sum * sum)

/-- c0 as the quiet windows give it: the estimate equals the mean (R373). -/
def Hk.quietPoint (h : Hk) (leak : Nat) (rates : List Nat) : Int :=
  let mean : Nat := ((h.windows.take 8).map (fun (w : List Nat) => w.headD 0)).foldl (· + ·) 0 / 8
  let part : Int := h.estimate 0 rates
  ((mean : Int) * 65536 - part) / (leak : Int)

/-- ESTIMATOR_WINDOW: a window of 256 µs; with the eighth quiet one in a row, c0 makes the estimate equal the mean
(R373). -/
def execEstimatorWindow (die : Die) (meanMa spread : Nat) (rates spreads : List Nat) (coreMv : Nat) (s : State) :
    Host.Outcome State Fault Refusal :=
  commit s (
    let leak := Config.leak coreMv (s.hk.get die).diodeNow
    let h := (s.hk.get die).window meanMa leak rates (quietWindow spread spreads)
    if s.hkSleeps die then s
    else if h.quietRun < 8 ∨ h.steady = false ∨ leak = 0 then s.setHk die h
    else (s.setHk die h).calibrated die (h.quietPoint leak rates :: h.coeff.drop 1) 1)

/-- ESTIMATOR_REGRESSION: over the last 256 windows all coefficients are fitted, and the fit is accepted only where it meets
min_spread and 3% (R373). -/
def execEstimatorRegression (die : Die) (s : State) : Host.Outcome State Fault Refusal :=
  commit s (
    let h := s.hk.get die
    let fit := Config.regressionFit h.windows
    if s.hkSleeps die ∨ h.windows.length < 256 then s
    else if s.fld (measPg die + 0x208) 12 8 ≤ fit.1 ∧ h.residualOk fit.2 = true then s.calibrated die fit.2 2
    else s)

/-- ESTIMATOR_STALE: the reference age has passed stale_s (R373). -/
def execEstimatorStale (die : Die) (s : State) : Host.Outcome State Fault Refusal :=
  commit s (
    if s.hkSleeps die ∨ s.flag (measPg die + 0x204) 30 = true then s else (s.carry (s.staleAt die)).goStale die)

/-! ### Leadership (R382 to R384) -/

def State.epoch (s : State) (d : Die) : Nat := s.fld (leadPg d + 0x100) 0 32
def State.leads (s : State) (d : Die) : Bool := s.flag (leadPg d + 0x104) 0

/-- The die that LEAD_SEL names, Windward where it is unreadable (R382). -/
def State.namedDie (s : State) (d : Die) : Die :=
  if s.flag (leadPg d + 0x104) 3 then (if s.flag (leadPg d + 0x104) 4 then .leeward else .windward) else .windward

/-- A die's leadership set; a change is counted, and is an event of R362 and interrupts the host (R412). -/
def State.setLead (s : State) (d : Die) (lead : Bool) (epoch : Nat) : State :=
  let s1 := s.setReg (leadPg d + 0x100) (w64 (epoch % 2 ^ 32))
  if s1.leads d = lead then s1
  else (((s1.stir.setFlag (leadPg d + 0x104) 0 lead).bump (leadPg d) 0x040 32 1).noteUnmodelled none).msix 0 31

/-- LEADERSHIP_TAKEOVER: the new leader's SCC resumes the queues (R313). -/
def State.takeover (s : State) : State := { s with quiley := { s.quiley with resumedAt := s.now } }

/-- HEARTBEAT_SEND: a heartbeat with the die's epoch, claim and boot stamp goes over the sideband (R382). -/
def execHeartbeatSend (die : Die) (s : State) : Host.Outcome State Fault Refusal :=
  commit s (if s.hkSleeps die then s else { s with out := s.out ++ [.heartbeat die (s.epoch die) (s.leads die) (Config.bootStamp s.host.boots)] })

/-- The split state ends on both halves: leadership is settled by R382 with the higher epoch + 1, and a leader that loses it is
demoted with its record (R382, R384). -/
def State.endSplit (s : State) (d : Die) (epoch : Nat) : State :=
  let e := Nat.max (s.epoch d) epoch + 1
  let named := s.namedDie d
  let clear (t : State) (x : Die) : State := t.setFlag (leadPg x + 0x104) 1 false
  let s1 := clear (clear s .windward) .leeward
  let settle (t : State) (x : Die) : State :=
    let u := t.setLead x (named == x) e
    if t.leads x && named != x then u.raise (leadPg x) 0x0801 none e 0 false false else u
  (settle (settle s1 .windward) .leeward).takeover

/-- The peer's heartbeat is noted; a run of them without a gap of 1 ms began when the last gap ended (R384). -/
def Hk.heard (h : Hk) (now epoch : Nat) (stamp : BitVec 32) : Hk :=
  let unbroken := match h.lastBeat with | some t => decide (now ≤ t + 1000000) | none => false
  { h with
    stamp := stamp, peerEpoch := epoch, lastBeat := some now
    beatsSince := some (if unbroken then h.beatsSince.getD now else now) }

/-- The peer claims the lead: the higher epoch wins, and among equals the die that LEAD_SEL names (R382). -/
def State.settleClaim (s : State) (d : Die) (epoch : Nat) : State :=
  if s.leads d then
    if s.epoch d < epoch ∨ (s.epoch d = epoch ∧ s.namedDie d ≠ d) then
      (s.setLead d false epoch).raise (leadPg d) 0x0801 none epoch 0 false false
    else s
  else if s.epoch d < epoch then s.setReg (leadPg d + 0x100) (w64 (epoch % 2 ^ 32))
  else s

/-- HEARTBEAT_RX: a heartbeat arrives: claims are resolved, or a split ends after 1 ms without a gap (R382, R384). A
follower takes a leading peer's higher epoch. -/
def execHeartbeatRx (die : Die) (epoch : Nat) (claim : Bool) (stamp : BitVec 32) (s : State) : Host.Outcome State Fault Refusal :=
  commit s (
    let h := (s.hk.get die).heard s.now epoch stamp
    let t := s.setHk die h
    if t.flag (leadPg die + 0x104) 1 then (if h.beatsSince.getD s.now + 1000000 ≤ s.now then t.endSplit die epoch else t)
    else if claim then t.settleClaim die epoch else t)

/-- The die holds 1.2 GHz until cap commands resume (R383). -/
def State.holdCaps (s : State) (d : Die) : State :=
  ((s.setHk d { s.hk.get d with holdCap := true }).applyLimits).showTherm d

/-- CAP_COMMAND_TIMEOUT: no cap command for 200 µs: the die holds 1.2 GHz until they resume (R383). -/
def execCapCommandTimeout (die : Die) (s : State) : Host.Outcome State Fault Refusal :=
  commit s (if s.hkSleeps die then s else (s.carry ((s.hk.get die).lastCap + 200000)).holdCaps die)

/-- A request whose steps need the bridge ends with FAILED, reason 3 (R313, R314). One that is still Queued does so as its
prefill would begin. -/
def State.failSplit (s : State) : State :=
  (s.quiley.reqs.filter (fun r => (r.stat == .prefill || r.stat == .decoding || r.stat == .held) && !r.masked && r.ending.isNone && s.needsBridge r)).foldl
    (fun (t : State) r => t.failReq r 3) s

/-- The peer's heartbeats have stopped. -/
def State.noBeat (s : State) (d : Die) : State := s.setHk d { s.hk.get d with lastBeat := none, beatsSince := none }

/-- The half takes the lead over the peer's epoch (R384). -/
def State.takeLead (s : State) (d : Die) : State :=
  let e := (s.hk.get d).peerEpoch + 1
  ((s.setLead d true e).raise (leadPg d) 0x0802 none e 0 false false).takeover

/-- The half enters the split state; of the two halves' records the first alone carries the flag of the event (R269, R384). -/
def State.enterSplit (s : State) (d : Die) : State :=
  let s1 := s.setFlag (leadPg d + 0x104) 1 true
  ((s1.raise (leadPg d) 0x0803 none (s.epoch d) 0 false (!s.isSplit)).holdCaps d).failSplit

/-- HEARTBEAT_LOSS: no heartbeat for 1 ms. With the peer's log read the half takes the lead; otherwise it enters the split
state (R384). -/
def execHeartbeatLoss (die : Die) (peerLogRead : Bool) (s : State) : Host.Outcome State Fault Refusal :=
  commit s (
    match (s.hk.get die).lastBeat with
    | none => s
    | some t0 =>
      if s.hkSleeps die ∨ s.flag (leadPg die + 0x104) 1 = true then s
      else
        let t := (s.carry (t0 + 1000000)).noBeat die
        if peerLogRead then t.takeLead die else t.enterSplit die)

/-! ### Liveness (R385, R301) -/

/-- The package is wedged: the token is withdrawn on the die and, over the sideband, on the other (R366, R385). -/
def State.wedge (s : State) (d : Die) (cause : Nat) : State :=
  let st := hkPg d + 0x100
  if s.flag st 3 then s
  else
    let s1 := (s.setFlag st 3 true).raise (hkPg d) 0x0804 none cause 0 false false
    (s1.reached d).foldl State.withdraw s1

/-- Probes in a row without an answer. -/
def State.setMisses (s : State) (d : Die) (n : Nat) : State := s.setHk d { s.hk.get d with probeMisses := n }

/-- WEDGE_PROBE: three probes in a row without an answer (R385); suspended in Calm (R393). -/
def execWedgeProbe (die : Die) (answered : Bool) (s : State) : Host.Outcome State Fault Refusal :=
  commit s (
    if 2 ≤ s.power die then s
    else if answered then s.setMisses die 0
    else if (s.hk.get die).probeMisses + 1 < 3 then s.setMisses die ((s.hk.get die).probeMisses + 1)
    else (s.setMisses die ((s.hk.get die).probeMisses + 1)).wedge die 1)

/-- The SCC's counter as a die last saw it move. -/
def State.sawBeat (s : State) (d : Die) : State :=
  s.setHk d { s.hk.get d with beatSeen := s.fld (hkPg d + 0x108) 0 32, beatAt := s.now }

/-- SCC_BEAT_TIMEOUT: the SCC's counter has not moved for scc_ms while Quiley has live requests (R385); suspended in Calm, whose
SCC is halted (R392, R393). -/
def execSccBeatTimeout (die : Die) (s : State) : Host.Outcome State Fault Refusal :=
  commit s (
    if 2 ≤ s.power die then s
    else if s.fld (hkPg die + 0x108) 0 32 ≠ (s.hk.get die).beatSeen ∨ !s.quiley.reqs.any (fun r => r.stat.live) then s.sawBeat die
    else (s.carry ((s.hk.get die).beatAt + s.fld (hkPg die + 0x104) 8 16 * 1000000)).wedge die 2)

/-- ALIVE_LAPSE: 40 µs without a renewal, or a withdrawal: the die's ports go to electrical idle (R301). -/
def execAliveLapse (die : Die) (s : State) : Host.Outcome State Fault Refusal :=
  commit s (s.withdraw die)

end Sys2Proof.Machine
end

