-- ==== Sys2Proof/Machine/Ports.lean ====
section
/-!
DEFINITION. The ports (R281 to R296), the loss of a partner (R301 to R305), system time (R297 to R300), routing and window
tables, and the shadow engine (R306 to R308).
-/
namespace Sys2Proof.Machine

/-! ### Receiving and leaving a port -/

/-- A packet has the number that a port expects next (R296). -/
def State.inOrder (s : State) (p : Nat) (l : Link) : Bool := l.seq == ((s.port p).ackSeq + 1) % 4096

/-- What is left unacknowledged after a partner's ack_seq: what was sent after that number (R296). -/
def Port.ackedTo (x : Port) (ack : Nat) : List Packet :=
  if x.unacked.any (fun k => k.link.seq == ack) then (x.unacked.dropWhile (fun k => k.link.seq != ack)).drop 1 else x.unacked

/-- A VC and class is still without credit: none of its packets has been acknowledged, and some wait to be (R291). -/
def Port.stillDry (x : Port) (left : List Packet) (e : Nat × Bool) : Bool :=
  let mine (l : List Packet) : Nat := (l.filter (fun k => k.vc == e.1 && k.falling == e.2)).length
  mine left != 0 && mine left == mine x.unacked

/-- The port after a packet of its partner in order: what it acknowledges is done with and its credits are back (R291,
R296). -/
def Port.took (x : Port) (l : Link) (now : Nat) (half : Bool) : Port :=
  let left := x.ackedTo l.ack
  { x with lastRx := now, ackSeq := l.seq, unacked := left, noCredit := x.noCredit.filter (x.stillDry left), rxHalf := half }

/-- A packet of the partner in order has arrived on a port: its units are counted, and the empty intervals of 10 µs before
it (R296, R302, R309). -/
def State.received (s : State) (p : Nat) (l : Link) (units2 : Nat) : State :=
  let x := s.port p
  let w := wholeUnits x.rxHalf units2
  let y := x.took l s.now w.2
  let missed := Nat.min 3 ((s.now - x.lastRx) / 10000)
  let t := ((s.setPort p y).setFlag (portPage p + 0x104) 8 (!y.noCredit.isEmpty)).bump (portPage p) 0x058 64 w.1
  if missed = 0 then t else t.bump (portPage p) 0x060 32 missed

def State.selfBoot (s : State) : BitVec 32 := Config.bootStamp s.host.boots

/-- A packet of the package's own control traffic (R286). -/
def State.controlPacket (s : State) (ptype dst : Nat) (arg : Word) (payload : List Byte) : Packet :=
  { ptype := ptype, vc := 2, falling := false, hopsLeft := s.fld (vroutePage .windward + 0x120) 0 5, dst := dst, src := s.selfId,
    part := 0, poison := false, reqId := 0, srcDie := .windward, addr := 0, arg := arg, payload := payload, link := ⟨0, 0⟩ }

def State.partnerOf (s : State) (p : Nat) : Nat := s.fld (portPage p + 0x108) 0 16
def State.partnerBoot (s : State) (p : Nat) : BitVec 32 := BitVec.ofNat 32 (s.reg (portPage p + 0x10C)).toNat

/-- A packet is routed again; the package's own request that no port leads to ends with status 6 (R294). -/
def State.routeAgain (s : State) (d : Die) (k : Packet) : State :=
  if k.src = s.selfId ∧ isRequest k.ptype ∧ (s.routeOf k).isNone then (s.bump (vroutePage d) 0x040 32 1).endRequest k.srcDie k.reqId 6 []
  else s.sendPacket d (k.src == s.selfId) k

/-- Every packet queued for a port and not yet sent is routed again (R294). -/
def State.reroute (s : State) (p : Nat) : State :=
  let x := s.port p
  x.queue.foldl (fun (t : State) k => t.routeAgain (dieOf (p / 12)) k) (s.setPort p { x with queue := [] })

/-- A retrain, if one runs, is over. -/
def State.endRetrain (s : State) (p : Nat) : State :=
  (s.setPort p { s.port p with retrainAt := none }).setFlag (portPage p + 0x100) 1 false

/-- The LOSS of a module (R286). -/
def State.lossPacket (s : State) (m : Nat) (stamp : BitVec 32) (reporter dst hops : Nat) : Packet :=
  { s.controlPacket 0x13 dst (w64 (stamp.toNat + m * 2 ^ 32 + reporter * 2 ^ 48)) [] with hopsLeft := hops }

/-- A LOSS sent on every live port but one (R303). -/
def State.floodLoss (s : State) (m : Nat) (stamp : BitVec 32) (reporter hops but : Nat) : State :=
  (allPorts.filter (fun p => p != but && s.portLive p)).foldl
    (fun (t : State) p => t.enqueue p (t.lossPacket m stamp reporter (t.partnerOf p) hops)) s

/-- A lost module is noted: its grace begins for the requests issued by now, responses on their way to it and those to its
requests that are held are discarded, and Quiley's shadows and orphans follow (R303 to R305, R338, R339). -/
def State.noteLoss (s : State) (m : Nat) (stamp : BitVec 32) : State :=
  let s1 : State := { s with
    lossSeen := s.lossSeen ++ [(m, stamp)]
    lossGrace := s.lossGrace ++ [(m, s.now)]
    requests := s.requests.map (fun r => if r.module = m then { r with doomed := true } else r)
    held := s.held.map (fun h => match h with
      | .packet p k mute => .packet p k (mute || k.src == m)
      | x => x) }
  let s2 := allPorts.foldl (fun (t : State) p =>
    let x := t.port p
    let q := x.queue.filter (fun k => !(k.ptype == 8 && k.dst == m))
    if q = x.queue then t else t.setPort p { x with queue := q }) s1
  s2.moduleLost m

/-- The partner of a port that has never been Up is gone: it is not declared Dead, and trains (R282). -/
def State.portAgain (s : State) (p : Nat) : State :=
  let s1 := (s.setPortState p 1).endRetrain p
  (s1.setPort p { s1.port p with unacked := [], noCredit := [] }).reroute p

/-- PORT_DEAD: the partner of a port is lost (R302, R303): its queue is routed again, its unacknowledged packets are dropped,
and a LOSS goes out on the other live ports. The loss of a package is one work-interrupting event, whichever port finds it first
(R269). -/
def State.portDead (s : State) (p how : Nat) : State :=
  if !(s.port p).everUp then s.portAgain p
  else
  let m := s.partnerOf p
  let b := s.partnerBoot p
  let s1 := ((s.setPortState p 4).endRetrain p).raise (portPage p) 0x0504 none m how false
    (!s.lossSeen.contains (m, b))
  let s2 := (s1.setPort p { s1.port p with unacked := [], noCredit := [] }).setFlag (portPage p + 0x104) 8 false
  let s3 := s2.reroute p
  let fresh := !s3.lossSeen.contains (m, b)
  let s4 := if fresh then s3.noteLoss m b else s3
  s4.floodLoss m b s4.selfId (s4.fld (vroutePage .windward + 0x120) 0 5) p

/-- An exchange of time in flight on a port is given up, and the port's asymmetry is to be measured again before it counts (R279,
R298). -/
def State.dropExchange (s : State) (p : Nat) : State :=
  let t := s.setPort p { s.port p with asym := none }
  if s.fld (pg .windward Blk.time 0 + 0x10C) 7 5 = p then { t with time := { t.time with t1 := none } } else t

/-- A coordinated retrain begins (R284): an event of R362. -/
def State.retrain (s : State) (p : Nat) : State :=
  if !s.portLive p then s
  else
    ((((s.dropExchange p).setPortState p 1).setPort p { (s.dropExchange p).port p with retrainAt := some s.now }).setFlag (portPage p + 0x100) 1 true).noteUnmodelled
      none

/-! ### Links -/

/-- The replays of the last millisecond, this one first (R296). -/
def Port.replays (x : Port) (now : Nat) : List Nat := now :: x.retryTimes.filter (fun t => decide (now < t + 1000000))
def Port.setReplays (x : Port) (l : List Nat) : Port := { x with retryTimes := l }

/-- The packets a port sends again from a number its partner asks for (R296). -/
def Port.replayFrom (x : Port) (seq : Nat) : List Packet := x.unacked.dropWhile (fun k => k.link.seq != seq)

/-- A replay on a port: counted at each end, and 16 within 1 ms retrain the port (R296). -/
def State.countReplay (s : State) (p : Nat) : State :=
  let t := s.bump (portPage p) 0x040 32 1
  if ((s.port p).replays s.now).length < 16 then t.setPort p ((s.port p).setReplays ((s.port p).replays s.now))
  else (t.setPort p ((s.port p).setReplays [])).retrain p

/-- A packet that failed its check or came out of order is not taken: a replay is asked from the first missing number
(R296). -/
def State.wantReplay (s : State) (p : Nat) : State :=
  ({ s with out := s.out ++ [.askReplay p (((s.port p).ackSeq + 1) % 4096)] } : State).countReplay p

/-- The packets from a number on are sent again, as they were numbered (R296). -/
def State.resend (s : State) (p seq : Nat) : State :=
  let l := (s.port p).replayFrom seq
  let t := l.foldl (fun (u : State) k =>
    let w := wholeUnits (u.port p).txHalf (pktUnits2 k)
    { (u.setPort p { u.port p with txHalf := w.2, lastTx := u.now }).bump (portPage p) 0x050 64 w.1 with out := u.out ++ [.sent p k] }) s
  t.countReplay p

/-- LINK_REPLAY: a packet of the partner fails its check here and a replay is asked for, or the partner asks for one and
every packet from that number is sent again (R296). -/
def execLinkReplay (ask : ReplayAsk) (s : State) : Host.Outcome State Fault Refusal :=
  commit s (
    if 24 ≤ ask.port ∨ !s.portLive ask.port then s
    else
      match ask.resend with
      | none => s.wantReplay ask.port
      | some q => s.resend ask.port q)

/-- The spare lane of a port is in use for a lane that failed (R283). -/
def State.useSpare (s : State) (p lane : Nat) : State :=
  let x := (s.dropExchange p).port p
  (((((s.dropExchange p).setPort p { x with failedLanes := x.failedLanes ++ [lane] }).setFlag (portPage p + 0x104) 3 true).setFld (portPage p + 0x104) 4 4
    lane).bump (portPage p) 0x064 32 1).storeRequest 0

/-- LANE_SPARE_SWAP: the spare lane takes the place of a failing one (R283). -/
def execLaneSpareSwap (port lane : Nat) (s : State) : Host.Outcome State Fault Refusal :=
  commit s (
    if 24 ≤ port ∨ 8 < lane ∨ !s.portLive port ∨ s.flag (portPage port + 0x104) 3 then s else s.useSpare port lane)

/-- PORT_DEGRADE: a second lane fails while the spare is in use, and the port retrains onto four lanes (R284). -/
def execPortDegrade (port : Nat) (s : State) : Host.Outcome State Fault Refusal :=
  commit s (if 24 ≤ port ∨ s.portState port ≠ 2 ∨ !s.flag (portPage port + 0x104) 3 then s else s.retrain port)

/-- A disabled port is Down: what it held is routed again or dropped, and while it is Down it is not declared Dead (R282,
R309). -/
def State.portDown (s : State) (p : Nat) : State :=
  let s1 := (s.setPortState p 0).endRetrain p
  (s1.setPort p { s1.port p with unacked := [], noCredit := [] }).reroute p

/-- VL_CTRL's enable takes its value; a port that is disabled goes down (R309). -/
def State.enablePort (s : State) (p : Nat) (on : Bool) : State :=
  let t := s.setFlag (portPage p + 0x100) 0 on
  if s.flag (portPage p + 0x100) 0 && !on then t.portDown p else t

/-- VL_CTRL: enable, and a retrain where one is asked for (R309). -/
def writeVlCtrl (who : Who) (p : Nat) (v : Word) (s : State) : Written :=
  rootRwl who (portPage p) (fun t =>
    if bit v.toNat 1 then (t.enablePort p (bit v.toNat 0)).retrain p else t.enablePort p (bit v.toNat 0)) s

/-- VL_RETRAIN: VL_CTRL written with retrain. -/
def execVlRetrain (who : Who) (port : Nat) (value : Word) (s : State) : Host.Outcome State Fault Refusal :=
  commit s (if 24 ≤ port then s else crossed who (portPage port + 0x100) 4 (value ||| 2) (writeVlCtrl who port (value ||| 2)) s)

/-- VL_ENABLE_WRITE: VL_CTRL written for its enable. -/
def execVlEnableWrite (who : Who) (port : Nat) (value : Word) (s : State) : Host.Outcome State Fault Refusal :=
  commit s (if 24 ≤ port then s else crossed who (portPage port + 0x100) 4 value (writeVlCtrl who port value) s)

/-- RETRAIN_TIMEOUT: a retrain has not ended after 500 µs, and the port is Dead (R284). -/
def execRetrainTimeout (port : Nat) (s : State) : Host.Outcome State Fault Refusal :=
  commit s (
    match (s.port port).retrainAt with
    | none => s
    | some t => (s.carry (t + 500000)).portDead port 0)

/-- PARTNER_SIGNAL_DETECT: a Down or Dead port that is enabled begins to train, once the module ID is valid (R282, R399,
R401). -/
def execPartnerSignalDetect (port : Nat) (s : State) : Host.Outcome State Fault Refusal :=
  commit s (
    let st := s.portState port
    if 24 ≤ port ∨ (st ≠ 0 ∧ st ≠ 4) ∨ !s.flag (portPage port + 0x100) 0 ∨ !s.flag (pwrstPg s.active + 0x114) 16 then s
    else s.setPortState port 1)

/-- The identity of a partner conflicts with this package's or with that of another port's partner (R282). -/
def State.identityConflict (s : State) (p partner : Nat) (stamp : BitVec 32) : Bool :=
  partner == s.selfId ||
    allPorts.any (fun q => q != p && s.portState q == 2 && s.partnerOf q == partner && s.partnerBoot q != stamp)

/-- A port as its training leaves it: Up or Degraded, its sequence numbers kept where it retrained (R282, R284, R296). -/
def Port.fresh (y : Port) (now lanes : Nat) (idle again : Bool) : Port :=
  { y with
    everUp := y.everUp || lanes == 8, lastRx := now, lastTx := now, txIdle := idle
    linkSeq := if again then y.linkSeq else 0
    ackSeq := if again then y.ackSeq else 0
    unacked := if again then y.unacked else [] }

/-- Training has ended with these lanes, and the port names its partner; a Degraded port is an event of R362 (R282, R309). -/
def State.comeUp (s : State) (port partner partnerPort : Nat) (stamp : BitVec 32) (lanes : Nat) : State :=
  let t := (((if lanes = 8 then s else s.noteUnmodelled none).dropExchange port).setPortState port (if lanes = 8 then 2 else 3)).endRetrain port
  ((t.setPort port ((t.port port).fresh s.now lanes (!s.flag (hkPg (dieOf (port / 12)) + 0x100) 2)
    (s.port port).retrainAt.isSome)).setReg (portPage port + 0x108) (w64 (partner % 65536 + partnerPort % 32 * 65536))).setReg
    (portPage port + 0x10C) (w64 stamp.toNat)

/-- PORT_TRAINED: training ends with 8 or 4 lanes, or an identity conflict holds it (R282, R284). -/
def execPortTrained (port partner partnerPort : Nat) (stamp : BitVec 32) (lanes : Nat) (s : State) :
    Host.Outcome State Fault Refusal :=
  commit s (
    if 24 ≤ port ∨ s.portState port ≠ 1 ∨ (lanes ≠ 8 ∧ lanes ≠ 4) then s
    else if s.identityConflict port partner stamp then s.raise (portPage port) 0x0502 none partner stamp.toNat false false
    else s.comeUp port partner partnerPort stamp lanes)

/-- PORT_SIGNAL_LOSS: no signal on more than half of the active lanes; a port in its first training is Down again (R282,
R302). -/
def execPortSignalLoss (port lanesLost : Nat) (s : State) : Host.Outcome State Fault Refusal :=
  commit s (
    let st := s.portState port
    if 24 ≤ port then s
    else if (st = 2 ∧ 5 ≤ lanesLost) ∨ (st = 3 ∧ 3 ≤ lanesLost) then (s.carry (s.now + 1000)).portDead port 1
    else if st = 1 ∧ (s.port port).retrainAt.isNone ∧ 5 ≤ lanesLost then s.portDown port
    else s)

/-- PORT_SILENCE: four 10 µs intervals without a valid packet (R302). -/
def execPortSilence (port : Nat) (s : State) : Host.Outcome State Fault Refusal :=
  commit s (
    if 24 ≤ port ∨ !s.portLive port then s
    else ((s.carry ((s.port port).lastRx + 40000)).bump (portPage port) 0x060 32 4).portDead port 2)

/-- A live port has nothing that it may send and may keep its partner's watch satisfied (R301). -/
def State.mayBreeze (s : State) (p : Nat) : Bool :=
  decide (p < 24) && s.portLive p && s.flag (hkPg (dieOf (p / 12)) + 0x100) 2 && !(s.port p).txIdle &&
    !(s.port p).queue.any (s.port p).credit

/-- A BREEZE: the boot stamp, and whether the package is split (R286, R301). -/
def State.breezePacket (s : State) (p : Nat) : Packet :=
  s.controlPacket 0x10 (s.partnerOf p) (w64 (s.selfBoot.toNat + boolNat s.isSplit * 2 ^ 32)) []

/-- BREEZE_IDLE_EXPIRY: a live port that has sent nothing for 10 µs sends a BREEZE, while its die's HKC holds the package
alive (R301). -/
def execBreezeIdleExpiry (port : Nat) (s : State) : Host.Outcome State Fault Refusal :=
  commit s (
    if !s.mayBreeze port then s
    else
      let t := s.carry ((s.port port).lastTx + 10000)
      (t.enqueue port (t.breezePacket port)).drainPort port)

/-- A packet of the partner on a live port: taken in order, or a replay is asked for (R296). -/
def takeFrame (port : Nat) (link : Link) (units2 : Nat) (k : State → State) (s : State) : State :=
  if 24 ≤ port ∨ !s.portLive port then s
  else if s.inOrder port link then k (s.received port link units2)
  else s.wantReplay port

/-- BREEZE: a partner's BREEZE keeps the port alive and tells whether the partner is split (R301). -/
def execBreeze (from_ : LinkIn) (_stamp : BitVec 32) (split : Bool) (s : State) : Host.Outcome State Fault Refusal :=
  commit s (takeFrame from_.port from_.link 1 (fun t => t.setFlag (portPage from_.port + 0x104) 9 split) s)

/-- A VC and class of a port is out of credit (R295). -/
def Port.starveVc (x : Port) (vc : Nat) (falling : Bool) : Port :=
  { x with noCredit := if x.noCredit.contains (vc, falling) then x.noCredit else x.noCredit ++ [(vc, falling)] }

/-- VC_STALL: a VC and class that holds packets has had no credit for 10 ms (R295). -/
def execVcStall (port vc : Nat) (falling : Bool) (s : State) : Host.Outcome State Fault Refusal :=
  commit s (
    if 24 ≤ port ∨ !(s.port port).queue.any (fun k => k.vc == vc && k.falling == falling) then s
    else ((s.setPort port ((s.port port).starveVc vc falling)).setFlag (portPage port + 0x104) 8 true).raise (portPage port) 0x0503
      none (vc + boolNat falling * 4) 0 false false)

/-- RESP_TIMEOUT: the response timer of a request expires (R290). -/
def execRespTimeout (die : Die) (reqId : Nat) (s : State) : Host.Outcome State Fault Refusal :=
  commit s (
    match s.requests.find? (fun r => r.die == die && r.id == reqId) with
    | none => s
    | some r =>
      let t := s.carry r.due
      (t.endRequest die reqId 8 []).bump (vroutePage die) 0x04C 32 1)

/-- A LOSS not seen before is counted, acted on, and forwarded while it has hops left (R303). -/
def State.heedLoss (s : State) (port module : Nat) (stamp : BitVec 32) (reporter hops : Nat) : State :=
  let t := (s.bump (vroutePage (dieOf (port / 12))) 0x044 32 1).noteLoss module stamp
  if hops = 0 then t else t.floodLoss module stamp reporter (hops - 1) port

/-- LOSS: a LOSS not seen before is acted on and forwarded; one naming this package is discarded and counted (R303). -/
def execLoss (from_ : LinkIn) (stamp : BitVec 32) (module reporter hops : Nat) (s : State) :
    Host.Outcome State Fault Refusal :=
  commit s (takeFrame from_.port from_.link 1 (fun t =>
      if module = t.selfId then t.bump (vroutePage (dieOf (from_.port / 12))) 0x050 32 1
      else if t.lossSeen.contains (module, stamp) then t
      else t.heedLoss from_.port module stamp reporter hops) s)

/-- The grace of a lost module is over: the requests to it that were issued by then end with status 7 (R304). -/
def State.graceOver (s : State) (m at_ : Nat) : State :=
  let u : State := { s with lossGrace := s.lossGrace.erase (m, at_) }
  (u.requests.filter (fun r => r.module == m && r.doomed)).foldl (fun (v : State) r => v.endRequest r.die r.id 7 []) u

/-- LOSS_GRACE_EXPIRY: 10 µs after a LOSS, the requests to the lost module issued before it end with status 7 (R304). -/
def execLossGraceExpiry (module : Nat) (s : State) : Host.Outcome State Fault Refusal :=
  commit s (
    match s.lossGrace.find? (fun e => e.1 == module) with
    | none => s
    | some e => (s.carry (e.2 + 10000)).graceOver e.1 e.2)

/-- Units the other partitions reserve on a port (R292). -/
def State.gUnitsElse (s : State) (p part : Nat) : Nat :=
  ((List.range 16).map (fun q => if q = part then 0 else s.fld (portPage p + 0x140 + q * 4) 0 12)).foldl (· + ·) 0

/-- VL_G_UNITS_p: refused where the reservations of the port would exceed 3,520 units (R292). -/
def writeGUnits (who : Who) (p part : Nat) (v : Word) (s : State) : Written :=
  rootRwl who (portPage p) (fun t =>
    if 3520 < t.gUnitsElse p part + v.toNat % 4096 then t.setFlag (portPage p + 0x104) 10 true
    else ((t.setReg (portPage p + 0x140 + part * 4) (w64 (v.toNat % 4096))).setFlag (portPage p + 0x104) 10 false).noteUnmodelled
      (some part)) s

def execVlGUnitsWrite (who : Who) (port part : Nat) (value : Word) (s : State) : Host.Outcome State Fault Refusal :=
  commit s (
    if 24 ≤ port ∨ 16 ≤ part then s
    else crossed who (portPage port + 0x140 + part * 4) 4 value (writeGUnits who port part value) s)

/-! ### Time (R297 to R300) -/

/-- The package keeps one TIME block; both dies' pages show it. -/
def timePg : Nat := pg .windward Blk.time 0
def State.timePort (s : State) : Nat := s.fld (timePg + 0x10C) 7 5
def State.timeState (s : State) : Nat := s.fld (timePg + 0x10C) 0 2
/-- Parent and backups that are set, in order. -/
def State.timePorts (s : State) : List Nat :=
  [(1, 6), (7, 12), (13, 18)].filterMap (fun e => if s.flag (timePg + 0x108) e.2 then some (s.fld (timePg + 0x108) e.1 5) else none)

/-- TIME_STATUS leaves locked or root: an event of R362. -/
def State.setTimeState (s : State) (v : Nat) : State :=
  let s1 := s.setFld (timePg + 0x10C) 0 2 v
  if v = 1 ∨ v = 3 then s1 else s1.noteUnmodelled none

/-- A port is used for the exchange from now on, with no request in flight. -/
def State.usePort (s : State) (p backup : Nat) : State :=
  ({ s with time := { s.time with t1 := none, misses := 0, onBackup := backup } } : State).setFld (timePg + 0x10C) 7 5 p

/-- The package is a child: it was a root until now, or its parent may have changed (R311). -/
def State.toChild (s : State) (old v : Nat) : State :=
  let t := if bit old 0 then s.setTimeState 0 else s
  match t.timePorts with
  | p :: _ => if v % 2 ^ 19 = old % 2 ^ 19 then t else t.usePort p 0
  | [] => t

/-- TIME_CFG (R311): a root needs no exchange; a new parent is used from the next exchange on. -/
def writeTimeCfg (who : Who) (d : Die) (v : Word) (s : State) : Written :=
  rootRwl who (pg d Blk.time 0) (fun t =>
    let old := (t.reg (timePg + 0x108)).toNat
    let iv := if bits v.toNat 24 8 = 0 then bits old 24 8 else bits v.toNat 24 8
    let u := t.setReg (timePg + 0x108) (w64 (v.toNat % 2 ^ 19 + iv * 2 ^ 24))
    if bit v.toNat 0 then (u.setTimeState 3).setFld (timePg + 0x10C) 2 5 0 else u.toChild old v.toNat) s

def execTimeCfgWrite (who : Who) (die : Die) (value : Word) (s : State) : Host.Outcome State Fault Refusal :=
  commit s (writeTimeCfg who die value s).1

/-- What an interval takes off the offset: at most 1 ns per µs (R298). -/
def State.slewStep (s : State) (limit : Nat) : Int :=
  if (limit : Int) < s.time.slew then limit else if s.time.slew < -(limit : Int) then -(limit : Int) else s.time.slew

/-- An interval of so many µs has passed at the slewed rate: the package's time has run that much more or less, and less of the
offset is left; it never goes back (R298, log 18). -/
def State.slewBy (s : State) (iv : Nat) : State :=
  let step := s.slewStep iv
  let due := s.time.lastTick + iv * 1000
  let t := if 0 ≤ step then (s.carry due).passNs step.toNat else s.carry (due - step.natAbs)
  { t with time := { t.time with slew := s.time.slew - step } }

/-- The interval of the exchange in µs (R298). -/
def State.timeIv (s : State) : Nat := s.fld (timePg + 0x108) 24 8 * 16

/-- An interval has passed: an unanswered request is a miss (R300). -/
def State.countMiss (s : State) : State :=
  { s with time := { s.time with misses := s.time.misses + boolNat s.time.t1.isSome, t1 := none, lastTick := s.now } }

/-- The port the next request goes out on: the one in use, or, while that one is not Up, the first that is (R279, R300). -/
def State.askPort (s : State) : Nat :=
  if s.timeState ≠ 2 ∧ s.portState s.timePort = 2 then s.timePort
  else (s.timePorts.find? (fun p => s.portState p == 2)).getD s.timePort

/-- A TIME_REQ goes out (R298). -/
def State.askTime (s : State) (p : Nat) : State :=
  let t := s.setFld (timePg + 0x10C) 7 5 p
  if t.portState p ≠ 2 then t
  else ({ t with time := { t.time with t1 := some t.now } } : State).enqueue p (t.controlPacket 0x11 (t.partnerOf p) (w64 t.now) [])

/-- TIME_EXCHANGE_TICK: an interval has passed: the slew is applied, an unanswered request counts as a miss, and a child
whose port is live asks again (R298, R300). -/
def execTimeExchangeTick (s : State) : Host.Outcome State Fault Refusal :=
  commit s (
    if s.timeState = 3 ∨ s.timePorts.isEmpty then s
    else
      let t := (s.slewBy s.timeIv).countMiss
      t.askTime t.askPort)

/-- The answer to a TIME_REQ: the request's time, room for the turnaround, and the depth (R286). -/
def timeAnswer (t1 depth : Nat) : List Byte :=
  leBytes 8 t1 ++ leBytes 5 0 ++ [BitVec.ofNat 8 depth] ++ List.replicate 50 0

/-- TIME_REQ: the parent takes the time of arrival and answers (R286, R298). The turnaround is filled in as the answer
leaves. -/
def execTimeReq (from_ : LinkIn) (t1 src : Nat) (s : State) : Host.Outcome State Fault Refusal :=
  commit s (takeFrame from_.port from_.link 1 (fun t =>
    t.enqueue from_.port (t.controlPacket 0x12 src (w64 t.now) (timeAnswer t1 (t.fld (timePg + 0x10C) 2 5)))) s)

/-- The offset of the parent's time from the package's: half the difference of the two ways, less the asymmetry (R298,
R299). -/
def timeOffset (now t1 t2 turn : Nat) (asymNs : Int) : Int := (((t2 : Int) - t1) - ((now : Int) - ((t2 : Int) + turn)) - asymNs) / 2

/-- TIME_OFFSET shows 32 bits of it, saturated (R311). -/
def shownOffset (off : Int) : Nat :=
  let lim : Int := 2 ^ 31 - 1
  unsignedOf (if lim < off then lim else if off < -lim - 1 then -lim - 1 else off) 32

/-- The first offset steps the time, a later one sets the slew (R298). -/
def State.applyOffset (s : State) (off : Int) : State :=
  let first := s.timeState == 0
  { s with
    now := if first then ((s.now : Int) + off).toNat else s.now
    time := { s.time with t1 := none, misses := 0, slew := if first then 0 else off } }

/-- The asymmetry that training measured, which the first answer after it brings into the model (DESIGN CHOICE, log 122). -/
def Port.measured (x : Port) (ns : Int) : Port := { x with asym := some (x.asym.getD ns) }

/-- TIME_RSP: the answer of the parent to the request in flight: the offset is formed; the first one steps the time, a
later one sets the slew (R298, R299). -/
def execTimeRsp (from_ : LinkIn) (t1 t2 turn depth : Nat) (asymNs : Int) (s : State) : Host.Outcome State Fault Refusal :=
  commit s (takeFrame from_.port from_.link 3 (fun t =>
    if t.timeState = 3 ∨ from_.port ≠ t.timePort ∨ t.portState from_.port ≠ 2 ∨ t.time.t1 ≠ some t1 then t
    else
      let off := timeOffset t.now t1 t2 turn ((t.port from_.port).asym.getD asymNs)
      ((((t.setPort from_.port ((t.port from_.port).measured asymNs)).applyOffset off).setReg (timePg + 0x110) (w64 (shownOffset off))).setFld (timePg + 0x10C) 2 5
        (Nat.min (depth + 1) 31)).setTimeState 1) s)

/-- The port in use is not Up, or four intervals have passed without an answer (R300). -/
def State.parentBad (s : State) : Bool :=
  s.portState s.timePort ≠ 2 || decide (4 ≤ s.time.misses + boolNat s.time.t1.isSome)

/-- The first other port of the exchange that is Up. -/
def State.nextParent (s : State) : Option Nat :=
  (s.timePorts.drop 1 ++ s.timePorts.take 1).find? (fun p => p != s.timePort && s.portState p == 2)

/-- Holdover: the time runs on, and a record shows the last offset (R300). -/
def State.holdover (s : State) : State :=
  (({ s with time := { s.time with t1 := none, misses := 0 } } : State).setTimeState 2).raise timePg 0x0505 none
    (unsignedOf (signed (s.reg (timePg + 0x110)).toNat 32) 64) 0 false false

/-- TIME_PARENT_FAILOVER: the port in use is not Up, or four intervals have passed without an answer: the first other port
that is Up is used, or holdover is entered (R300). -/
def execTimeParentFailover (s : State) : Host.Outcome State Fault Refusal :=
  commit s (
    if s.timeState = 3 ∨ s.timePorts.isEmpty ∨ !s.parentBad then s
    else
      match s.nextParent with
      | some p => s.usePort p (s.timePorts.idxOf p)
      | none => if s.timeState = 2 then s else s.holdover)

/-! ### Tables (R289, R293) -/

/-- VROUTE_RT_DATA: the entry that the page's index names, in the one table both dies copy (R293). -/
def writeRtData (who : Who) (d : Die) (v : Word) (s : State) : Written :=
  rootRwl who (vroutePage d) (fun t =>
    { t with routes := mset 0 t.routes (t.fld (vroutePage d + 0x100) 0 9) (w64 (v.toNat % 2 ^ 25)) }) s

def execVrouteRtDataWrite (who : Who) (die : Die) (value : Word) (s : State) : Host.Outcome State Fault Refusal :=
  commit s (crossed who (vroutePage die + 0x108) 8 value (writeRtData who die value) s)

/-- Bits a word of an inbound window holds (R289). -/
def windowMask (word : Nat) (v : Nat) : Nat :=
  match word with
  | 0 => v % 2 ^ 42 + boolNat (bit v 63) * 2 ^ 63
  | 1 => v % 2 ^ 42
  | 2 => v % 2 ^ 35
  | _ => 0

/-- Key of the word that a page's window index names. -/
def State.windowIdx (s : State) (d : Die) : Nat :=
  let a := vroutePage d + 0x110
  s.fld a 0 4 * 32 + s.fld a 4 3 * 4 + s.fld a 7 2

/-- VROUTE_WIN_DATA (R289). -/
def writeWinData (who : Who) (d : Die) (v : Word) (s : State) : Written :=
  rootRwl who (vroutePage d) (fun t =>
    { t with windows := mset 0 t.windows (t.windowIdx d) (w64 (windowMask (t.windowIdx d % 4) v.toNat)) }) s

/-! ### The shadow engine (R306 to R308) -/

def State.setShadows (s : State) (d : Die) (l : List Shadow) : State := { s with shadow := s.shadow.set d l }

/-- A submitted descriptor; its partition is the one the descriptor names (R306). -/
def State.newShadow (s : State) (pa : Nat) : Shadow :=
  ⟨pa, (s.byte (pa + 7)).toNat % 16, false, none, false, [], false, false, false, false, 0⟩

/-- VROUTE_SHADOW_SUBMIT: the SCC alone submits; a full queue of 64 takes nothing (R306). -/
def writeShadowSubmit (who : Who) (d : Die) (v : Word) (s : State) : Written :=
  if !who.isScc then denied s
  else if 64 ≤ (s.shadow.get d).length then written s
  else written (s.setShadows d (s.shadow.get d ++ [s.newShadow v.toNat]))

def execVrouteShadowSubmit (who : Who) (die : Die) (value : Word) (s : State) : Host.Outcome State Fault Refusal :=
  commit s (crossed who (vroutePage die + 0x130) 8 value (writeShadowSubmit who die value) s)

/-- A shadow descriptor's fields (R306). -/
structure ShadowDesc where
  vfmt : Nat
  dim : Nat
  nMaps : Nat
  stack : Nat
  part : Nat
  first : Nat
  count : Nat
  listPa : Nat
  peerCtr : Nat
  donePa : Nat
  statusPa : Nat
  tag : Nat
deriving DecidableEq, Repr

def shadowDesc (b : List Byte) : ShadowDesc :=
  ⟨leAt b 0 2, leAt b 2 2, leAt b 4 2, leAt b 6 1, leAt b 7 1, leAt b 8 4, leAt b 0xC 4, leAt b 0x10 8, leAt b 0x18 8,
   leAt b 0x20 8, leAt b 0x28 8, leAt b 0x30 8⟩

/-- Map entry k of the list: the page map's offset and the destination base. -/
def State.shadowMap (s : State) (x : ShadowDesc) (k : Nat) : Nat × Nat :=
  (s.load (x.listPa + 16 * k) 8, s.load (x.listPa + 16 * k + 8) 8)

/-- Pages of a descriptor's range. -/
def ShadowDesc.pages (x : ShadowDesc) : List Nat :=
  (List.range ((x.first % 64 + x.count + 63) / 64)).map (· + x.first / 64)

def State.shadowEntry (s : State) (x : ShadowDesc) (pmap i : Nat) : Nat := s.load (stackBase x.stack + pmap + 8 * i) 8

/-- The checks of R306 and R308 on fields and ranges, then on the maps: a cold page in range rejects the descriptor. -/
def State.shadowOk (s : State) (x : ShadowDesc) : Bool :=
  vOk x.vfmt && (x.dim == 64 || x.dim == 128) && decide (1 ≤ x.nMaps) && decide (x.nMaps ≤ 4096) && decide (x.stack < 16) &&
  decide (x.part < 16) && decide (1 ≤ x.count) && decide (x.first + x.count ≤ 4194304) && x.listPa % 64 == 0 &&
  s.holds x.listPa (16 * x.nMaps) && x.statusPa != 0 &&
  (s.firstBad x.listPa (16 * x.nMaps)).isNone &&
  (List.range x.nMaps).all (fun k =>
    let m := s.shadowMap x k
    m.1 % 8 == 0 && m.2 % 64 == 0 &&
    s.holds (stackBase x.stack + m.1) (8 * ((x.first + x.count + 63) / 64)) &&
    x.pages.all (fun i =>
      (s.firstBad (stackBase x.stack + m.1 + 8 * i) 8).isNone && !entCold (s.shadowEntry x m.1 i)))

/-- The writes of a descriptor in order: bank pair and address of the source, length, and destination; adjacent rows of an
array travel together, at most 512 B at a time (R307). -/
def State.shadowWrites (s : State) (x : ShadowDesc) : List (Nat × Nat × Nat × Nat) :=
  (List.range x.nMaps).flatMap (fun k =>
    let m := s.shadowMap x k
    x.pages.flatMap (fun i =>
      let e := s.shadowEntry x m.1 i
      if !entPresent e then []
      else
        let lo := Nat.max x.first (64 * i) - 64 * i
        let hi := Nat.min (x.first + x.count) (64 * i + 64) - 64 * i
        (pageArrays x.vfmt x.dim).flatMap (fun a =>
          let off := a.1 + lo * a.2
          let len := (hi - lo) * a.2
          (List.range ((len + 511) / 512)).map (fun j =>
            (refNbu e, refSlot e * 0x1000 + off + 512 * j, Nat.min 512 (len - 512 * j),
             m.2 + i * pageBytes x.vfmt x.dim + off + 512 * j)))))

def State.setShadowFront (s : State) (d : Die) (x : Shadow) : State :=
  { s with shadow := s.shadow.set d (x :: (s.shadow.get d).drop 1) }

/-- A request of the engine: its id joins what the descriptor waits for, or its failure is noted at once. -/
def State.shadowSend (s : State) (d : Die) (part ptype ga : Nat) (arg : Word) (b : List Byte) (poison : Bool) (x : Shadow) :
    State × Shadow :=
  let r := s.request d part ptype ga 0 0 arg b poison (.shadow d)
  if r.1.stillOut d r.2 then (r.1, { x with outstanding := x.outstanding ++ [r.2] })
  else (r.1, { x with remoteErr := match x.remoteErr with | some e => some e | none => some 6 })

/-- One write of a descriptor: the source is read at home, poisoned data is written as poisoned (R307); a destination in
this package is written at its home. -/
def State.shadowWrite (s : State) (d : Die) (sd : ShadowDesc) (w : Nat × Nat × Nat × Nat) (x : Shadow) : State × Shadow :=
  let r := (bpaPieces w.1 w.2.1 w.2.2.1).foldl (fun (acc : State × List Byte × Bool) p =>
    let a := stackBase sd.stack + p.1
    let t := (acc.1.countStack sd.part a p.2).demand (askedBy (vroutePage d) 0x13) (some sd.part) a p.2
    (t.1, acc.2.1 ++ t.1.bytes a p.2, acc.2.2 || t.2.isSome)) (s, [], false)
  let y := { x with poisoned := x.poisoned || r.2.2 }
  if r.1.isLocal w.2.2.2 then
    let res := if r.2.2 then r.1.poisonWrite sd.part (gaLocal w.2.2.2) w.2.2.1 else r.1.homeWrite sd.part (gaLocal w.2.2.2) r.2.1
    (res.1, if res.2 = 0 then y else { y with remoteErr := match y.remoteErr with | some e => some e | none => some res.2 })
  else r.1.shadowSend d sd.part 1 w.2.2.2 0 r.2.1 r.2.2 y

/-- The engine's reads of a descriptor's list and of the page maps it names, counted and checked as any read (R255, R263, R306,
R357). The flag says that all could be read. -/
def State.readMaps (s : State) (d : Die) (x : ShadowDesc) : State × Bool :=
  let by_ := askedBy (vroutePage d) 0x13
  if 4096 < x.nMaps ∨ !s.holds x.listPa (16 * x.nMaps) then (s, false)
  else
    let r := s.demand by_ (some x.part) x.listPa (16 * x.nMaps)
    if r.2.isSome then (r.1, false)
    else
      (List.range x.nMaps).foldl (fun (acc : State × Bool) k =>
        let a := stackBase x.stack + (r.1.shadowMap x k).1 + 8 * (x.first / 64)
        let len := 8 * x.pages.length
        if acc.2 && acc.1.holds a len then
          let t := (acc.1.countStack x.part a len).demand by_ (some x.part) a len
          (t.1, t.2.isNone)
        else (acc.1, false)) (r.1, true)

/-- A descriptor not yet running is checked: its bytes and its maps are read, and it runs or is rejected (R306). -/
def State.shadowReady (s : State) (d : Die) (x : Shadow) : State × Bool :=
  if x.running then (s, true)
  else
    let r := s.demand (askedBy (vroutePage d) 0x13) (some x.part) x.pa 64
    if r.2.isSome || !r.1.holds x.pa 64 then (r.1, false)
    else
      let sd := shadowDesc (r.1.bytes x.pa 64)
      let m := r.1.readMaps d sd
      (m.1, m.2 && m.1.shadowOk sd)

/-- The next writes of a descriptor, as many as requests are free (R307). -/
def State.shadowMore (s : State) (d : Die) (x : Shadow) (sd : ShadowDesc) : List (Nat × Nat × Nat × Nat) :=
  ((s.shadowWrites sd).drop x.sent).take (4096 - s.outstanding d)

/-- Those writes are sent. -/
def State.shadowPush (s : State) (d : Die) (x : Shadow) (sd : ShadowDesc) : State :=
  let l := s.shadowMore d x sd
  let u := l.foldl (fun (acc : State × Shadow) w => acc.1.shadowWrite d sd w acc.2) (s, { x with running := true })
  u.1.setShadowFront d { u.2 with sent := x.sent + l.length, sentAll := decide ((s.shadowWrites sd).length ≤ x.sent + l.length) }

/-- The COUNT of a descriptor whose writes are all answered with status 0 (R308). -/
def State.shadowCount (s : State) (d : Die) (x : Shadow) (sd : ShadowDesc) : State :=
  if s.isLocal sd.peerCtr then (s.countUp sd.part (gaLocal sd.peerCtr)).setShadowFront d { x with counted := true }
  else
    let u := s.shadowSend d sd.part 4 sd.peerCtr 1 [] false { x with counted := true }
    u.1.setShadowFront d u.2

/-- A descriptor that is rejected has nothing to send (R306). -/
def Shadow.reject (x : Shadow) : Shadow := { x with running := true, rejected := true, sentAll := true }

/-- SHADOW_DESCRIPTOR_RUN: the oldest descriptor is checked, its writes are sent while requests are free, and once all are
answered with status 0 its COUNT is sent (R308). -/
def execShadowDescriptorRun (die : Die) (s : State) : Host.Outcome State Fault Refusal :=
  commit s (
    match s.shadow.get die with
    | [] => s
    | x :: _ =>
      if x.cancelled || x.rejected then s
      else
        let r := s.shadowReady die x
        let sd := shadowDesc (r.1.bytes x.pa 64)
        if !r.2 then r.1.setShadowFront die x.reject
        else if !x.sentAll then r.1.shadowPush die x sd
        else if x.outstanding.isEmpty && sd.peerCtr != 0 && !x.counted && x.remoteErr.isNone then r.1.shadowCount die x sd
        else r.1)

/-- What is left of a shadow descriptor to do before its record. -/
def Shadow.waits (x : Shadow) (sd : ShadowDesc) : Bool :=
  !x.sentAll || !x.outstanding.isEmpty || (sd.peerCtr != 0 && !x.counted && x.remoteErr.isNone)

/-- Another descriptor of the partition with this tag is queued: one of another stack (R306). -/
def State.shadowLeft (s : State) (part tag : Nat) : Bool :=
  bothDies.any (fun d => (s.shadow.get d).any (fun x => x.part == part && (shadowDesc (s.bytes x.pa 64)).tag == tag))

/-- What Quiley learns of a descriptor it submitted for the request whose slot is its tag (log 31): once the descriptors of every
stack have ended, positions that follow those protected are protected too; a shadow write that failed loses the shadow (R337,
R338). A descriptor that went to a peer which the request has left since tells nothing of the present one. -/
def State.shadowTold (s : State) (part tag first count st peer : Nat) : State :=
  match s.req tag with
  | none => s
  | some r =>
    if r.part ≠ part || !r.stat.live || r.peer ≠ some peer then s
    else if st = 3 then s.shadowLost r
    else if st = 0 ∧ first ≤ r.protectedUpTo ∧ !s.shadowLeft part tag then s.setReq { r with protectedUpTo := Nat.max r.protectedUpTo (first + count) }
    else s

/-- How a descriptor ended (R308). -/
def Shadow.status (x : Shadow) : Nat :=
  if x.cancelled then 4 else if x.rejected then 1 else if x.remoteErr.isSome then 3 else if x.poisoned then 2 else 0

/-- The oldest descriptor leaves its engine; what it still had out is nobody's (R308). -/
def State.dropShadow (s : State) (d : Die) (x : Shadow) : State :=
  { s with
    shadow := s.shadow.set d ((s.shadow.get d).drop 1)
    requests := s.requests.map (fun r => if r.die = d ∧ x.outstanding.contains r.id then { r with owner := .gone } else r)
    reqWait := s.reqWait.filter (fun e => !(e.1.die == d && x.outstanding.contains e.1.id)) }

/-- The 32 B record of a shadow descriptor (R308). -/
def shadowRecord (x : Shadow) (now tag : Nat) : List Byte :=
  leBytes 4 x.status ++ leBytes 4 (x.remoteErr.getD 0) ++ leBytes 8 now ++ leBytes 8 tag ++ List.replicate 8 0

/-- A descriptor's end: its record, its counter, and Quiley's notice of it (R308, R337). -/
def State.endShadow (s : State) (d : Die) (x : Shadow) (sd : ShadowDesc) : State :=
  let t := ((s.stir.dropShadow d x).homeWrite 0 sd.statusPa (shadowRecord x s.now sd.tag)).1
  ((if sd.donePa = 0 then t else t.countUp sd.part sd.donePa).bump (schedPage d) (partOff sd.part + 0x30) 32 1).shadowTold sd.part
    sd.tag sd.first sd.count x.status (gaModule (s.shadowMap sd 0).2)

/-- SHADOW_DESCRIPTOR_DONE: the record and done_pa, in every outcome (R308). -/
def execShadowDescriptorDone (die : Die) (s : State) : Host.Outcome State Fault Refusal :=
  commit s (
    match s.shadow.get die with
    | [] => s
    | x :: _ =>
      if !x.cancelled && !x.rejected && x.waits (shadowDesc (s.bytes x.pa 64)) then s
      else s.endShadow die x (shadowDesc (s.bytes x.pa 64)))

/-- A partition's descriptors are cancelled (R308). -/
def State.cancelShadows (s : State) (d : Die) (p : Nat) : State :=
  s.setShadows d ((s.shadow.get d).map (fun x => if x.part = p then { x with cancelled := true } else x))

/-- VROUTE_SHADOW_CANCEL: go cancels the partition's descriptors; a write while it reads 1 is ignored (R308, R310). -/
def writeShadowCancel (who : Who) (d : Die) (v : Word) (s : State) : Written :=
  rootOnly who (fun t =>
    if (t.shadow.get d).any (fun x => x.cancelled) then written t
    else
      let u := t.setReg (vroutePage d + 0x13C) (w64 (v.toNat % 16))
      written (if bit v.toNat 4 then u.cancelShadows d (v.toNat % 16) else u)) s

def execVrouteShadowCancel (who : Who) (die : Die) (value : Word) (s : State) : Host.Outcome State Fault Refusal :=
  commit s (crossed who (vroutePage die + 0x13C) 4 value (writeShadowCancel who die value) s)

end Sys2Proof.Machine
end

