-- ==== Sys2Proof/Machine/Power.lean ====
section
/-!
DEFINITION. Power states (R388 to R396), the resets of the package (R397, R398), boot (R399 to R402), and the loss of a rail
or a reference clock (R453, R454, R456).
-/
namespace Sys2Proof.Machine

def pwrState (d : Die) : Nat := pwrstPg d + 0x108
def State.entering (s : State) (d : Die) : Bool := s.flag (pwrState d) 2
def State.exiting (s : State) (d : Die) : Bool := s.flag (pwrState d) 3
def State.setPower (s : State) (d : Die) (v : Nat) : State := s.setFld (pwrState d) 0 2 v

/-- Boot has not started yet, or has failed, or a trip has turned the package off. -/
def State.isOff (s : State) : Bool := s.power .windward == 3 || s.power .leeward == 3

/-! ### Lull (R389, R390, R396) -/

/-- A strand keeps its die out of Lull (R389). -/
def Strand.works (x : Strand) : Bool := x.active || x.stat == .loading

/-- The conditions of R389. -/
def State.lullReady (s : State) (d : Die) : Bool :=
  s.power d == 0 && !s.entering d && !s.exiting d && s.flag (pwrstPg d + 0x100) 0 &&
  s.strands.all (fun e => !(decide (e.1 / 768 = d.idx) && (match e.2 with | some x => x.works | none => false))) &&
  s.launches.all (fun l => !(l.stage == .checked && (selCores l.coreMask).any (fun c => c.1 == d))) &&
  (List.range 16).all (fun p => !(s.partOn p && s.partG p && s.coreMask d p != 0))

/-- Since when the conditions of R389 have held: no strand has left a core of the die later, and nothing else of them has
changed. -/
def State.lullSince (s : State) (d : Die) : Nat :=
  (List.range 96).foldl (fun t c => Nat.max t (s.core d c).leftAt) (s.lullFrom.get d)

/-- LULL_IDLE_EXPIRY: the conditions have held for lull_us, and the die enters Lull (R389). -/
def execLullIdleExpiry (die : Die) (s : State) : Host.Outcome State Fault Refusal :=
  commit s (
    if s.lullReady die then (s.carry (s.lullSince die + s.fld (pwrstPg die + 0x104) 0 14 * 1000)).setFlag (pwrState die) 2 true
    else s)

/-- LULL_WAKE: the wake line of a die in Lull (R390, R396). -/
def execLullWake (die : Die) (s : State) : Host.Outcome State Fault Refusal :=
  commit s (s.wakeDie die)

/-- CALM_WAKE: the package wake line (R392, R395, R396). -/
def execCalmWake (s : State) : Host.Outcome State Fault Refusal :=
  commit s ((s.wakeDie .windward).wakeDie .leeward)

/-! ### Calm (R391 to R394) -/

/-- A queue pair has an entry that Quiley has not read. -/
def State.sqUnread (s : State) : Bool :=
  (List.range 17).any (fun f => (List.range 4).any (fun k =>
    s.pairRuns f k && s.fld (s.qpBase f k + 0x14) 16 16 != s.fld (s.qpBase f k + 0x18) 0 16))

/-- First register of a DMA channel (R415). -/
def State.dmaBase (s : State) (ch : Nat) : Nat := pg s.active Blk.pcie 0 + 0x400 + ch * 0x20
def State.dmaBusy (s : State) : Bool :=
  (List.range 16).any (fun ch => s.fld (s.dmaBase ch + 0x10) 0 16 != s.fld (s.dmaBase ch + 0x14) 0 16)

/-- The conditions of R391. -/
def State.calmReady (s : State) : Bool :=
  bothDies.all (fun d => s.power d == 1 && !s.entering d && !s.exiting d && (s.layout.get d).queue.isEmpty &&
    (s.shadow.get d).isEmpty) &&
  (match s.leader with | some d => s.flag (pwrstPg d + 0x100) 1 | none => false) &&
  (List.range 16).all (fun n => (s.stack n).cmds.isEmpty && (s.stack n).port.isEmpty) &&
  s.requests.isEmpty && s.reqWait.isEmpty && s.held.isEmpty &&
  bothDies.all (fun d => (List.range 64).all (fun m => !s.dlArmed d m)) &&
  s.launches.all (fun l => l.deadline == 0 || l.stage == .done) && !s.sqUnread && !s.dmaBusy

/-- The instant at which the conditions of R391 have held for calm_s. -/
def State.calmAt (s : State) : Nat := s.calmFrom + s.fld (pwrstPg (s.leader.getD .windward) + 0x104) 14 12 * 1000000000

/-- Both Pools are emptied (R392). -/
def State.emptyPools (s : State) : State := { s with pool := ⟨⟨[], []⟩, ⟨[], []⟩⟩ }

/-- A die begins to enter Calm, and its rails are asked for retention voltage (R392). -/
def State.enterCalm (s : State) (d : Die) : State :=
  (s.setFlag (pwrState d) 2 true).askRails d (Config.retentionMv 0) (Config.retentionMv 1)

/-- CALM_IDLE_EXPIRY: the conditions have held for calm_s: both dies begin to enter Calm, the Pools are emptied, and the rails
are asked for retention voltage (R391, R392). -/
def execCalmIdleExpiry (s : State) : Host.Outcome State Fault Refusal :=
  commit s (if s.calmReady then (((s.carry s.calmAt).emptyPools).enterCalm .windward).enterCalm .leeward else s)

/-- An entry has ended: a wake that came meanwhile starts the exit (R396). -/
def State.entered (s : State) (d : Die) (v count : Nat) (wake : Bool) : State :=
  let s1 := (((s.setPower d v).setFlag (pwrState d) 2 false).bump (pwrstPg d) count 32 1).stir
  let s2 := s1.setHk d { s1.hk.get d with wakePending := false }
  if wake then s2.beginExit d else s2

/-- A voltage write that a die waits for has not been answered yet (R392). -/
def State.voltWaits (s : State) (d : Die) : Bool := (s.hk.get d).avs.any (fun r => r.kind == .setVolt)

/-- A wake came during the entry of either die. -/
def State.wokenEither (s : State) : Bool := (s.hk.get .windward).wakePending || (s.hk.get .leeward).wakePending

/-- POWER_ENTRY_DONE: the entry that runs completes. Calm waits until running maintenance has reached its end and the rails have
their retention voltage (R392, R396). -/
def execPowerEntryDone (die : Die) (s : State) : Host.Outcome State Fault Refusal :=
  commit s (
    if !s.entering die then s
    else if s.power die = 0 then s.entered die 1 0x040 (s.hk.get die).wakePending
    else if s.maint.any (fun m => m.running) || bothDies.any s.voltWaits then s
    else (s.entered .windward 2 0x044 s.wokenEither).entered .leeward 2 0x044 s.wokenEither)

/-- A watch's reading of a diode: only warn_c is compared (R394). -/
def State.watchDiode (d : Die) (s : State) (n : Nat) (t : Int) : State :=
  let old := s.fld (thermPg d + 0x100 + n * 4) 17 2
  let zone := Nat.min 1 (s.zoneOf d old t)
  (s.zoneUp d n old zone t).showDiode d n zone false t

/-- A watch's samples of a channel: the registers, the energy of the interval, and warn_a (R394). -/
def State.watchChan (d : Die) (ms : Nat) (s : State) (c ma mv : Nat) : State × Bool :=
  let x := (s.hk.get d).chans.getD c Chan.reset
  let r := ((s.setReg (chanReg d c) (w64 (ma % 2 ^ 32))).setReg (chanReg d c + 4) (w64 (mv % 2 ^ 16))).addEnergy d c x
    (mv * ma * ms * 1000)
  let s1 := r.1.setHk d { r.1.hk.get d with chans := (r.1.hk.get d).chans.set c { r.2 with capMa := ma, mv := mv } }
  if s.fld (chanReg d c + 0x18) 0 16 * 1000 ≤ ma then
    (((s1.setFlag (chanReg d c + 0x14) 1 true).raise (measPg d) 0x0606 none c (ma / 1000) false false).alert.telemetry 0x0606, true)
  else (s1, false)

/-- The instant of the next reading of the watch, which is watch_ms after the last (R394). -/
def State.watchAt (s : State) (d : Die) : State :=
  let t := s.carry ((s.hk.get d).readAt + s.fld (pwrstPg d + 0x10C) 0 10 * 1000000)
  t.setHk d { t.hk.get d with readAt := t.now }

/-- The watch reads the diodes of the die and of its stacks (R394). -/
def State.watchDiodes (s : State) (d : Die) (facts : ScanFacts) : State :=
  let h := s.hk.get d
  let t := facts.dieDiode.getLastD h.diodeNow
  ((List.range 8).zip facts.stackDiode).foldl (fun (u : State) e => (u.watchDiode d (e.1 + 1) e.2).timed d (e.1 + 1))
    ((((s.setHk d { h with diodeNow := t, history := [t] }).timed d 0).bump (pwrstPg d) 0x048 32 1).watchDiode d 0 t)

/-- The watch reads the current channels; whether one was at or above its limit (R394). -/
def State.watchChans (s : State) (d : Die) (facts : ScanFacts) (meanMa : List Nat) : State × Bool :=
  ((List.range 5).zip meanMa).foldl (fun (acc : State × Bool) e =>
    let y := acc.1.watchChan d (acc.1.fld (pwrstPg d + 0x10C) 0 10) e.1 e.2 (facts.railMv.getD e.1 0)
    (y.1, acc.2 || y.2)) (s, false)

/-- A diode of the die stands at or above its limit. -/
def State.anyHot (s : State) (d : Die) : Bool :=
  (List.range 9).any (fun n => decide (1 ≤ s.fld (thermPg d + 0x100 + n * 4) 17 2))

/-- WATCH_CYCLE: the sequencer's readings in Calm; one at or above its limit is recorded, and starts the exit where
wake_on_warn is set (R394). -/
def execWatchCycle (die : Die) (facts : ScanFacts) (meanMa : List Nat) (s : State) : Host.Outcome State Fault Refusal :=
  commit s (
    if s.power die ≠ 2 then s
    else
      let r := ((s.watchAt die).watchDiodes die facts).watchChans die facts meanMa
      if (r.2 || r.1.anyHot die) && r.1.flag (pwrstPg die + 0x10C) 10 then r.1.wakeDie die else r.1)

/-! ### Package reset (R397, R398) -/

/-- A register that a package reset keeps: the housekeeping domain's, but for the locks, and every ROS register (R397, R429,
R435). -/
def keptReg (a : Nat) : Bool :=
  decide (a < 0x40000000) &&
    ((hkPage (regType a) && regOff a != 0x00C) || regOff a == 0x020 || regOff a == 0x028 || regOff a == 0x030 || regOff a == 0x038)

/-- A latched trip is released where every diode reads below 110 °C as the reset is asserted (R377). -/
def State.releaseTrip (s : State) : State :=
  let cool := bothDies.all (fun d => (List.range 9).all (fun n => decide (signed (s.fld (thermPg d + 0x100 + n * 4) 0 16) 16 < 110 * 16)))
  if !cool then s
  else
    let clear (t : State) (d : Die) : State :=
      (List.range 9).foldl (fun (u : State) n => u.setFlag (thermPg d + 0x100 + n * 4) 20 false) t
    bothDies.foldl clear { s with pins := { s.pins with thermTripN := true } }

/-- A firmware write of an update that is not verified is abandoned (R423). -/
def Store.abandonUpdate (x : Store) (verified : Bool) : Store :=
  match x.writing with
  | some w => if w.area = 1 ∧ !verified then { x with writing := none, pendingFw := false, stopped := x.stopped ++ [1] }
    else { x with pendingFw := false }
  | none => { x with pendingFw := false }

/-- What a package reset keeps: fuses, pins, clocks and times, the housekeeping registers, the store, the monitors, the fault
log; all else is as after reset (R397). The contents of memory are gone: the model lists nothing (log 2). -/
def State.keptOver (s : State) : State :=
  { State.reset with
    fuses := s.fuses
    pins := s.pins
    now := s.now
    issue8 := s.issue8
    cycle8 := s.cycle8
    regs := s.regs.filter (fun e => keptReg e.1)
    snap := s.snap.filter (fun e => keptReg e.1)
    bus := [.clear 0 (2 ^ 44)]
    hk := ⟨{ s.hk.w with wakePending := false }, { s.hk.l with wakePending := false }⟩
    cap := s.cap
    time := { s.time with t1 := none, misses := 0 }
    store := s.store.abandonUpdate s.host.verified
    monitors := s.monitors
    recQueue := s.recQueue.filter (fun e => hkPage (regType e.1))
    faultLog := s.faultLog
    logLatch := s.logLatch
    host := { State.reset.host with eid := s.host.eid, i3cAddr := s.host.i3cAddr, challenges := s.host.challenges
                                    verified := s.host.verified && (s.store.writing.map (·.area)) == some 1
                                    challengeNotBefore := s.host.challengeNotBefore, boots := s.host.boots }
    out := s.out
    fresh := s.fresh }

/-- A die's power registers as a package reset leaves them, with its cause; its reset-done bit is clear (R397, R398). -/
def State.resetPower (s : State) (cause : Nat) (d : Die) : State :=
  (((s.setReg (pwrState d) 3).setReg (pwrstPg d + 0x114) 0).setReg (pwrstPg d + 0x118) (w64 cause)).setFlag (hkPg d + 0x100) 3 false

/-- The time state of a package that has no time yet: the root keeps its own (R296). -/
def State.resetTime (s : State) : State := s.setFld (timePg + 0x10C) 0 2 (if s.flag (timePg + 0x108) 0 then 3 else 0)

/-- Every domain but housekeeping is reset; the cause is 1 for the pin, 2 for the register, 3 for management (R397, R398,
R408). The pin alone releases a latched trip (R377). -/
def State.packageReset (s : State) (cause : Nat) : State :=
  (((((if cause = 1 then s.keptOver.releaseTrip else s.keptOver).resetTime).withdraw .windward).withdraw .leeward).resetPower cause .windward).resetPower cause .leeward

/-- The level of PKG_RST_N. -/
def State.setPkgRst (s : State) (b : Bool) : State := { s with pins := { s.pins with pkgRstN := b } }

/-- PKG_RST_ASSERT: the pin goes low (R398). -/
def execPkgRstAssert (s : State) : Host.Outcome State Fault Refusal :=
  commit s (if s.pins.rails.contains .hk then (s.setPkgRst false).packageReset 1 else s.setPkgRst false)

/-- PWRST_RESET: pkg_reset starts a package reset (R398, R408). -/
def writePwrstReset (who : Who) (_d : Die) (v : Word) (s : State) : Written :=
  rootOnly who (fun t => written (if bit v.toNat 0 then t.packageReset 2 else t)) s

def execPwrstReset (who : Who) (die : Die) (value : Word) (s : State) : Host.Outcome State Fault Refusal :=
  commit s (writePwrstReset who die value s).1

/-- A store write that VDD_HK no longer carries leaves its copy without commit (R404). -/
def Store.stop (x : Store) : Store :=
  { x with
    writing := none, pendingData := false, pendingFw := false, persistId := none, svnWaiting := false
    stopped := match x.writing with | some w => x.stopped ++ [w.area] | none => x.stopped }

/-- What a cold reset keeps: the fuses and the store; boots are counted on (R397). -/
def State.cold (s : State) : State :=
  { State.reset with
    fuses := s.fuses, store := s.store.stop, bus := [.clear 0 (2 ^ 44)], host := { State.reset.host with boots := s.host.boots }
    out := s.out, fresh := s.fresh }

/-- COLD_RESET: VDD_HK rises into its limits: everything is reset but fuses and store (R397, R452). -/
def execColdReset (s : State) : Host.Outcome State Fault Refusal := commit s s.cold

/-! ### Boot (R399 to R401) -/

def State.setStage (s : State) (v : Nat) : State := bothDies.foldl (fun (t : State) d => t.setFld (pwrState d) 4 4 v) s
def State.stage (s : State) : Nat := s.fld (pwrState .windward) 4 4

/-- BOOT_STEP_FAIL: the record, and boot_err at the first step that fails (R400). -/
def State.bootFail (s : State) (step : Nat) : State :=
  let s1 := s.raise (pwrstPg s.active) 0x0901 none step 0 false false
  bothDies.foldl (fun (t : State) d => if t.fld (pwrState d) 8 8 = 0 then t.setFld (pwrState d) 8 8 step else t) s1

/-- LEAD_SEL as both dies sampled it: named, and valid where they agree on a level (R382). -/
def leadSel (f : BootFacts) : Bool × Bool :=
  (f.leadW == f.leadL && f.leadW != .unreadable, f.leadW == .high)

/-- The firmware copy an image is taken from, and whether it is the newest one (R406). -/
def Store.image (x : Store) (ok : Bool × Bool) (ver : StoreCopy → Nat) (floor : Nat) : Option (Nat × Bool) :=
  let good (c : Nat) : Bool := (x.copy 1 c).valid && (if c = 0 then ok.1 else ok.2) && decide (floor ≤ ver (x.copy 1 c))
  match x.bootCopy 1 with
  | none => none
  | some n => if good n then some (n, true) else if good (1 - n) then some (1 - n, false) else none

/-- Steps 1 to 3: the pins, the store's copies, and leadership (R382, R399, R403). -/
def State.bootStore (s : State) (f : BootFacts) : State :=
  let lead := leadSel f
  let s1 : State := { s with
    pins := { s.pins with clkLost := [] }
    host := { s.host with boots := s.host.boots + 1 }
    store := { s.store with
      dataUse := s.store.bootCopy 0 == some 1, fwUse := s.store.bootCopy 1 == some 1, stopped := [], persistId := none } }
  let s2 := s.store.stopped.foldl (fun (t : State) a =>
    (t.bump t.cfgstPage 0x044 32 1).raise t.cfgstPage 0x0903 none a 0 false false) s1
  bothDies.foldl (fun (t : State) d =>
    let h := t.hk.get d
    ((((t.setFld (leadPg d + 0x104) 0 5 (boolNat lead.1 * 8 + boolNat ((if d = .windward then f.leadW else f.leadL) == .high) * 16)).setReg (leadPg d + 0x100) 1).setHk d
      { h with
        holdCap := false, raiseTo := none, stamp := 0, peerEpoch := 1, lastBeat := some t.now, beatsSince := some t.now
        lastCap := t.now, probeMisses := 0, beatSeen := 0, beatAt := t.now, readAt := t.now, refAt := t.now, avs := [] }).setFlag
      (hkPg d + 0x100) 0 (!h.holdPll)).setReg (hkPg d + 0x108) 0) s2

/-- Step 3 ends: the named die leads with epoch 1 (R382). -/
def State.bootLead (s : State) (f : BootFacts) : State :=
  let d : Die := if (leadSel f).1 && (leadSel f).2 then .leeward else .windward
  s.setFlag (leadPg d + 0x104) 0 true

/-- Step 5: the repair map of the data copy in use, to cores, NBUs, rows, vertical connections and lanes, and the module ID of its identity record (R401, R403). -/
def State.bootRepairs (s : State) : State :=
  let map : RepairMap := match s.store.bootCopy 0 with
    | some c => (s.store.copy 0 c).repairs
    | none => ⟨[], [], []⟩
  let id := match s.store.bootCopy 0 with | some c => (s.store.copy 0 c).moduleId | none => none
  let s1 : State := { s with
    roles := map.roles
    stk := map.stks.foldl (fun (m : Map (Option Stack)) (r : StackRepair) => mset none m r.stack (some { Stack.empty with
      unavailable := r.unavailable, nbuRetired := r.nbuRetired, rowsUsed := r.rowsUsed, rowsReplaced := r.rowsReplaced
      vcUsed := r.vcUsed, retiredGranules := r.retiredGranules })) [] }
  let s2 := map.lanes.foldl (fun (t : State) e =>
    ((t.setPort e.1 { t.port e.1 with failedLanes := [e.2] }).setFlag (portPage e.1 + 0x104) 3 true).setFld (portPage e.1 + 0x104) 4 4 e.2) s1
  match id with
  | some i => bothDies.foldl (fun (t : State) d =>
      (t.setReg (pwrstPg d + 0x114) (w64 (i % 2 ^ 16 + 2 ^ 16 + 2 ^ 17))).setReg (schedPage d + 0x9A0) (w64 (i % 2 ^ 16 + 2 ^ 16))) s2
  | none => s2

/-- Step 6: a core that fails its self-test passes its number to a spare, or the number is lost (R276, R400). -/
def State.bootCore (s : State) (e : Die × Nat) : State :=
  match (s.role e.1 e.2).logical with
  | none => (s.setRole e.1 e.2 ⟨none, true⟩).storeRequest 0
  | some c =>
    match (List.range 104).find? (fun p => (s.role e.1 p).logical.isNone && !(s.role e.1 p).retired && p != e.2) with
    | some p => ((s.setRole e.1 e.2 ⟨none, true⟩).setRole e.1 p ⟨some c, false⟩).storeRequest 0
    | none => ((s.setRole e.1 e.2 ⟨none, true⟩).storeRequest 0).bootFail 6

/-- Step 7: stacks train; one that does not holds nothing (R27, R400). -/
def State.bootStacks (s : State) (fail : List Nat) : State :=
  let s1 := (List.range 16).foldl (fun (t : State) n =>
    if fail.contains n then t else t.setStack n { t.stack n with trained := true }) s
  if (List.range 16).any fail.contains then s1.bootFail 7 else s1

/-- The rate a die's Reservoir runs at: the highest at which every populated controller passes (R399); 0 where none trains. -/
def rvrRate (f : BootFacts) (d : Die) : Nat :=
  let l := ((List.range 6).map (fun i => f.rvr.getD (d.idx * 6 + i) (0, 0, 0, 0))).filter (fun c => decide (0 < c.1) && decide (0 < c.2.2.2))
  match l.map (fun c => Nat.min c.2.2.2 3) with
  | [] => 0
  | x :: r => r.foldl Nat.min x

/-- Step 8 for one controller: the population, and training or failure (R28, R251, R254, R255). -/
def State.bootRvr (f : BootFacts) (s : State) (c : Nat) : State :=
  let x := f.rvr.getD c (0, 0, 0, 0)
  let page := rvrPage c
  if x.1 = 0 then s
  else
    let s1 := s.setReg (page + 0x100)
      (w64 (rvrRate f (dieOf (c / 6)) + x.2.1 % 4 * 4 + x.2.2.1 % 2 * 16 + x.1 % 256 * 256 + x.1 * 31 / 16 % 256 * 65536))
    if x.2.2.2 = 0 then ((s1.setFlag (page + 0x104) 1 true).raise page 0x030B none 0 1 false false).bootFail 8
    else { s1.setFlag (page + 0x104) 0 true with rvrInit := s1.rvrInit ++ [c] }

/-- The link the host's side trains to (log 27). -/
def State.trainLink (s : State) : State :=
  let r := Config.hostLink s.fresh
  let rate := r.1 % 6 + 1
  let s1 : State := { s with fresh := s.fresh + 1, host := { s.host with linkUp := true } }
  s1.setReg (pg s.active Blk.pcie 0 + 0x100) (w64 (rate + [1, 2, 4, 8, 16].getD (r.2 % 5) 16 * 8 + boolNat (rate == 6) * 256))

/-- Step 9: the SCC firmware, and Quiley (R399, R400, R406). -/
def State.bootScc (s : State) (f : BootFacts) : State :=
  match s.store.image f.sccFw (·.sccVer) s.fuses.sccSvn with
  | some (n, first) =>
    let s1 : State := { s with quiley := { s.quiley with running := true }, store := { s.store with runScc := (s.store.copy 1 n).sccVer } }
    if first then s1 else s1.raise s1.cfgstPage 0x0902 none 2 0 false false
  | none => s.bootFail 9

/-- Steps 5 to 10 on both dies, once the rails are up (R399). -/
def State.bootRest (s : State) (f : BootFacts) : State :=
  let s1 := bothDies.foldl (fun (t : State) d =>
    let h := t.hk.get d
    let u := t.setHk d { h with downRails := none, offRail := none, stopped := t.fld (thermPg d + 0x100) 17 2 == 3 }
    (u.setClock d (Nat.min 35 (u.clockLim d))).showTherm d) s.bootRepairs
  let s2 := (f.coreFail.foldl State.bootCore s1).bootStacks f.stackFail
  let s3 := ((List.range 12).foldl (State.bootRvr f) s2).bootScc f
  let s4 := bothDies.foldl (fun (t : State) d =>
    let u := (t.setPower d 0).setFlag (hkPg d + 0x100) 2 true
    (List.range 12).foldl (fun (v : State) i => v.setPort (d.idx * 12 + i) { v.port (d.idx * 12 + i) with txIdle := false }) u) s3
  let s5 := ((s4.stir.stirLull .windward).stirLull .leeward).setStage (if s4.flag (pwrstPg s4.active + 0x114) 16 then 10 else 9)
  if s5.pins.perstN then s5.trainLink else s5

/-- The rails in the order in which boot raises them (R399 step 4). -/
def bootRails : List Rail := [.vpp, .stk, .vddq, .lp, .link, .sramW, .sramL, .coreW, .coreL]

/-- The first n rails of that order are up, beside those that a reset left up (R398). -/
def State.raiseRails (s : State) (n : Nat) : State :=
  { s with pins := { s.pins with rails := bootRails.filter (fun r => (bootRails.take n).contains r || s.pins.rails.contains r) ++ [.hk] } }

/-- The rails already raised are to be turned off again in the order of R377 (R400). -/
def State.dropRails (s : State) : State := bothDies.foldl State.dieDown s

/-- The boot order (R399, R400). -/
def State.boot (s : State) (f : BootFacts) : State :=
  let s1 := s.bootStore f
  match s1.store.image f.hkFw (·.hkVer) s1.fuses.hkSvn with
  | none => (s1.bootFail 3).setStage 15
  | some (n, first) =>
    if f.hkBootSel then (s1.bootFail 3).setStage 15
    else
      let s2 : State := { s1 with store := { s1.store with runHk := (s1.store.copy 1 n).hkVer } }
      let s3 := (if first then s2 else s2.raise s2.cfgstPage 0x0902 none 1 0 false false).bootLead f
      match f.railFail with
      | some n => (((s3.raiseRails n).bootFail 4).setStage 3).dropRails
      | none => (s3.raiseRails 9).bootRest f

/-- Boot may run: the package is off, no boot has failed, no store write is in progress, and VDD_HK is up (R398, R399). -/
def State.mayBoot (s : State) : Bool :=
  s.power .windward == 3 && s.stage == 0 && s.store.writing.isNone && s.pins.rails.contains .hk

/-- Boot waits for the store write that was in progress (R398). -/
def State.waitBoot (s : State) (f : BootFacts) : State :=
  if s.power .windward == 3 && s.stage == 0 && s.store.writing.isSome && s.pins.rails.contains .hk then { s with bootWaits := some f } else s

/-- PKG_RST_DEASSERT: the reset ends, and boot runs once a store write that was in progress has completed (R398, R399). After a
reset by the register or by management the pin is high already, and the command stands for that reset's own end, since it
alone carries what boot finds (log 112). -/
def execPkgRstDeassert (facts : BootFacts) (s : State) : Host.Outcome State Fault Refusal :=
  commit s (if (s.setPkgRst true).mayBoot then (s.setPkgRst true).boot facts else (s.setPkgRst true).waitBoot facts)

/-- The boot that waited for the store begins (R398). -/
def State.bootNow (s : State) : State :=
  match s.bootWaits with
  | some f => if s.mayBoot then ({ s with bootWaits := none } : State).boot f else s
  | none => s

/-- CFG_STORE_WRITE_DONE: the commit is programmed; a data copy is in use from now on, a firmware copy from the next boot, the
merged write begins, and a boot that waited for the store runs (R398, R404). -/
def execCfgStoreWriteDone (s : State) : Host.Outcome State Fault Refusal :=
  commit s (
    match s.store.writing with
    | none => s
    | some w => if w.ops < 4 then s else (s.storeEnds w).bootNow)

/-- The module ID is valid on a die, and SCHED shows it (R401). -/
def State.setModuleId (s : State) (id : Nat) (d : Die) : State :=
  (s.setReg (pwrstPg d + 0x114) (w64 (id + 2 ^ 16))).setReg (schedPage d + 0x9A0) (w64 (id + 2 ^ 16))

/-- The module ID is to be written to the store (R401). -/
def State.persist (s : State) (id : Nat) : State :=
  ({ s with store := { s.store with persistId := some id } } : State).storeRequest 0

/-- Boot's step 10 follows once the module ID is valid (R399). -/
def State.afterId (s : State) : State := if s.stage = 9 then s.setStage 10 else s

/-- PWRST_MODULE_ID: with no ID valid, the write makes it valid on both dies, and ports may train (R401). -/
def writeModuleId (who : Who) (_d : Die) (v : Word) (s : State) : Written :=
  rootOnly who (fun t =>
    if t.flag (pwrstPg t.active + 0x114) 16 then written t
    else
      let id := v.toNat % 2 ^ 16
      let u := ((t.setModuleId id .windward).setModuleId id .leeward).afterId
      written (if bit v.toNat 18 then u.persist id else u)) s

def execPwrstModuleIdWrite (who : Who) (die : Die) (value : Word) (s : State) : Host.Outcome State Fault Refusal :=
  commit s (writeModuleId who die value s).1

/-! ### Losses (R453, R454, R456) -/

/-- A reference clock is lost: what it alone keeps going stops (R456). The probes of R385 find a die whose REFCLK_SYS is
lost. -/
def State.clkGone (s : State) : RefClk → State
  | .pcie => s.linkDown
  | .sys _ => s
  | .link d => ((List.range 12).map (fun i => d.idx * 12 + i)).foldl (fun (u : State) p => if u.portLive p then u.portDead p 1 else u) s
  | .xtal d => ({ s with pins := { s.pins with thermTripN := false } } : State).withdraw d

def State.noteClk (s : State) (c : RefClk) : State := { s with pins := { s.pins with clkLost := s.pins.clkLost ++ [c] } }

/-- REFCLK_LOSS (R456). -/
def execRefclkLoss (clk : RefClk) (s : State) : Host.Outcome State Fault Refusal :=
  commit s (if s.pins.clkLost.contains clk then s else (s.noteClk clk).clkGone clk)

/-- The die that measures a rail and its select value (R378, R449). -/
def railSel : Rail → Die × Nat
  | .coreW => (.windward, 0)
  | .sramW => (.windward, 1)
  | .stk => (.windward, 2)
  | .vddq => (.windward, 3)
  | .vpp => (.windward, 4)
  | .coreL => (.leeward, 0)
  | .sramL => (.leeward, 1)
  | .link => (.leeward, 2)
  | .lp => (.leeward, 3)
  | .hk => (.leeward, 4)

/-- Without VDD_HK the whole package stops, and a store write with it (R404, R453). -/
def State.hkGone (s : State) : State :=
  let t : State := { s with pins := { s.pins with rails := [] }, store := s.store.stop }
  bothDies.foldl (fun (u : State) d => (u.withdraw d).setPower d 3) t

/-- The package is off, or turning its rails off. -/
def State.railsDown (s : State) : Bool := s.isOff || bothDies.any (fun d => (s.hk.get d).downRails.isSome)

/-- RAIL_LOSS: without VDD_HK the whole package stops, and a store write with it; another rail is handled as a rail that
reads low (R404, R453, R454). -/
def execRailLoss (rail : Rail) (s : State) : Host.Outcome State Fault Refusal :=
  commit s (
    if !s.pins.rails.contains rail then s
    else if rail = .hk then s.hkGone
    else if (s.dropRail rail).railsDown then (s.dropRail rail).offWhenBare
    else (s.dropRail rail).railLow (railSel rail).1 (railSel rail).2)

end Sys2Proof.Machine
end

