-- ==== Sys2Proof/Machine/Weir.lean ====
section
/-!
DEFINITION. The Weir (R324, R329 to R331): policies, the cores a partition decodes and prefills on, and the bound of a step
from the figures of the rules that govern its parts. Times are in ps until a step's bound is rounded up to ns.
-/
namespace Sys2Proof.Machine

/-! ### Policy and cores -/

/-- The policy before any SET_POLICY (R319). -/
def Policy.start : Policy := ⟨0, 0, 30, 1024, 600⟩
def State.policy (s : State) (p : Nat) : Policy := mget Policy.start s.quiley.policy p

/-- The assigned logical cores of a partition on a die, in ascending order: the first decode_cores of them are its decode cores
(R324). -/
def State.assignedCores (s : State) (p : Nat) (d : Die) : List Nat := (List.range 96).filter (s.namesCore p d)
def Policy.decodeOn (q : Policy) : Die → Nat
  | .windward => q.decodeW
  | .leeward => q.decodeL

/-- The decode cores and the prefill cores of a die that hold a logical number (R276, R324). -/
def State.decodeCores (s : State) (p : Nat) (d : Die) : List Nat :=
  ((s.assignedCores p d).take ((s.policy p).decodeOn d)).filter (fun c => (s.physOf d c).isSome)
def State.prefillCores (s : State) (p : Nat) (d : Die) : List Nat :=
  ((s.assignedCores p d).drop ((s.policy p).decodeOn d)).filter (fun c => (s.physOf d c).isSome)

/-- A core mask of a launch descriptor (R45). -/
def coreSet (d : Die) (l : List Nat) : Nat := (l.map (fun c => 2 ^ (d.idx * 96 + c))).foldl (· + ·) 0

/-! ### What a command reaches at a length (R194, R195, R326) -/

/-- The pattern of a head's ATTEND for a table slot at a length: the package's, with the length and the offsets of map and
summaries; globals beyond the last page are left out, and the candidates are the full pages between the package's first and
last that lie before the window. -/
def patternFor (h : HeadPlan) (slot len : Nat) : List Byte :=
  let b := h.cmd.drop (h.cmd.length - 256)
  let p := cPattern h.cmd
  let b1 := patch (patch b 8 (leBytes 4 len)) 0x10 (leBytes 8 (mapOf h slot))
  if p.mode = 0 then b1
  else
    let pages := ceilDiv len 64
    let kept := ((p.globs.zip p.masks).take p.nGlob).filter (fun e => decide (e.1 < pages))
    let zeros (n : Nat) : List Byte := List.replicate n 0
    let b2 := patch (patch (patch b1 0x1C (leBytes 2 kept.length)) 0x20 (kept.flatMap (fun e => leBytes 2 e.1) ++ zeros (2 * (16 - kept.length))))
      0x40 (kept.flatMap (fun e => leBytes 8 e.2) ++ zeros (8 * (16 - kept.length)))
    let last := Nat.min p.last (Nat.min (pages - p.winLen / 64) (len / 64) - 1)
    if p.selCount = 0 ∨ Nat.min (pages - p.winLen / 64) (len / 64) ≤ p.first then
      patch (patch b2 0x1E (zeros 2)) 0xC0 (zeros 16)
    else patch b2 0xC0 (leBytes 8 (sumsOf h slot) ++ leBytes 4 p.first ++ leBytes 4 last)

/-- The numbers from `lo` to `hi` − 1 that leave `r` when divided by `n`. -/
def countMod (lo hi r n : Nat) : Nat := (hi + n - 1 - r) / n - (lo + n - 1 - r) / n

/-- The pages a head's ATTEND at a length can attend on the NBU that is `x`-th of the head's, with every candidate counted up to
sel_count; the pages of an NBU that is unavailable lie on the next that is not (R174, R330). -/
def State.pagesOn (s : State) (h : HeadPlan) (p : Pattern) (x : Nat) : Nat :=
  let n := Nat.max 1 h.nbuN
  let bad (k : Nat) : Bool := (s.stack h.stack).unavailable.contains (h.nbu0 + k % n)
  let home (r : Nat) : Nat := (r + ((List.range n).find? (fun k => !bad (r + k))).getD 0) % n
  let here := (List.range n).filter (fun r => home r == x)
  if p.mode = 2 then 0
  else
    let sure := (here.map (fun r => countMod p.winFirst p.pages r n)).foldl (· + ·) 0 +
      (if p.mode = 0 then (here.map (fun r => countMod 0 p.winFirst r n)).foldl (· + ·) 0
       else (p.globals.filter (fun i => !p.inWindow i && here.contains (i % n))).length)
    let cands := if p.mode = 0 ∨ p.selCount = 0 then 0 else
      (here.map (fun r => countMod p.first (p.last + 1) r n)).foldl (· + ·) 0 -
        (p.globals.filter (fun i => decide (p.first ≤ i) && decide (i ≤ p.last) && here.contains (i % n))).length
    sure + Nat.min p.selCount cands

/-! ### Bounds of tasks (R331) -/

/-- Enabled partitions other than one that own a granule of a stack half (R172). -/
def State.sharers (s : State) (p n half : Nat) : Nat :=
  ((List.range 16).filter (fun q => q != p && s.partOn q && (s.stack n).own.any (fun e => e.2 == q + 16 && e.1 % 2 == half))).length

/-- The time of a command's slices on one NBU: `k` pages of a cost (R170, R173), each slice with its wait where the partition is
Shared (R172). -/
def slicesPs (cost k others : Nat) : Nat :=
  if k = 0 then 0
  else
    let per := Nat.max 1 (Nat.min 64 (4096 / cost))
    400000 + ceilDiv k per * (200000 + others * 8000000) + 1700 * (k * cost)

/-- The ATTENDs of lanes on one stack, accepted one after the other: acceptance (R162), the page map, the selection, the NBU
with the most work up to each, the combiner (R174) and the Basin (R209); the last to complete counts. A lane is a table slot and a length. -/
def State.attendPs (s : State) (p : Nat) (heads : List HeadPlan) (lanes : List (Nat × Nat)) : Nat :=
  let cmds := lanes.flatMap (fun l => heads.map (fun h => (h, cPattern (patternFor h l.1 l.2))))
  let others (h : HeadPlan) (u : Nat) : Nat := if s.partG p then 0 else s.sharers p h.stack (u / 256)
  let units := (heads.flatMap (fun h => (List.range h.nbuN).map (fun x => h.nbu0 + x))).dedup
  let work := units.map (fun u => cmds.map (fun c =>
    if c.1.nbu0 ≤ u ∧ u < c.1.nbu0 + c.1.nbuN then slicesPs (costPage c.1.cmd) (s.pagesOn c.1 c.2 (u - c.1.nbu0)) (others c.1 u) else 0))
  let reads (q : Pattern) : Nat := (q.mapSpans.map (fun x => x.2 / 8)).foldl (· + ·) 0
  let scored (q : Pattern) : Nat := if q.mode = 0 ∨ q.selCount = 0 then 0 else q.last + 1 - q.first
  let sel (q : Pattern) : Nat := if scored q = 0 then 0 else 1000000 + 3000000 * ceilDiv (scored q) 4096
  2000000 + listMax ((cmds.zip (List.range cmds.length)).map (fun c =>
    2000000 + ceilDiv (20000 * reads c.1.2) 1024 + sel c.1.2 + listMax (work.map (fun l => (l.take (c.2 + 1)).foldl (· + ·) 0)) + 1500000 +
      100000 + 500 * (ceilDiv (cQ c.1.1.cmd) 2 + ceilDiv (544 * cQ c.1.1.cmd) 256)))

/-- Tenths of GB/s that a controller sustains at its data rate (R239, R250). -/
def State.rvrTenths (s : State) (c : Nat) : Nat :=
  match s.fld (rvrPage c + 0x100) 0 2 with | 1 => 788 | 2 => 923 | _ => 1050

/-- GEMVs on one stack, accepted one after the other: acceptance (R162), and the NBU with the most work, each slice with its wait
where the partition is Shared (R172 to R174). -/
def State.gemvPs (s : State) (p n : Nat) (cmds : List (List Byte)) : Nat :=
  let slices := cmds.map gemvSlices
  let units := ((slices.flatMap id).map (·.nbu)).dedup
  let others (u : Nat) : Nat := if s.partG p then 0 else s.sharers p n (u / 256)
  let one (u : Nat) (l : List Slice) : Nat :=
    let mine := l.filter (fun x => x.nbu == u)
    if mine.isEmpty then 0
    else 400000 + (mine.map (fun x => 200000 + others u * 8000000 + 1700 * x.cost)).foldl (· + ·) 0
  4500000 + listMax (units.map (fun u => (slices.map (one u)).foldl (· + ·) 0))

/-- Latency in ns and sustained rate in tenths of a byte a ns of a memory path (R238, R239); a Degraded port carries half (R284),
and a Reservoir path what its partition's working controllers carry at their data rates (R250). -/
def State.pathRate (s : State) (p : Nat) : MemPath → Nat × Nat
  | .stack far => (if far then 975 else 900, 18000)
  | .near => (900, 144000)
  | .package => (975, 200000)
  | .reservoir d far => (if far then 1475 else 1400, Nat.max 788
      ((((List.range 6).map (fun c => d.idx * 6 + c)).filter (fun c => s.namesRvr p c && !s.rvrFailed c)).map s.rvrTenths).sum)
  | .pool far => (if far then 275 else 200, if far then 100000 else 200000)
  | .remote port => (1570, if s.portState port = 3 then 1000 else 2000)

/-- The core-sharing bound's addition to a time on a core (R352). -/
def State.sharePs (s : State) (p : Nat) (d : Die) (ps c : Nat) : Nat :=
  if s.partG p then 0
  else
    let rest := (s.coreUsers d c).filter (· != p)
    ceilDiv ps (Nat.max 1 (s.turnNs d c p * 1000)) *
      (rest.map (fun q => (s.turnNs d c q + s.wdCapMs q * 1000000 + 30000) * 1000)).foldl (· + ·) 0

/-- task_bound in ps for lanes given by table slot and length (R331): each figure from its own rule, with the waits of a Shared
partition. -/
def State.taskPs (s : State) (p : Nat) (m : ModelPackage) (lanes : List (Nat × Nat)) : TaskBound → Nat
  | .published base lane page shared =>
    1000 * (base + lane * lanes.length + page * (lanes.map (fun l => ceilDiv l.2 64)).foldl (· + ·) 0 + (if s.partG p then 0 else shared))
  | .core d cycles lane =>
    let cs := s.decodeCores p d
    let t := ceilDiv (ceilDiv (cycles + lane * lanes.length) (Nat.max 1 cs.length) * 2500) 3
    t + listMax (cs.map (s.sharePs p d t))
  | .path q bytes lane page =>
    let b := bytes + lane * lanes.length + page * (lanes.map (fun l => ceilDiv l.2 64)).foldl (· + ·) 0
    (s.pathRate p q).1 * 1000 + ceilDiv (b * 10000) (s.pathRate p q).2
  | .attend is =>
    let hs := is.filterMap (fun i => m.heads[i]?)
    listMax ((List.range 16).map (fun n => match hs.filter (fun h => h.stack == n) with
      | [] => 0
      | l => s.attendPs p l lanes))
  | .gemv n cmds => s.gemvPs p n cmds
  | .layout d src dst conv slices rvr =>
    let others := ((List.range 16).filter (fun q => q != p && s.partOn q && s.fld (layoutPage d + 0x108) (4 * q) 4 != 0)).length
    1000000 + 500 * Nat.max (ceilDiv src 8) (Nat.max (ceilDiv dst 8) (ceilDiv conv 512)) +
      (if s.partG p then 0 else slices * others * (if rvr then 4000000 else 2000000))
  | .launch => 3000000

/-- The stages of a package, in order, each as long as its longest task (R329). -/
def State.stagesPs (s : State) (p : Nat) (m : ModelPackage) (lanes : List (Nat × Nat)) : Nat :=
  (m.stages.map (fun g => listMax (g.map (s.taskPs p m lanes)))).foldl (· + ·) 0

/-- commit_bound in ns: 4 µs, 0.02 µs a lane, and the confirmation of each shadowed lane (R329). -/
def commitBound (lanes : List Serve) : Nat :=
  4000 + 20 * lanes.length + ((lanes.filterMap (·.peer)).map (fun m => 2 * Config.hopsTo m * 1570)).foldl (· + ·) 0

/-- step_bound in ns of lanes taken at a length; lanes of several models run their packages one after the other. -/
def State.stepBound (s : State) (p : Nat) (lanes : List Serve) (len : Serve → Nat) : Nat :=
  let models := (lanes.map (fun r => r.entry.model)).dedup
  let t := (models.map (fun m => match s.model p m with
    | some k => s.stagesPs p k ((lanes.filter (fun r => r.entry.model == m)).map (fun r => (r.slot, len r)))
    | none => 0)).foldl (· + ·) 0
  ceilDiv t 1000 + commitBound lanes + (s.policy p).gapUs * 1000

/-- The smallest period in µs among lanes that have one. -/
def minPeriod (lanes : List Serve) : Option Nat := ((lanes.map (fun r => r.entry.periodUs)).filter (· != 0)).min?

/-- Requests of a partition that hold a place in the table. -/
def State.reqsOf (s : State) (p : Nat) : List Serve := s.quiley.reqs.filter (fun r => r.part == p && r.stat.live)

/-- Length a request can reach, and its 64-position pages. -/
def Serve.finalLen (r : Serve) : Nat := r.base + r.entry.maxNew
def pagesFor (len : Nat) : Nat := (len + 63) / 64

/-- The lanes of admit_request: the decoding and queued requests of the partition (R329). -/
def State.lanesOf (s : State) (p : Nat) : List Serve := (s.reqsOf p).filter (fun r => r.stat == .decoding || r.stat == .queued)

/-- The step with the new lane does not meet every lane's period: the least admissible period in µs. A request without a
period is admitted whatever the others' periods (R329). -/
def State.overRate (s : State) (r : Serve) : Option Nat :=
  let lanes := s.lanesOf r.part ++ [r]
  let b := s.stepBound r.part lanes Serve.finalLen
  if r.entry.periodUs = 0 then none
  else
    match minPeriod lanes with
    | some q => if b ≤ q * 1000 then none else some (ceilDiv b 1000)
    | none => none

end Sys2Proof.Machine
end

