-- ==== Sys2Proof/Machine/Steps.lean ====
section
/-!
DEFINITION. What Quiley does for its requests beside their commands (R213, R214, R324 to R339): launches, SUMMARISE commands
and page copies in the gaps, the ATTENDs of a step, tokens, shadow descriptors, and the work of a request that is cancelled.
-/
namespace Sys2Proof.Machine

/-- Quiley runs: its firmware was accepted and its SCC is not halted in Calm (R392, R399). -/
def State.serving (s : State) : Bool := s.quiley.running && decide (s.power s.active < 2)

/-! ### Launches (R45, R324, R327) -/

/-- The 128 B descriptor of a kernel of a package (R45). -/
def launchBytes (l : LaunchPlan) (prio mask tag : Nat) (order : Bool) : List Byte :=
  leBytes 8 l.kernelVa ++ leBytes 4 l.imageLen ++ leBytes 1 l.perCore ++ leBytes 1 prio ++ leBytes 2 (boolNat order) ++
    leBytes 24 mask ++ leBytes 8 l.argVa ++ List.replicate 16 0 ++ leBytes 4 l.wdUs ++ leBytes 4 tag ++ List.replicate 56 0

/-- The ring of a partition that a plan names (R49). -/
def planRing (p : Nat) (l : LaunchPlan) : Nat := p * 4 + l.ring % 4

/-- Free entries of a ring that runs. -/
def State.ringFree (s : State) (d : Die) (r : Nat) : Nat :=
  if s.ringRuns d r then 2 ^ s.ringLog2 d r - (s.ringTail d r + 65536 - s.ringHead d r) % 65536 else 0

/-- The rings have room for every kernel of a plan, and each die that it uses has cores. -/
def State.launchRoom (s : State) (p : Nat) (l : List LaunchPlan) (cores : Die → List Nat) : Bool :=
  l.all (fun x => !(cores x.die).isEmpty &&
    decide ((l.filter (fun y => y.die == x.die && y.ring % 4 == x.ring % 4)).length ≤ s.ringFree x.die (planRing p x)))

/-- A descriptor is written at the tail of its ring, which moves past it; the launch's key (R51, R327). -/
def State.pushLaunch (s : State) (d : Die) (r : Nat) (b : List Byte) : State × Nat :=
  let tail := s.ringTail d r
  let t := (s.homeWrite 0 ((s.reg (ringBase d r)).toNat % 2 ^ 42 + tail % 2 ^ s.ringLog2 d r * 128) b).1
  ((writeRingTail .scc d r (tail + 1) t).1, launchKey d r tail)

/-- The kernels of a plan are launched in order on cores of each die; their keys. -/
def State.launchAll (s : State) (p : Nat) (l : List LaunchPlan) (cores : Die → List Nat) (prio tag : Nat) (order : Bool) : State × List Nat :=
  l.foldl (fun (acc : State × List Nat) x =>
    let q := acc.1.pushLaunch x.die (planRing p x) (launchBytes x prio (coreSet x.die (cores x.die)) tag order)
    (q.1, acc.2 ++ [q.2])) (s, [])

/-! ### Pages (R192, R214, R326) -/

/-- The heads of a request's package, with their numbers, and the slots of one of its pages. -/
def State.headsOf (s : State) (r : Serve) : List (Nat × HeadPlan) :=
  match s.model r.part r.entry.model with
  | some m => (List.range m.heads.length).zip m.heads
  | none => []
def State.slotsPer (s : State) (r : Serve) : Nat := match s.model r.part r.entry.model with | some m => m.pageSlots | none => 0

/-- A page's entry in the map of a head (R192). -/
def State.entryAt (s : State) (h : HeadPlan) (r : Serve) (i : Nat) : Nat := s.load (stackBase h.stack + mapOf h r.slot + 8 * i) 8

/-- The entry of a page where its package places it. -/
def State.placed (s : State) (h : HeadPlan) (r : Serve) (i : Nat) : Nat := entryOf (s.place h (s.slotsPer r) r.slot i)

/-- The entries of a request's pages from `lo` on, below `hi`, in every head, where its package places them. -/
def State.enterPages (s : State) (r : Serve) (lo hi : Nat) : State :=
  (s.headsOf r).foldl (fun (t : State) h =>
    (List.range (hi - lo)).foldl (fun (u : State) i => u.putEntry h.2 r (lo + i) (u.placed h.2 r (lo + i))) t) s

/-- An NBU of a head is unavailable (R158). -/
def State.nbuGone (s : State) (h : HeadPlan) (e : Nat) : Bool := (s.stack h.stack).unavailable.contains (refNbu e)

/-- A page keeps its request out of steps: it is cold, or in an unavailable NBU (R326). -/
def State.amiss (s : State) (h : HeadPlan) (r : Serve) (i : Nat) : Bool :=
  let e := s.entryAt h r i
  entCold e || (entPresent e && s.nbuGone h e)

/-- Every page of a request is present. -/
def State.whole (s : State) (r : Serve) : Bool :=
  (s.headsOf r).all (fun h => (List.range (pagesFor r.committed)).all (fun i => !s.amiss h.2 r i))

/-- The pages that keep a request out of steps, each with a new entry in an available NBU (R214, R334). -/
def State.repairsOf (s : State) (r : Serve) : List (Nat × Nat × Nat) :=
  (s.headsOf r).flatMap (fun h =>
    ((List.range (pagesFor r.committed)).filter (fun i => s.amiss h.2 r i && !s.nbuGone h.2 (s.placed h.2 r i))).map
      (fun i => (h.1, i, s.placed h.2 r i)))

/-- A request is held while its pages are promoted or moved (R314, R326, R334). -/
def State.holdLane (s : State) (r : Serve) : State :=
  s.setReq { r with stat := if r.stat = .orphaned then .orphaned else .held, spareWait := none, moves := s.repairsOf r }

/-- The 256 B copy descriptor of a page: from its slots, or from the packed bytes of a cold page or an image, into its new slots
(R138, R214, R307). Whole slots are copied, which hold the page's b_page bytes (DESIGN CHOICE, log 123). -/
def State.copyBytes (s : State) (h : HeadPlan) (r : Serve) (i new : Nat) : List Byte :=
  let n := s.slotsPer r
  let e := s.entryAt h r i
  let at_ (x : Nat) : Nat := h.stackVa + bpaOffset (refNbu x) (refSlot x * 4096)
  let src := if !entCold e then at_ e
    else if r.primary.isSome then h.image + r.imageAt * h.imageStep + i * pageBytes (cVfmt h.cmd) (cDim h.cmd)
    else h.coldVa + r.slot * h.coldStep + i * (4096 * n)
  let sizes := leBytes 4 256 ++ leBytes 4 8 ++ leBytes 4 2 ++ leBytes 4 n ++ List.replicate 8 0
  let strides (a b c : Nat) : List Byte := leBytes 8 0 ++ leBytes 8 a ++ leBytes 8 b ++ leBytes 8 c ++ List.replicate 16 0
  let ofStack := strides (2 ^ 17) (2 ^ 16) (2 ^ 21)
  leBytes 4 (7 * 16 + 7 * 256 + 3 * 2 ^ 21) ++ leBytes 4 0x688 ++ leBytes 8 src ++ leBytes 8 (at_ new) ++ List.replicate 16 0 ++
    sizes ++ sizes ++ List.replicate 8 0 ++ (if entCold e then strides 256 2048 4096 else ofStack) ++ ofStack ++
    List.replicate 24 0 ++ leBytes 8 r.slot ++ List.replicate 32 0

/-! ### The gap (R324, R336) -/

/-- Quiley holds the commands of a Shared partition on a stack half (R336). -/
def State.halfHeld (s : State) (p n half : Nat) : Bool := !s.partG p && s.quiley.repairHold.any (fun e => e.1 == n * 2 + half)

/-- The SUMMARISE commands of a request for its full pages from `lo` on, below `hi`: 64 pages of a head at a time, in every head
(R167, R198, R325). -/
def State.sumsFor (s : State) (r : Serve) (id lo hi : Nat) : List (Nat × List Byte) :=
  (s.headsOf r).flatMap (fun h =>
    (List.range (ceilDiv (hi - lo) 64)).map (fun k =>
      let ps := (List.range (Nat.min 64 (hi - lo - 64 * k))).map (fun i => lo + 64 * k + i)
      let body := ps.flatMap (fun i => leBytes 8 (s.entryAt h.2 r i) ++ leBytes 8 (sumsOf h.2 r.slot + i * (2 * cDim h.2.cmd)))
      let len := 1 + ceilDiv body.length 64
      (h.2.stack, leBytes 1 3 ++ leBytes 1 len ++ leBytes 2 0 ++ leBytes 4 id ++ leBytes 8 0 ++ leBytes 4 0 ++ leBytes 1 r.part ++
        leBytes 1 1 ++ leBytes 6 0 ++ leBytes 2 (cVfmt h.2.cmd) ++ leBytes 2 (cDim h.2.cmd) ++ leBytes 8 r.slot ++
        List.replicate 24 0 ++ body ++ List.replicate (64 * (len - 1) - body.length) 0)))

/-- The cmd_id of a request's commands beside a partition's latest step (R327). -/
def State.cmdId (s : State) (r : Serve) : Nat := r.slot * 65536 + mget 0 s.quiley.stepCount r.part % 65536

/-- A request's SUMMARISE commands go to their stacks, but for those on a half that Quiley holds. -/
def State.sendSums (s : State) (r : Serve) : State :=
  let held (x : Nat × List Byte) : Bool := s.halfHeld r.part x.1 (refNbu (leAt x.2 64 8) / 256)
  ((r.sums.filter (fun x => !held x)).foldl (fun (t : State) x => t.arrivePort x.1 ⟨r.part, x.2, none, 0, 0, false⟩) s).setReq
    { r with sums := r.sums.filter held }

/-- A request's page copies go to the layout engines of their stacks' dies, as far as its partition may queue descriptors
there (R148, R214). -/
def State.sendMoves (s : State) (r : Serve) : State :=
  let q := r.moves.foldl (fun (acc : State × List (Nat × Nat × Nat)) x =>
    match ((acc.1.headsOf r).find? (fun h => h.1 == x.1)).map (·.2) with
    | none => acc
    | some h =>
      let d := dieOf (h.stack / 8)
      if acc.1.layRoom d r.part then
        let y : LayoutDesc :=
          ⟨acc.1.copyBytes h r x.2.1 x.2.2, r.part, 0, none, false, 0, 0, [], some (r.uid, x.1, x.2.1, x.2.2), none, false⟩
        (acc.1.setLayQueue d (acc.1.layQueue d ++ [y]), acc.2)
      else (acc.1, acc.2 ++ [x])) (s, [])
  q.1.setReq { r with moves := q.2 }

/-- What waits for a gap of a partition is submitted, where no step of it runs (R324). -/
def State.gapWork (s : State) (p : Nat) : State :=
  if (mget none s.quiley.steps p).isSome then s
  else
    (s.reqsOf p).foldl (fun (t : State) r =>
      if r.sums.isEmpty && r.moves.isEmpty then t
      else match (t.sendSums r).req r.slot with | some x => (t.sendSums r).sendMoves x | none => t) s

/-- A page copy has ended: its new entry is written, which the ATTENDs that follow see (R179, R214). An uncorrectable page ends
its request; an orphan is then prepared only by its RESUME. -/
def State.landMove (s : State) (e : (Nat × Nat × Nat × Nat) × Nat) : State :=
  match s.byUid e.1.1 with
  | none => s
  | some r =>
    if r.masked || e.2 = 5 then s
    else if e.2 = 0 then
      match ((s.headsOf r).find? (fun h => h.1 == e.1.2.1)).map (·.2) with
      | some h => s.putEntry h r e.1.2.2.1 e.1.2.2.2
      | none => s
    else if r.stat = .orphaned then s.setReq { r.unprepared with skip := false }
    else s.failReq r 1

/-- The copies that have ended are taken note of. -/
def State.landMoves (s : State) : State :=
  s.quiley.landed.foldl State.landMove { s with quiley := { s.quiley with landed := [] } }

/-! ### Prefill (R324, R325) -/

/-- The next Queued request of a partition, in order of admission, is prefilled where its package's kernels find cores and
room on the rings: its map entries are written, and its launches run at priority 1 on prefill cores only. In the split state a
request that needs the bridge ends (R313). -/
def State.startPrefill (s : State) (p : Nat) : State :=
  if (s.reqsOf p).any (fun r => r.stat == .prefill) then s
  else
    match (s.reqsOf p).find? (fun r => r.stat == .queued) with
    | none => s
    | some r =>
      match s.model p r.entry.model with
      | none => s
      | some m =>
        let x := { r with stat := .prefill }
        if s.isSplit && s.needsBridge r then (s.setReq x).failReq x 3
        else if (s.prefillCores p .windward ++ s.prefillCores p .leeward).isEmpty || !s.launchRoom p m.prefill (s.prefillCores p) then s
        else
          let q := (s.enterPages r 0 (pagesFor r.entry.promptLen)).launchAll p m.prefill (s.prefillCores p) 1 r.slot false
          q.1.setReq { x with launches := q.2 }

/-! ### The end of a request's work (R327, R332, R333) -/

/-- The reservation of a command of Quiley's is cancelled: every member is killed, also one that the stack accepts later
(R211). -/
def State.cancelGroup (s : State) (d : Die) (h gen : Nat) : State :=
  match (s.basin.get d).group h gen with
  | some g => if g.strand.isNone then s.cancelRsv d h else s
  | none => s

/-- A request's commands on the stacks are killed by its cmd_ids, with those still at a port and the groups that lack members;
its prefill launches by ring and index; and its layout descriptors by tag (R327, R332). -/
def State.killWork (s : State) (r : Serve) : State :=
  let mine (b : List Byte) : Bool := r.cmdIds.contains (cId b)
  let s1 : State := { s with quiley := { s.quiley with
    unsent := s.quiley.unsent.filter (fun c => !(c.part == r.part && mine c.bytes))
    groups := s.quiley.groups.filter (fun g => g.group / 2 ^ 32 != r.uid) } }
  let s2 := (s.quiley.groups.filter (fun g => g.group / 2 ^ 32 == r.uid)).foldl (fun (t : State) g => t.cancelGroup g.die g.handle g.gen) s1
  let s3 := (List.range 16).foldl (fun (t : State) n =>
    let u := ((t.stack n).port.filter (fun w => w.part == r.part && mine w.bytes && cOpcode w.bytes == 1)).foldl
      (fun (v : State) w => v.cancelGroup (cHome w.bytes) (cHandle w.bytes) (cGen w.bytes)) t
    r.cmdIds.foldl (fun (v : State) id => (writeStkKill .scc n r.part (w64 id) v).1) u) s2
  let s4 := (r.launches.filter s.launchLeft).foldl (fun (t : State) k =>
    (writeLaunchKill .scc (dieOf (k / 65536 / 64)) (w64 (k / 65536 % 64 + k % 65536 * 65536)) t).1) s3
  bothDies.foldl (fun (t : State) d => (t.layCancel d r.part (some r.slot)).layGo d) s4

/-- The request is masked and its work killed; it ends once nothing of it is left (R332, R333). -/
def State.cancelReq (s : State) (r : Serve) : State :=
  let x := { r with masked := true, sums := [], moves := [], fetches := 0 }
  (((s.setReq x).killWork x).finishLane x.slot).startPrefill x.part

/-! ### What Quiley does when work of it has ended -/

/-- Nothing keeps a request from going on: its pages are in place, and its catch-up is done (R339). -/
def State.ready (s : State) (r : Serve) : Bool := r.moves.isEmpty && r.fetches == 0 && !s.copyLeft r && r.catchUp == 0

/-- An orphan that is warm, or a resumed request that can go on, is told (R320, R339). -/
def State.tellReady (s : State) (r : Serve) : State :=
  if r.tell = 0 || r.masked || !s.ready r then s
  else if r.stat = .orphaned then
    ((List.range 17).filter (fun f => s.fnPart f == r.part)).foldl
      (fun (u : State) f => u.event f 0 r.entry.requestId r.tell 0 r.committed 0 0) (s.setReq { r with tell := 0, warmReady := true })
  else (s.setReq { r with tell := 0 }).reqEvent r r.tell 0 0

/-- Quiley takes note of work that has ended: page copies, cancelled and resumed requests, and what waits for a gap or for
prefill. -/
def State.quileyNote (s : State) : State :=
  if s.quiley.reqs.isEmpty then s
  else
    let s1 := s.landMoves
    let s2 := (s1.quiley.reqs.filter (·.masked)).foldl (fun (t : State) r => t.finishLane r.slot) s1
    let s3 := (s2.quiley.reqs.filter (fun r => r.stat.live && r.tell != 0)).foldl (fun (t : State) r => t.tellReady r) s2
    ((s3.quiley.reqs.map (·.part)).dedup).foldl (fun (t : State) p => (t.gapWork p).startPrefill p) s3

/-- STK_CMD_COMPLETE: a command's results are visible (R180). -/
def execStkCmdComplete (stack uid : Nat) (s : State) : Host.Outcome State Fault Refusal :=
  commit s (s.stkComplete stack uid).quileyNote

/-- LAUNCH_COMPLETE: steps 4 and 5 of R46. -/
def execLaunchComplete (die : Die) (ring index : Nat) (s : State) : Host.Outcome State Fault Refusal :=
  commit s (s.launchComplete die ring index).quileyNote

/-- LAYOUT_COMPLETE: steps 4 to 6 of R141. -/
def execLayoutComplete (die : Die) (part : Nat) (s : State) : Host.Outcome State Fault Refusal :=
  commit s (s.layComplete die part).quileyNote

/-! ### Tokens (R322, R325, R328, R337) -/

/-- A lane draws its next token: the token goes to the shadow peer first, where there is one, and otherwise to the host; a
stop token or the last of max_new ends the lane (R322, R328, R337). -/
def State.drawToken (s : State) (r : Serve) : State :=
  let tok := Config.sampledToken r.uid r.sampled
  let n := r.sampled + 1
  let why : Option Nat :=
    if tok.toNat ≠ 0xFFFFFFFF ∧ r.entry.stop.contains tok then some 0
    else if n = r.entry.maxNew then some 1
    else if 4194304 ≤ r.base + n then some 2 else none
  let x := { r with sampled := n, ending := why, input := some tok }
  let s1 := s.setReq x
  match x.peer with
  | none => (s1.deliverToken x).finishLane x.slot
  | some m =>
    let q := s1.request s1.active x.part 1 (m * 2 ^ 42 + Config.mailbox m) 0 0 0
      (Config.mailBytes (.token x.entry.requestId tok x.committed x.protectedUpTo)) false (.token x.uid)
    if q.1.stillOut s1.active q.2 then q.1 else q.1.tokenAnswered x.uid 6

/-- A request as its prefill leaves it. -/
def Serve.prefilled (r : Serve) : Serve := { r with stat := .decoding, committed := r.entry.promptLen, launches := [] }

/-- SUMMARISE commands of a request that no stack has accepted. -/
def State.sumsLeft (s : State) (r : Serve) : Bool :=
  !r.sums.isEmpty || (List.range 16).any (fun n => (s.stack n).port.any (fun w => w.part == r.part && r.cmdIds.contains (cId w.bytes)))

/-- The prompt's rows are written and every full page is summarised: the committed length becomes prompt_len, and the first
token is drawn (R325). -/
def State.endPrefill (s : State) (r : Serve) : State :=
  if s.sumsLeft r then s else ((s.setReq r.prefilled).drawToken r.prefilled).startPrefill r.part

/-- The SUMMARISE commands of a prompt's full pages are made, and sent where the partition is between steps (R324). -/
def State.sumPrompt (s : State) (r : Serve) : State :=
  let id := s.cmdId r
  (s.setReq { r with summed := true, sums := s.sumsFor r id 0 (r.entry.promptLen / 64), cmdIds := [id] }).gapWork r.part

/-- PREFILL_DONE: once its launches are done and every full page is summarised, the request is a lane of the next step
(R325). -/
def execPrefillDone (slot : Nat) (s : State) : Host.Outcome State Fault Refusal :=
  commit s (
    match s.req slot with
    | none => s
    | some r =>
      if !s.serving ∨ r.stat ≠ .prefill ∨ r.masked ∨ r.launches.any s.launchLeft then s
      else
        let t := if r.summed then s.gapWork r.part else s.sumPrompt r
        match t.req slot with
        | some x => t.endPrefill x
        | none => t)

/-! ### Building a step (R213, R326 to R330) -/

/-- Nothing but its pages keeps a request out of the next step: it is a lane, a held one, or one that catches up (R314, R326,
R339). -/
def State.mayJoin (s : State) (r : Serve) : Bool :=
  !r.masked && !r.away && r.told && r.ending.isNone && r.moves.isEmpty && r.fetches == 0 &&
    !s.copyLeft r && (if r.stat = .orphaned then r.tell != 0 && r.catchUp != 0 else (r.stat == .decoding || r.stat == .held) && (r.tell == 0 || r.catchUp != 0))

/-- A request is a lane of the next step: its pages are all present, those of an NBU whose spare it waited for among them (R326,
R334). -/
def State.joins (s : State) (r : Serve) : Bool := s.mayJoin r && s.whole r

/-- The lanes of a partition's next step. -/
def State.nextLanes (s : State) (part : Nat) : List Serve := (s.reqsOf part).filter s.joins

/-- Requests that would be lanes, but for pages that are cold or in an unavailable NBU, are held while those are brought back
(R326); not one that still waits for a spare (R334). -/
def State.holdCold (s : State) (part : Nat) : State :=
  ((s.reqsOf part).filter (fun r => s.mayJoin r && !s.whole r && r.spareWait.isNone)).foldl (fun (t : State) r => t.holdLane r) s

/-- The step's bound at its lanes' current lengths (R330). -/
def State.nextBound (s : State) (part : Nat) : Nat := s.stepBound part (s.nextLanes part) (fun r => r.committed)

/-- The deadline the step promises: its lanes' smallest period, where the bound meets it (R330, R359). -/
def State.promise (s : State) (part : Nat) : Option Nat :=
  match minPeriod (s.nextLanes part) with
  | some q => if s.nextBound part ≤ q * 1000 then some ((s.now + q * 1000) / 1000 * 1000) else none
  | none => none

/-- The packages of the next step's lanes, each once. -/
def State.stepModels (s : State) (part : Nat) : List ModelPackage :=
  (((s.nextLanes part).map (fun r => r.entry.model)).dedup).filterMap (s.model part)

/-- Quiley's hold for a starved repair keeps a partition's step back: that of a Shared one while it lasts, that of a Guaranteed
one for the slack that its bound leaves (R336). -/
def State.stepHeld (s : State) (part : Nat) : Bool :=
  let mine := (s.stepModels part).any (fun m => m.heads.any (fun h => s.quiley.repairHold.any (fun e => e.1 == h.stack * 2 + h.nbu0 / 256)))
  mine && (!s.partG part ||
    match minPeriod (s.nextLanes part) with
    | some q => decide (s.now + s.nextBound part < mget 0 s.quiley.gapUntil part + q * 1000)
    | none => true)

/-- The monitor can watch the counter: it is disarmed, and arming it will not end with bad (R359, R361). -/
def State.mayWatch (s : State) (d : Die) (monitor counter : Nat) : Bool :=
  !s.dlArmed d monitor && counter % 8 == 0 && isDram counter && s.holds counter 8

/-- A step may be issued: Quiley runs, the partition is enabled and has lanes, its last step has committed, no repair holds it,
the kernels of its layers find decode cores and rings, and the counter is not quarantined; one with a deadline needs a monitor that
can watch it (R326, R335, R336, R359). -/
def State.mayStep (s : State) (part : Nat) (die : Die) (monitor counter : Nat) : Bool :=
  ((s.promise part).isNone || s.mayWatch die monitor counter) &&
  s.serving && s.partOn part && (mget none s.quiley.steps part).isNone && !(s.nextLanes part).isEmpty && decide (monitor < 64) &&
    decide (part < 16) && !s.quiley.quarantine.any (fun q => q.1 == counter && decide (s.now < q.2)) && !s.stepHeld part &&
    s.launchRoom part ((s.stepModels part).flatMap (·.layers)) (s.decodeCores part)

/-- The most pages that an ATTEND may attend on one NBU, with every candidate counted up to sel_count; and its bucket (R213). -/
def State.loadOf (s : State) (h : HeadPlan) (r : Serve) (p : Pattern) : Nat :=
  let on (l : List Nat) : List Nat := (l.map (s.entryAt h r)).filter entPresent
  let sure := (on (if p.mode = 0 then List.range p.pages else if p.mode = 2 then [] else p.window ++ p.globals.filter (fun i => !p.inWindow i))).map refNbu
  let cand := (on (if p.mode = 1 then p.candRange.filter (fun i => !p.inWindow i && !p.globals.contains i) else [])).map refNbu
  listMax ((List.range 512).map (fun n => sure.count n + Nat.min p.selCount (cand.count n)))
def bucketOf (n : Nat) : Nat := ((List.range 24).find? (fun b => decide (n ≤ 2 ^ b))).getD 24

/-- The rows of a lane's new position, in one head: what its kernels compute is free (R189, R191). -/
def State.writeRows (s : State) (h : HeadPlan) (r : Serve) : State :=
  let e := s.entryAt h r (r.committed / 64)
  (pageArrays (cVfmt h.cmd) (cDim h.cmd)).foldl (fun (t : State) a =>
    (bpaPieces (refNbu e) (refSlot e * 4096 + a.1 + r.committed % 64 * a.2) a.2).foldl (fun (u : State) x =>
      let b := u.freeBytes x.2
      (b.2.homeWrite r.part (stackBase h.stack + x.1) b.1).1) t) s

/-- The ATTEND of a lane in one head: the package's command with cmd_id, pattern and length; the query vectors, which its
kernels compute, are free (R163, R194, R326). -/
def attendBytes (h : HeadPlan) (slot id len : Nat) (vecs : List Byte) : List Byte :=
  patch (h.cmd.take 64) 4 (leBytes 4 id) ++ vecs ++ patternFor h slot len

/-- A lane's part of a step in one head: its map entry where a page begins, its rows and its ATTEND with its bucket. -/
def State.issueHead (s : State) (id : Nat) (r : Serve) (h : HeadPlan) : State × Nat × StepCmd :=
  let s1 := if r.committed % 64 = 0 then s.putEntry h r (r.committed / 64) (s.placed h r (r.committed / 64)) else s
  let s2 := s1.writeRows h r
  let v := s2.freeBytes (h.cmd.length - 320)
  let b := attendBytes h r.slot id (r.committed + 1) v.1
  (v.2, bucketOf (v.2.loadOf h r (cPattern b)), ⟨h.stack, r.part, b, some ((r.uid * 65536 + id % 65536) * 65536 + (cPattern b).key)⟩)

/-- The ATTENDs of a step with their buckets, as Quiley builds them. -/
def State.issueAll (s : State) (number : Nat) (lanes : List Serve) : State × List (Nat × StepCmd) :=
  lanes.foldl (fun (acc : State × List (Nat × StepCmd)) r =>
    (acc.1.headsOf r).foldl (fun (acc : State × List (Nat × StepCmd)) h =>
      let q := acc.1.issueHead (r.slot * 65536 + number % 65536) r h.2
      (q.1, acc.2 ++ [q.2])) acc) (s, [])

/-- Commands in descending order of their buckets, and within one as they were built (R213). -/
def byBucket (l : List (Nat × StepCmd)) : List StepCmd :=
  (List.range 25).reverse.flatMap (fun b => (l.filter (fun x => x.1 == b)).map (·.2))

/-- A step's ATTENDs stand ready in their order, and go as far as the Basin has room. -/
def State.sendStep (s : State) (number : Nat) (lanes : List Serve) : State :=
  let q := s.issueAll number lanes
  ({ q.1 with quiley := { q.1.quiley with unsent := q.1.quiley.unsent ++ byBucket q.2 } } : State).sendSteps

/-- The step as Quiley keeps it until its commit. -/
def State.newStep (s : State) (part : Nat) (die : Die) (monitor counter : Nat) : ServeStep :=
  ⟨mget 0 s.quiley.stepCount part + 1, s.now, (s.promise part).getD 0, die, monitor, counter, (s.nextLanes part).map (·.slot), [],
    (((s.nextLanes part).map (fun r => r.entry.model)).dedup).flatMap (fun k =>
      match s.model part k with | some m => m.layers.map (fun _ => k) | none => [])⟩

/-- A lane as its step begins; `left` are the cmd_ids of commands of it that have not completed (R332). -/
def Serve.begun (r : Serve) (number : Nat) (left : List Nat) : Serve :=
  { r with
    stat := if r.stat = .orphaned then .orphaned else .decoding
    inStep := true, skip := false, spareWait := none, cmdIds := left ++ [r.slot * 65536 + number % 65536] }

/-- A step begins: its lanes are in it, and it is counted. -/
def State.beginStep (s : State) (part : Nat) (lanes : List Serve) (st : ServeStep) : State :=
  let t := lanes.foldl (fun (u : State) r => u.setReq (r.begun st.number (r.cmdIds.filter (fun i => s.cmdLeft part [i])))) s
  { t with quiley := { t.quiley with
    steps := mset none t.quiley.steps part (some st)
    stepCount := mset 0 t.quiley.stepCount part st.number
    quarantine := t.quiley.quarantine.filter (fun q => decide (t.now < q.2)) } }

/-- The layers of a step run in order, at priority 3 on decode cores only (R324, R326). -/
def State.runLayers (s : State) (part : Nat) (models : List ModelPackage) (st : ServeStep) : State :=
  let q := s.launchAll part (models.flatMap (·.layers)) (s.decodeCores part) 3 st.number true
  { q.1 with quiley := { q.1.quiley with steps := mset none q.1.quiley.steps part (some { st with launches := q.2 }) } }

/-- The monitor is armed with the step's deadline and the counter's next value (R359). -/
def State.watchStep (s : State) (part : Nat) (st : ServeStep) (dl : Nat) : State :=
  let t : State := { s with quiley := { s.quiley with watches := mset [] s.quiley.watches (monKey st.die st.monitor) st.slots } }
  let t1 := (writeDlWord .scc st.die st.monitor 0 (w64 dl) t).1
  let t2 := (writeDlWord .scc st.die st.monitor 8 (w64 st.counter) t1).1
  let t3 := (writeDlWord .scc st.die st.monitor 0x10 (w64 (t2.load st.counter 8 + 1)) t2).1
  (writeDlCtrl .scc st.die st.monitor (w64 (1 + part * 2 + t3.fld (dlBase st.die st.monitor + 0x18) 16 16 * 65536)) t3).1

/-- A step without a deadline: each lane with a period is told the bound (R330). -/
def State.tellSlow (s : State) (lanes : List Serve) (bound : Nat) : State :=
  (lanes.filter (fun r => r.entry.periodUs != 0)).foldl (fun (t : State) r => t.reqEvent r 0x07 0 (ceilDiv bound 1000)) s

/-- A step is issued: its lanes are in it, its new positions written, its ATTENDs sent and its layers run. -/
def State.issueStep (s : State) (part : Nat) (st : ServeStep) : State :=
  (((s.beginStep part (s.nextLanes part) st).sendStep st.number (s.nextLanes part)).runLayers part (s.stepModels part) st)

/-- STEP_ISSUE: after the gap, in which what waited for it has been submitted, the step's lanes, its bound at their current lengths, and its deadline with the monitor that
watches the step counter; or no deadline, told to each lane with a period (R326, R329, R330, R359). -/
def execStepIssue (part : Nat) (die : Die) (monitor counter : Nat) (s : State) : Host.Outcome State Fault Refusal :=
  commit s (
    let g := s.carry (mget 0 s.quiley.gapUntil part)
    let h := g.holdCold part
    if !h.mayStep part die monitor counter then (if s.serving && (mget none s.quiley.steps part).isNone then (s.holdCold part).gapWork part else s)
    else
      let st := h.newStep part die monitor counter
      let t := h.issueStep part st
      match h.promise part with
      | some dl => t.watchStep part st dl
      | none => t.tellSlow (h.nextLanes part) (h.nextBound part))

/-! ### The commit (R328, R337) -/

/-- A lane commits in this step: no fault and no cancellation took it out (R328, R332 to R335). -/
def Serve.commits (r : Serve) : Bool := r.inStep && !r.skip && !r.masked && (r.stat == .decoding || r.stat == .orphaned)

/-- The lanes of a step as they stand. -/
def State.stepLanes (s : State) (st : ServeStep) : List Serve := st.slots.filterMap s.req

/-- Nothing of a step is left to run: the commands of its lanes but the masked ones have completed, and its launches (R328,
R332). -/
def State.stepDone (s : State) (part : Nat) (st : ServeStep) : Bool :=
  !s.cmdLeft part (((s.stepLanes st).filter (fun r => r.inStep && !r.masked)).map (fun r => r.slot * 65536 + st.number % 65536)) &&
    !st.launches.any s.launchLeft

/-- The commit point: the committed length of each lane that commits, 8 B a lane (R328). -/
def State.writeLengths (s : State) (lanes : List Serve) : State :=
  (lanes.filter (·.commits)).foldl (fun (t : State) r =>
    match t.model r.part r.entry.model with
    | some m => (t.homeWrite r.part (m.lengths + 8 * r.slot) (leBytes 8 (r.committed + 1))).1
    | none => t) s

/-- One lane of a commit: its committed length grows by one, and its token is drawn, or known in a catch-up; the SUMMARISE of a
page that is full waits for the gap (R328, R339). -/
def State.commitLane (s : State) (slot : Nat) : State :=
  match s.req slot with
  | none => s
  | some r =>
    if !r.inStep then s
    else
      let x := { r with inStep := false, skip := false }
      if !r.commits then s.setReq x
      else
        let n := r.committed + 1
        let y := { x with committed := n, catchUp := r.catchUp - 1, input := r.knownAt n, sums := x.sums ++ (if n % 64 = 0 then s.sumsFor x (s.cmdId r) (n / 64 - 1) (n / 64) else []) }
        if r.catchUp = 0 then (s.setReq y).drawToken y else (s.setReq y).tellReady y

/-- A step has ended. -/
def State.endStep (s : State) (part : Nat) : State :=
  { s with quiley := { s.quiley with steps := mset none s.quiley.steps part none } }

/-- Where Quiley keeps the shadow descriptor of a request for a stack: its 64 B, its record 64 B on, its list 128 B on. -/
def shadowAt (m : ModelPackage) (slot n : Nat) : Nat := m.shadows + (slot * 16 + n) * 0x10080

/-- The stacks of a package's heads. -/
def stacksOf (m : ModelPackage) : List Nat := (m.heads.map (·.stack)).dedup

/-- The shadow descriptor of a request for a stack and its list of maps, for positions from `lo` on, below `hi` (R306, R307). -/
def shadowBytes (m : ModelPackage) (r : Serve) (peer n lo hi : Nat) : List Byte × List Byte :=
  let hs := m.heads.filter (fun h => h.stack == n)
  let b := match hs with | h :: _ => h.cmd | [] => []
  let a := shadowAt m r.slot n
  (leBytes 2 (cVfmt b) ++ leBytes 2 (cDim b) ++ leBytes 2 hs.length ++ leBytes 1 n ++ leBytes 1 r.part ++ leBytes 4 lo ++ leBytes 4 (hi - lo) ++
     leBytes 8 (a + 128) ++ List.replicate 16 0 ++ leBytes 8 (a + 64) ++ leBytes 8 r.slot ++ List.replicate 8 0,
   hs.flatMap (fun h => leBytes 8 (mapOf h r.slot) ++ leBytes 8 (peer * 2 ^ 42 + h.image + r.slot * h.imageStep)))

/-- The engines of a package's stacks can take a request's next descriptors, and its last ones have ended (R306). -/
def State.shadowRoom (s : State) (m : ModelPackage) (r : Serve) : Bool :=
  (stacksOf m).all (fun n => !(s.shadow.get (dieOf (n / 8))).any (fun x => x.pa == shadowAt m r.slot n)) &&
    bothDies.all (fun d => decide ((s.shadow.get d).length + ((stacksOf m).filter (fun n => dieOf (n / 8) == d)).length ≤ 64))

/-- The rows that lie lag_steps behind are shadowed to the peer, with those that could not be yet (R337, R338). -/
def State.shadowLane (s : State) (slot : Nat) : State :=
  match s.req slot with
  | none => s
  | some r =>
    match r.peer, s.model r.part r.entry.model with
    | some peer, some m =>
      let hi := r.committed + 1 - r.entry.lagSteps
      if !r.stat.live || hi ≤ r.shadowTo || !s.shadowRoom m r then s
      else
        ((stacksOf m).foldl (fun (t : State) n =>
          let b := shadowBytes m r peer n r.shadowTo hi
          let a := shadowAt m r.slot n
          let u := (((t.homeWrite 0 (a + 128) b.2).1).homeWrite 0 a b.1).1
          (writeShadowSubmit .scc (dieOf (n / 8)) (w64 a) u).1) s).setReq { r with shadowTo := hi }
    | _, _ => s

/-- The gap after a step begins (R329). -/
def State.beginGap (s : State) (part : Nat) : State :=
  { s with quiley := { s.quiley with gapUntil := mset 0 s.quiley.gapUntil part (s.now + (s.policy part).gapUs * 1000) } }

/-- A step commits: lengths, the step counter's advance, tokens and ended lanes, the shadow descriptors, and what waits for the
gap (R328, R359). -/
def State.commitStep (s : State) (part : Nat) (st : ServeStep) : State :=
  let t := st.slots.foldl State.commitLane (((s.endStep part).writeLengths (s.stepLanes st)).countUp 0 st.counter)
  ((((st.slots.foldl State.shadowLane t).beginGap part).gapWork part).startPrefill part)

/-- STEP_COMMIT: the commit point, once nothing of the step is left to run (R328, R359). -/
def execStepCommit (part : Nat) (s : State) : Host.Outcome State Fault Refusal :=
  commit s (
    match mget none s.quiley.steps part with
    | none => s
    | some st => if !s.serving || !s.stepDone part st then s else s.commitStep part st)

/-! ### Waits of a lane and of a half (R334, R336) -/

/-- SPARE_WAIT_EXPIRY: the spare has not come into service within 1 ms: the lane is held, and its pages are moved (R334). -/
def execSpareWaitExpiry (slot : Nat) (s : State) : Host.Outcome State Fault Refusal :=
  commit s (
    match s.req slot with
    | none => s
    | some r =>
      match r.spareWait with
      | none => s
      | some t =>
        if !r.stat.live || r.masked then s
        else if s.whole r then s.setReq { r with spareWait := none }
        else ((s.carry (t + 1000000)).holdLane r).gapWork r.part)

/-- When Quiley's hold on a half may end: 50 µs after the half's last slice, or after the hold began (R336). -/
def State.holdEnds (s : State) (stack half : Nat) : Nat :=
  match s.quiley.repairHold.find? (fun e => e.1 == stack * 2 + half) with
  | some e => Nat.max e.2 (mget 0 (s.stack stack).sliceAt half) + 50000
  | none => 0

/-- Quiley's hold on a half ends (R336). -/
def State.freeHalf (s : State) (h : Nat) : State :=
  { s with quiley := { s.quiley with repairHold := s.quiley.repairHold.filter (fun e => e.1 != h) } }

/-- REPAIR_HOLD_EXPIRY: the starved half has had no accepted slice for 50 µs, and Quiley's hold on Shared partitions there
ends (R336). -/
def execRepairHoldExpiry (stack half : Nat) (s : State) : Host.Outcome State Fault Refusal :=
  commit s (if s.noSlice stack (fun u => decide (u / 256 = half)) then
    ((s.carry (s.holdEnds stack half)).freeHalf (stack * 2 + half)).quileyNote else s)

end Sys2Proof.Machine
end

