-- ==== Sys2Proof/Machine/Serving.lean ====
section
/-!
DEFINITION. Quiley's commands (R315 to R323, R329, R332, R337 to R340): the queue pairs, the submission entries and what they
ask for, and the ends of orphans.
-/
namespace Sys2Proof.Machine

/-! ### Queue pairs (R316, R317, R323) -/

def State.sqLog2 (s : State) (f k : Nat) : Nat := s.fld (s.qpBase f k + 0x10) 0 4
def State.cqLog2 (s : State) (f k : Nat) : Nat := s.fld (s.qpBase f k + 0x10) 4 4
def State.sqHead (s : State) (f k : Nat) : Nat := s.fld (s.qpBase f k + 0x14) 16 16
def State.sqTail (s : State) (f k : Nat) : Nat := s.fld (s.qpBase f k + 0x18) 0 16

/-- SCC_SQ_TAIL: ignored while the pair does not run, accepted up to the free entries, otherwise the pair stops (R317). -/
def writeSqTail (f k : Nat) (v : Word) (s : State) : State :=
  if 16 < f ∨ 3 < k ∨ !s.pairRuns f k then s
  else
    let ahead := (v.toNat % 65536 + 65536 - s.sqTail f k) % 65536
    let used := (s.sqTail f k + 65536 - s.sqHead f k) % 65536
    if ahead + used ≤ 2 ^ s.sqLog2 f k then s.setFld (s.qpBase f k + 0x18) 0 16 v.toNat
    else (s.setFlag (s.qpBase f k + 0x14) 1 true).setFlag (s.qpBase f k + 0x14) 0 false

def execSccSqTailWrite (function pair : Nat) (value : Word) (s : State) : Host.Outcome State Fault Refusal :=
  commit s (writeSqTail function pair value s)

/-- SCC_CQ_HEAD: entries become free, and waiting events are written (R323). -/
def writeCqHead (f k : Nat) (v : Word) (s : State) : State :=
  if 16 < f ∨ 3 < k then s
  else State.drainCq f k ((s.pair f k).waiting.length + 1) (s.setFld (s.qpBase f k + 0x1C) 0 16 v.toNat)

def execSccCqHeadWrite (function pair : Nat) (value : Word) (s : State) : Host.Outcome State Fault Refusal :=
  commit s (writeCqHead function pair value s)

/-- A pair's enable may be set: Quiley is present, the function serves an enabled partition, and no reset holds it (R316,
R400, R411, R417). -/
def State.pairMay (s : State) (f : Nat) : Bool :=
  s.quiley.running && !s.host.inReset.contains f && (f == 0 || (s.fnPart f != 0 && s.partOn (s.fnPart f)))

/-- A pair stops after the entry in progress (R316). -/
def State.stopPair (s : State) (f k : Nat) : State :=
  let a := s.qpBase f k
  ((s.setFlag (a + 0x10) 8 false).setFlag (a + 0x14) 0 false).setFlag (a + 0x14) 1 false

/-- A queue's size is in range. -/
def sizeOk (n : Nat) : Bool := decide (4 ≤ n) && decide (n ≤ 12)

/-- A value of SCC_QP_CFG asks for the pair to run, with both sizes in range (R316). -/
def asksRun (x : Nat) : Bool := bit x 8 && sizeOk (bits x 0 4) && sizeOk (bits x 4 4)

/-- The fields of SCC_QP_CFG but its enable. -/
def State.setQpCfg (s : State) (f k x : Nat) : State :=
  s.setReg (s.qpBase f k + 0x10)
    (w64 (x % 256 + boolNat (s.flag (s.qpBase f k + 0x10) 8) * 256 + bits x 9 1 * 512 + bits x 16 5 * 65536))

/-- A pair starts anew: its indices are 0, and events that waited are written (R316, R323). -/
def State.startPair (s : State) (f k : Nat) : State :=
  let a := s.qpBase f k
  let t := (((s.setFlag (a + 0x10) 8 true).setReg (a + 0x14) 1).setReg (a + 0x18) 0).setReg (a + 0x1C) 0
  let u := t.setPair f k { t.pair f k with cqTail := 0, phase := true }
  State.drainCq f k ((u.pair f k).waiting.length + 1) u

/-- SCC_QP_CFG (R316): a size outside 4 to 12 holds enable at 0; 1 starts the pair anew. -/
def writeQpCfg (f k : Nat) (v : Word) (s : State) : State :=
  if 16 < f ∨ 3 < k then s
  else
    let t := s.setQpCfg f k v.toNat
    if s.flag (s.qpBase f k + 0x10) 8 then (if asksRun v.toNat then t else t.stopPair f k)
    else if asksRun v.toNat && t.pairMay f then t.startPair f k
    else t

def execSccQpCfgWrite (function pair : Nat) (value : Word) (s : State) : Host.Outcome State Fault Refusal :=
  commit s (writeQpCfg function pair value s)

/-- SCC_SQ_BASE and SCC_CQ_BASE: ignored while enable reads 1 (R316). -/
def writeQpBase (f k off : Nat) (v : Word) (s : State) : State :=
  if 16 < f ∨ 3 < k ∨ s.flag (s.qpBase f k + 0x10) 8 then s else s.setReg (s.qpBase f k + off) v

/-! ### Entries (R318, R319) -/

/-- An entry's opcode, and those that are not reserved. -/
def sqOpcode (b : List Byte) : Nat := leAt b 0 1
def knownSq (op : Nat) : Bool := [0x01, 0x02, 0x03, 0x04, 0x05, 0x10, 0x11, 0x20].contains op

/-- The fields of an entry's 128 B; a command's own fields are those it names (R318, R319). -/
def sqEntry (f k : Nat) (b : List Byte) : SqEntry where
  function := f
  pair := k
  shadow := bit (leAt b 1 1) 0
  warm := bit (leAt b 1 1) 1
  model := leAt b 2 1
  lagSteps := leAt b 3 1
  periodUs := leAt b 4 4
  requestId := w64 (leAt b 8 8)
  promptAddr := leAt b 0x10 8
  promptLen := leAt b 0x18 4
  maxNew := leAt b 0x1C 4
  outAddr := leAt b 0x20 8
  progAddr := leAt b 0x28 8
  temperature := BitVec.ofNat 32 (leAt b 0x30 4)
  topK := leAt b 0x34 2
  seed := w64 (leAt b 0x38 8)
  stop := (List.range 4).map (fun i => BitVec.ofNat 32 (leAt b (0x40 + 4 * i) 4))
  peerA := leAt b 0x50 2
  peerB := leAt b 0x52 2
  primary := leAt b 0x58 2
  primaryId := w64 (leAt b 0x60 8)

/-- Quiley reads the next entry of a submission queue, if it may: the pair runs, an entry is unread, and the completion queue has
room (R317, R323). -/
def State.takeEntry (s : State) (f k : Nat) : Option State :=
  if 16 < f ∨ 3 < k ∨ !s.serving ∨ !s.pairRuns f k ∨ s.sqHead f k = s.sqTail f k ∨ !(s.pair f k).waiting.isEmpty ∨ !s.cqRoom f k then none
  else some (s.stir.setFld (s.qpBase f k + 0x14) 16 16 (s.sqHead f k + 1))

/-- REFUSED, which changes nothing else (R320, R321). -/
def State.refuse (s : State) (e : SqEntry) (reason detail : Nat) : State :=
  s.event e.function e.pair e.requestId 0x02 reason 0 detail 0

/-- A command that has completed without a request of its own (R320). -/
def State.done (s : State) (e : SqEntry) (frees : Nat) : State := s.event e.function e.pair e.requestId 0x0D 0 0 0 frees

/-- In Maintenance mode commands of virtual functions are refused (R425). -/
def State.shutOut (s : State) (e : SqEntry) : Bool := s.flag (pg s.active Blk.mgmt 0 + 0x104) 2 && e.function != 0

/-- Why Quiley refuses an entry: the first reason that holds (R321). -/
def verdict (reasons : List (Bool × Nat)) : Option Nat := (reasons.find? (·.1)).map (·.2)

/-- Quiley takes an entry and judges it: the first reason that holds refuses it, a reserved opcode among them, otherwise it runs
(R318, R321). A reserved field, and one that the command does not name, is ignored (R16). An entry of another command is not this
row's. -/
def State.command (s : State) (op f k : Nat) (b : List Byte) (reasons : SqEntry → State → List (Bool × Nat)) (run : SqEntry → State → State) :
    State :=
  let e := sqEntry f k b
  if knownSq (sqOpcode b) && sqOpcode b != op then s
  else
    match s.takeEntry f k with
    | none => s
    | some t =>
      match verdict ((t.shutOut e, 8) :: (sqOpcode b != op, 1) :: reasons e t) with
      | some r => t.refuse e r 0
      | none => run e t

/-! ### Capacity (R315, R321) -/

/-- Slots of 4 KiB in the granules a partition owns (R151, R153). -/
def State.slotsOwned (s : State) (p : Nat) : Nat :=
  256 * ((List.range 16).map (fun n => ((s.stack n).own.filter (fun e => e.2 == p + 16)).length)).foldl (· + ·) 0

/-- Reservoir bytes a partition may use. -/
def State.rvrOwned (s : State) (p : Nat) : Nat :=
  ((List.range 12).map (fun c => if s.namesRvr p c ∧ !s.rvrFailed c then s.rvrUsable c else 0)).foldl (· + ·) 0

/-- Basin slots a partition may hold on both dies (R212). -/
def State.basinOwned (s : State) (p : Nat) : Nat :=
  ((bothDies.map (fun d => s.fld (basinPage d + 0x100) (4 * p) 4)).foldl (· + ·) 0) * 256

/-- What requests of a partition take at their final lengths: cache slots of every head, Reservoir bytes and Basin slots. -/
def State.taken (s : State) (p : Nat) (l : List Serve) : Nat × Nat × Nat :=
  l.foldl (fun t r => match s.model p r.entry.model with
    | some m =>
      let n := pagesFor r.finalLen
      (t.1 + n * m.pageSlots * m.heads.length, t.2.1 + n * m.imageBytesPerPage, t.2.2 + m.basinSlots)
    | none => t) (0, 0, 0)

/-- Requests of other packages registered for a partition: their Reservoir space is reserved (R337). -/
def State.regsOf (s : State) (p : Nat) : List Serve := s.quiley.registrations.filter (fun r => r.part == p)

/-- Not enough cache slots, Reservoir space or Basin allotment (R321 reason 3). -/
def State.noRoom (s : State) (r : Serve) : Bool :=
  let t := s.taken r.part ((s.reqsOf r.part).filter (fun x => x.slot != r.slot) ++ [r])
  decide (s.slotsOwned r.part < t.1) || decide (s.rvrOwned r.part < t.2.1 + (s.taken r.part (s.regsOf r.part)).2.1) ||
    decide (s.basinOwned r.part < t.2.2)

/-- The table or the partition is full (R315); a registration keeps a place for the orphan it may become (DESIGN CHOICE, log 124). -/
def State.tableFull (s : State) (p : Nat) : Bool :=
  decide (16384 ≤ (s.quiley.reqs.filter (fun r => r.stat.live)).length + s.quiley.registrations.length) ||
    decide ((s.policy p).maxRequests ≤ (s.reqsOf p).length + (s.regsOf p).length)

/-! ### Submission (R318, R329, R337) -/

/-- FP32 bits that temperature may not have: negative, infinite, NaN. -/
def badTemperature (t : BitVec 32) : Bool := (bit t.toNat 31 && t.toNat != 0x80000000) || decide (bits t.toNat 23 8 = 255)

/-- A field of R318 is outside its range; `prompt` says that the prompt's fields are in use. -/
def outOfRange (e : SqEntry) (prompt : Bool) : Bool :=
  decide (15 < e.model) || (if e.shadow then decide (e.lagSteps < 1) || decide (64 < e.lagSteps) else e.lagSteps != 0) ||
  (e.periodUs != 0 && (decide (e.periodUs < 100) || decide (1000000 < e.periodUs))) ||
  (prompt && (e.promptAddr % 4 != 0 || e.promptLen == 0)) || e.maxNew == 0 || e.outAddr % 64 != 0 || e.progAddr % 8 != 0 ||
  badTemperature e.temperature || decide (1024 < e.topK)

/-- The peer that takes the registration: the first, failing it the second (R337). -/
def acceptedPeer (e : SqEntry) (a : Bool × Bool) : Option Nat :=
  if a.1 then some e.peerA else if a.2 ∧ e.peerB ≠ e.peerA then some e.peerB else none

/-- A live request of a function by its request_id. -/
def State.byId (s : State) (f : Nat) (id : Word) : Option Serve :=
  s.quiley.reqs.find? (fun r => r.function == f && r.entry.requestId == id && r.stat.live && r.stat != .orphaned)

/-- A new request. -/
def State.newReq (s : State) (e : SqEntry) : Serve where
  slot := s.freeSlot
  function := e.function
  pair := e.pair
  part := s.fnPart e.function
  stat := .queued
  entry := e
  committed := 0
  delivered := 0
  inStep := false
  masked := false
  skip := false
  peer := none
  protectedUpTo := 0
  spareWait := none
  primary := none
  orphanAt := 0
  warmReady := false
  final := false
  ending := none
  base := e.promptLen
  sampled := 0
  away := false
  uid := s.quiley.nextUid
  told := false
  cmdIds := []
  launches := []
  sums := []
  summed := false
  moves := []
  fetches := 0
  shadowTo := 0
  catchUp := 0
  tell := 0
  imageAt := 0
  known := []
  input := none
  oldPeers := []

def Serve.withPeer (r : Serve) (p : Option Nat) : Serve := { r with peer := p }

/-- The Weir and the registration decide last; an admitted request enters the table. -/
def State.enrol (s : State) (r : Serve) (peers : Bool × Bool) (ok : Serve → State) : State :=
  let e := r.entry
  let peer := acceptedPeer e peers
  if e.shadow ∧ peer.isNone then s.refuse e 9 0
  else
    let x := r.withPeer (if e.shadow then peer else none)
    match s.overRate x with
    | some us => s.refuse e 4 us
    | none => ok x

/-- The reasons to refuse a SUBMIT, in R321's order; the Weir and the registration come last. -/
def submitReasons (e : SqEntry) (t : State) : List (Bool × Nat) :=
  let r := t.newReq e
  [(t.isSplit, 5), (outOfRange e true, 1), ((t.byId e.function e.requestId).isSome, 12),
   ((t.model r.part e.model).isNone, 2), (decide (4194304 < e.promptLen + e.maxNew), 7), (t.tableFull r.part, 6),
   (t.noRoom r, 3)]

/-- A request enters the table, Queued (R314). -/
def State.addReq (s : State) (x : Serve) : State :=
  { s with quiley := { s.quiley with reqs := s.quiley.reqs ++ [x], nextUid := s.quiley.nextUid + 1 } }

/-- An accepted SUBMIT: the request enters the table, its peer is told, ADMITTED is sent, and prefill may begin. -/
def State.runSubmit (peers : Bool × Bool) (e : SqEntry) (t : State) : State :=
  t.enrol (t.newReq e) peers (fun x => (((t.addReq x).tellPeer x).reqEvent x 0x01 0 0).startPrefill x.part)

/-- SUBMIT (R329): ADMITTED and Queued, or REFUSED. -/
def execSubmit (e : SqSlot) (peersAccept : Bool × Bool) (s : State) : Host.Outcome State Fault Refusal :=
  commit s (s.command 0x01 e.function e.pair e.bytes submitReasons (State.runSubmit peersAccept))

/-- The orphan that a RESUME or RELEASE_SHADOW names (R319). -/
def State.orphanOf (s : State) (e : SqEntry) : Option Serve :=
  s.quiley.reqs.find? (fun r => r.stat == .orphaned && r.primary == some e.primary && r.entry.requestId == e.primaryId)

/-- The orphan as a lane again, with the entry's buffer, period and peers; it goes on once its pages and known tokens are in
place (R339). -/
def Serve.revived (o : Serve) (e : SqEntry) : Serve :=
  { o with
    function := e.function, pair := e.pair, stat := .decoding, entry := { e with promptLen := 0 }, delivered := 0, sampled := 0
    base := o.committed + o.catchUp, peer := none, protectedUpTo := 0, warmReady := true, skip := false
    masked := false, ending := none, away := false, told := true, tell := 0x0B }

/-- The reasons to refuse a RESUME. -/
def resumeReasons (e : SqEntry) (t : State) : List (Bool × Nat) :=
  match t.orphanOf e with
  | none => [(t.isSplit, 5), (outOfRange e false, 1), (true, 11)]
  | some o =>
    let r := o.revived e
    [(t.fnPart e.function != o.part, 8), (t.isSplit, 5), (outOfRange e false, 1),
     ((t.byId e.function e.requestId).isSome, 12), ((t.model o.part e.model).isNone, 2),
     (decide (4194304 < r.finalLen), 7), (t.noRoom r, 3)]

/-- A resumed request whose image is not in the stacks gets its pages, as a warm one would (R339). -/
def State.prepare (s : State) (o x : Serve) : State :=
  if o.warmReady || o.tell != 0 then s.setReq x
  else
    let y := { x with moves := s.imageMoves { x with protectedUpTo := o.protectedUpTo } (fun h i => s.placed h x i) }
    ((s.setReq y).coldPages y).gapWork y.part

/-- An accepted RESUME: the orphan is a lane again, its new peer is told, and RESUMED is sent once it can go on (R339). -/
def State.runResume (peers : Bool × Bool) (e : SqEntry) (t : State) : State :=
  match t.orphanOf e with
  | none => t
  | some o => t.enrol (o.revived e) peers (fun x =>
      let u := (t.prepare o x).tellPeer x
      match u.req x.slot with | some y => u.tellReady y | none => u)

/-- RESUME (R339): the orphan becomes a lane again, with a new output buffer, period and peers. -/
def execResume (e : SqSlot) (peersAccept : Bool × Bool) (s : State) : Host.Outcome State Fault Refusal :=
  commit s (s.command 0x03 e.function e.pair e.bytes resumeReasons (State.runResume peersAccept))

/-! ### The end of a request (R314, R332, R340) -/

/-- CANCEL names a live request of the function that no CANCEL has reached and whose last token is not committed (R332,
R333). -/
def cancelReasons (e : SqEntry) (t : State) : List (Bool × Nat) :=
  [((match t.byId e.function e.requestId with | some r => r.masked || r.ending.isSome | none => true), 11)]

def State.runCancel (e : SqEntry) (t : State) : State :=
  match t.byId e.function e.requestId with
  | none => t
  | some r => t.cancelReq r

/-- CANCEL (R332, R333): the lane is masked, its work killed, and the request ends once nothing of it is left. -/
def execCancel (e : SqSlot) (s : State) : Host.Outcome State Fault Refusal :=
  commit s (s.command 0x02 e.function e.pair e.bytes cancelReasons State.runCancel)

/-- What a QUERY asks for: a request of the function, or an orphan of its partition (R320). -/
def State.asked (s : State) (e : SqEntry) : Option Serve :=
  s.quiley.reqs.find? (fun r => r.entry.requestId == e.requestId &&
    (if r.stat == .orphaned then s.fnPart e.function == r.part else r.function == e.function))

def queryReasons (e : SqEntry) (t : State) : List (Bool × Nat) := [((t.asked e).isNone, 11)]

def State.runQuery (e : SqEntry) (t : State) : State :=
  match t.asked e with
  | some r => t.event e.function e.pair e.requestId 0x0C r.stat.code r.committed 0 0
  | none => t

/-- QUERY: the state of a request of the function, or of an orphan of its partition (R320). -/
def execQuery (e : SqSlot) (s : State) : Host.Outcome State Fault Refusal :=
  commit s (s.command 0x04 e.function e.pair e.bytes queryReasons State.runQuery)

/-- The registration that a RELEASE_SHADOW names. -/
def State.registered (s : State) (e : SqEntry) : Option Serve :=
  s.quiley.registrations.find? (fun r => r.primary == some e.primary && r.entry.requestId == e.primaryId)

def releaseReasons (e : SqEntry) (t : State) : List (Bool × Nat) :=
  match t.orphanOf e, t.registered e with
  | some o, _ => [(t.fnPart e.function != o.part, 8)]
  | none, some o => [(t.fnPart e.function != o.part, 8)]
  | none, none => [(true, 11)]

/-- A registration is dropped. -/
def State.unregister (s : State) (o : Serve) : State :=
  { s with quiley := { s.quiley with registrations := s.quiley.registrations.erase o } }

/-! ### What a primary tells this package (R337, R340) -/

/-- A request that a primary asks to have registered here. -/
def State.newReg (s : State) (m part : Nat) (e : SqEntry) (slot : Nat) : Serve :=
  { s.newReq e with part := part, primary := some m, slot := slot }

/-- The registration of a primary's request. -/
def State.regOf (s : State) (m part : Nat) (id : Word) : Option Serve :=
  s.quiley.registrations.find? (fun r => r.primary == some m && r.part == part && r.entry.requestId == id)

/-- A place in the table (R315), and Reservoir space for the dense image of one more request at its final length (R307, R337). -/
def State.regRoom (s : State) (r : Serve) : Bool :=
  !s.tableFull r.part && decide ((s.taken r.part (s.reqsOf r.part ++ s.regsOf r.part ++ [r])).2.1 ≤ s.rvrOwned r.part)

/-- A message from the Quiley of a package: a registration is kept where there is space for its image, its tokens are known from then
on, it is orphaned where its primary cannot go on, and it ends with its request (R335, R337, R339, R340). -/
def State.takeMail (s : State) (m part : Nat) : Mail → State
  | .register e slot =>
    let r := s.newReg m part e slot
    let t := match s.regOf m part e.requestId with | some o => s.unregister o | none => s
    if t.regRoom r then { t with quiley := { t.quiley with registrations := t.quiley.registrations ++ [r] } } else t
  | .token id tok committed held =>
    match s.regOf m part id with
    | none => s
    | some o =>
      { s with quiley := { s.quiley with
        registrations := replaceFirst (· == o) (fun _ => { o with
          committed := committed, protectedUpTo := held, known := o.known ++ [(committed, tok)] }) s.quiley.registrations } }
  | .release id => match s.regOf m part id with | some o => s.unregister o | none => s
  | .orphan id => match s.regOf m part id with | some o => s.orphanThese m [o] | none => s

/-- A request of another package that has been performed: one that writes Quiley's mailbox brings it a message (R337). -/
def State.heedMail (s : State) (k : Packet) (status : Nat) : State :=
  if k.ptype = 1 ∧ status = 0 ∧ !k.poison ∧ k.addr = Config.mailbox s.selfId ∧ s.quiley.running then
    match Config.readMail k.payload with
    | some x => s.takeMail k.src k.part x
    | none => s
  else s

/-- The orphan ends as Released, and its copies and commands with it (R340). -/
def State.release (s : State) (o : Serve) : State := (s.setReq { o with stat := .released, final := true }).killWork o

/-- The orphan is Released, or the registration dropped (R340). -/
def State.runRelease (e : SqEntry) (t : State) : State :=
  match t.orphanOf e with
  | some o => (t.release o).done e (o.slot + 1)
  | none =>
    match t.registered e with
    | some o => (t.unregister o).done e 0
    | none => t

/-- RELEASE_SHADOW (R340): an orphan, or a registration whose primary still lives. -/
def execReleaseShadow (e : SqSlot) (s : State) : Host.Outcome State Fault Refusal :=
  commit s (s.command 0x05 e.function e.pair e.bytes releaseReasons State.runRelease)

/-- ORPHAN_HOLD_EXPIRY: an orphan that no RESUME has reached within orphan_hold_s is Released; no event of it is due, so its
slot is free at once (R340). -/
def execOrphanHoldExpiry (slot : Nat) (s : State) : Host.Outcome State Fault Refusal :=
  commit s (
    match s.req slot with
    | some r =>
      if r.stat = .orphaned then ((s.carry (r.orphanAt + (s.policy r.part).holdS * 1000000000)).release r).dropReq slot else s
    | none => s)

/-! ### Models and policy (R319) -/

/-- The package places its weights in the partition's memory. -/
def State.weightsOk (s : State) (p : Nat) (m : ModelPackage) : Bool :=
  m.weights.all (fun w => w.2.isEmpty || (s.homeBad p w.1 w.2.length).isNone)

/-- A model slot holds a package, or none. -/
def State.setModel (s : State) (p m : Nat) (k : Option ModelPackage) : State :=
  { s with quiley := { s.quiley with models := mset none s.quiley.models (p * 16 + m) k } }

def loadReasons (k : ModelPackage) (e : SqEntry) (t : State) : List (Bool × Nat) :=
  [(decide (15 < e.model), 1), (!k.versionOk || !k.crcOk || !t.weightsOk (t.fnPart e.function) k, 10)]

/-- The weights are copied, and the slot holds the package (R319). -/
def State.runLoad (k : ModelPackage) (e : SqEntry) (t : State) : State :=
  let p := t.fnPart e.function
  ((k.weights.foldl (fun (u : State) w => (u.homeWrite p w.1 w.2).1) t).setModel p e.model (some k)).done e 0

/-- LOAD_MODEL: version and CRC-32 are checked, and the weights copied as the package places them; `pkg` is what Quiley reads at
the entry's host address (R319). -/
def execLoadModel (e : SqSlot) (pkg : ModelPackage) (s : State) : Host.Outcome State Fault Refusal :=
  commit s (s.command 0x10 e.function e.pair e.bytes (loadReasons pkg) (State.runLoad pkg))

def unloadReasons (e : SqEntry) (t : State) : List (Bool × Nat) :=
  let p := t.fnPart e.function
  [(decide (15 < e.model), 1),
   ((t.model p e.model).isNone || (t.reqsOf p).any (fun r => r.entry.model == e.model), 2)]

def State.runUnload (e : SqEntry) (t : State) : State := (t.setModel (t.fnPart e.function) e.model none).done e 0

/-- UNLOAD_MODEL: a slot that is empty or has live requests is refused (R319, R321). -/
def execUnloadModel (e : SqSlot) (s : State) : Host.Outcome State Fault Refusal :=
  commit s (s.command 0x11 e.function e.pair e.bytes unloadReasons State.runUnload)

/-- The partition and the policy that a SET_POLICY gives (R319). -/
def policyPart (b : List Byte) : Nat := leAt b 0x10 1
def policyOf (b : List Byte) : Policy := ⟨leAt b 0x11 1, leAt b 0x12 1, leAt b 0x14 2, leAt b 0x18 4, leAt b 0x1C 4⟩

/-- SET_POLICY is function 0's, and its fields have ranges (R319). -/
def policyReasons (part : Nat) (p : Policy) (e : SqEntry) (_ : State) : List (Bool × Nat) :=
  [(e.function != 0, 8),
   (decide (15 < part) || decide (96 < p.decodeW) || decide (96 < p.decodeL) || decide (1000 < p.gapUs) || decide (p.holdS < 1) ||
    decide (86400 < p.holdS), 1)]

def State.runPolicy (part : Nat) (p : Policy) (e : SqEntry) (t : State) : State :=
  ({ t with quiley := { t.quiley with policy := mset Policy.start t.quiley.policy part p } } : State).done e 0

/-- The entry of a SET_POLICY: 128 B in which its own fields stand at their offsets (R319). -/
def policyBytes (b : List Byte) (part decodeW decodeL gapUs maxRequests holdS : Nat) : List Byte :=
  let put (o n v : Nat) (x : List Byte) : List Byte := overlay x o (leBytes n v)
  put 0x1C 4 holdS (put 0x18 4 maxRequests (put 0x14 2 gapUs (put 0x12 1 decodeL (put 0x11 1 decodeW (put 0x10 1 part
    (b.take 128 ++ List.replicate (128 - b.length) 0))))))

/-- SET_POLICY (R319): function 0 only. -/
def execSetPolicy (e : SqSlot) (part decodeW decodeL gapUs maxRequests holdS : Nat) (s : State) :
    Host.Outcome State Fault Refusal :=
  let b := policyBytes e.bytes part decodeW decodeL gapUs maxRequests holdS
  commit s (s.command 0x20 e.function e.pair b (policyReasons (policyPart b) (policyOf b)) (State.runPolicy (policyPart b) (policyOf b)))

end Sys2Proof.Machine
end

