-- ==== Sys2Proof/Machine/Registers.lean ====
section
/-!
DEFINITION. Register accesses (R427 to R443): what a register reads, who may read and write it, what a write of it does, the
common header, the fault log, and the rows that write one register.
-/
namespace Sys2Proof.Machine

/-! ### Pages -/

/-- The offset names a page that R428 lists, or a partition's control page (R187). -/
def State.pageOk (s : State) (a : Nat) : Bool :=
  if a < 0x20000000 then decide (regInst a < instances s.active (regDie a) (regType a))
  else decide (0x40000000 ≤ a) && decide (a < 0x41000000) && decide (a / 0x1000 % 0x100 < 16) && (s.stack ((a - 0x40000000) / 0x100000)).trained

def pageOf (a : Nat) : Nat := a - a % 0x1000

/-! ### What a register shows -/

def bitAt (b : Bool) (i : Nat) : Nat := if b then 2 ^ i else 0

/-- BLK_STATUS.present (R435). -/
def State.present (s : State) (page : Nat) : Bool :=
  let d := regDie page
  let i := regInst page
  match regType page with
  | 0x01 => (s.role d i).logical.isSome
  | 0x10 => (s.stack (d.idx * 8 + i)).trained
  | 0x11 => (s.stack (d.idx * 8 + i)).trained
  | 0x12 => if i < 8 then (s.stack (d.idx * 8 + i)).trained else s.flag (rvrPage (d.idx * 6 + (i - 8)) + 0x104) 0
  | 0x20 => s.flag (page + 0x104) 0
  | _ => true

/-- BLK_CAP (R186, R426, R438). -/
def State.blkCap (s : State) (page : Nat) : Nat :=
  let d := regDie page
  match regType page with
  | 0x01 => bitAt ((s.fuses.spares.get d).contains (regInst page)) 0
  | 0x10 => if s.fuses.variant = .f then 64 + 32 * 256 else 48 + 24 * 256
  | 0x41 => bitAt (s.active == d) 0 + bitAt (s.active == Die.leeward) 1
  | _ => 0

def StrandStat.code : StrandStat → Nat
  | .free => 0 | .loading => 1 | .ready => 2 | .running => 3 | .waiting => 4 | .parked => 5 | .halted => 6

/-- The partition of the launch that a context is reserved for: the context is Loading (R42, R46). -/
def State.loadingFor (s : State) (d : Die) (core ctx : Nat) : Option Nat :=
  ((s.core d core).reserved.find? (fun e => e.1 == ctx)).bind (fun e => (s.launches.find? (fun l => l.key == e.2)).map (·.part))

/-- What a context's status block shows of a strand: its strand, or the one parked from it (R101). -/
def State.ctxShown (s : State) (d : Die) (core ctx : Nat) : Option Strand :=
  let parked := ((s.core d core).parked.find? (fun e => e.1 == ctx)).map (·.2)
  match s.strand (strandKey d core ctx) with
  | some x => if x.stat = .free then parked.or (some x) else some x
  | none => parked

def Strand.qmapWord (x : Strand) : Nat := x.qmap.foldl (fun t e => t + (8 + e.2 % 8) * 16 ^ e.1) 0

/-- A word of a context's status block (R101). -/
def State.ctxWord (s : State) (page off : Nat) : Nat :=
  let d := regDie page
  match (s.role d (regInst page)).logical with
  | none => 0
  | some c =>
    let ctx := (off - 0x100) / 0x10
    let reason := mget 0 (s.core d c).reasons ctx * 2 ^ 8
    match s.loadingFor d c ctx, s.ctxShown d c ctx with
    | some p, _ => if off % 0x10 / 4 = 0 then 1 + reason + p * 2 ^ 16 else 0
    | none, none => if off % 0x10 / 4 = 0 then reason else 0
    | none, some x =>
      match off % 0x10 / 4 with
      | 0 => x.stat.code + reason + (if x.stat = .free then 0 else x.part) * 2 ^ 16
      | 1 => x.apc % 2 ^ 17
      | 2 => x.epc % 2 ^ 17
      | _ => x.qmapWord

/-- CORE page. -/
def State.coreView (s : State) (page off : Nat) : Option Nat :=
  if 0x100 ≤ off ∧ off < 0x180 then some (s.ctxWord page off)
  else if off = 0x180 then
    let r := s.role (regDie page) (regInst page)
    some (r.logical.getD 0 + bitAt r.logical.isSome 7 + bitAt r.retired 8)
  else none

/-- SCHED page. -/
def State.schedView (s : State) (d : Die) (off : Nat) : Option Nat :=
  let page := schedPage d
  if 0x100 ≤ off ∧ off < 0x900 ∧ off % 0x20 = 0x0C then
    let r := (off - 0x100) / 0x20
    some (bitAt (s.ringRuns d r) 0 + bitAt (s.flag (page + off) 1) 1 + bitAt (s.ringBlocked d r) 2 + s.ringInflight d r % 65536 * 65536)
  else if off = 0x998 then some (bits (s.reg (page + off)).toNat 16 42 * 65536 + bitAt s.inval.isEmpty 1)
  else if off = 0xB10 then
    let m := s.mcast.filter (fun e => e.die == d && !e.freed)
    some (m.length + bitAt (s.flag (page + off) 6) 6 + ceilDiv ((m.map (·.bytes)).foldl (· + ·) 0) 1024 * 65536)
  else if off = 0xC00 then some (setBits (s.reg (page + off)).toNat 0 2 1)
  else if 0xC00 ≤ off ∧ (off - 0xC00) % 0x40 = 0x18 then
    let p := (off - 0xC00) / 0x40
    let run := ((List.range 96).map (fun c => if s.holderOf d c = some p then s.now - (s.core d c).chargedAt else 0)).foldl (· + ·) 0
    some (((s.reg (page + off)).toNat + run) % 2 ^ 64)
  else none

/-- STK page. -/
def State.stkView (s : State) (page off : Nat) : Option Nat :=
  let d := regDie page
  let n := d.idx * 8 + regInst page
  let k := s.stack n
  if off = 0x05C then
    let t := signed (s.fld (pg d Blk.therm 0 + 0x104 + regInst page * 4) 0 16) 16 / 16
    some (s.fld (page + off) 0 2 + unsignedOf t 8 * 256)
  else if off = 0x108 then
    some (mget 0 k.own (s.fld (page + 0x104) 0 16))
  else if off = 0x118 then some k.gov
  else if 0x120 ≤ off ∧ off < 0x160 then
    let w := (off - 0x120) / 4
    some ((k.unavailable.filter (fun u => u / 32 == w)).dedup.foldl (fun t u => t + 2 ^ (u % 32)) 0)
  else none

/-- SCRUB page. -/
def State.scrubView (s : State) (page off : Nat) : Option Nat :=
  let d := regDie page
  let i := regInst page
  let x := s.scrubber page
  if off = 0x104 then
    let total := s.scrubUnits i d
    some ((if total = 0 then 0 else x.cursor * 1000 / total) + bitAt (s.flag (page + off) 10) 10 + x.queue.length % 128 * 2 ^ 11)
  else if off = 0x108 ∧ 8 ≤ i then some (setBits (s.reg (page + off)).toNat 0 3 0)
  else if off = 0x10C then
    if 8 ≤ i then some 0
    else
      let k := s.stack (d.idx * 8 + i)
      some (16 - Nat.min 16 (listMax (k.rowsUsed.map (·.2))) + (16 - Nat.min 16 k.nbuRetired.length) * 2 ^ 5 +
        (4 - Nat.min 4 (listMax ((List.range 32).map k.vcOf))) * 2 ^ 10 + k.retiredGranules.length % 65536 * 2 ^ 16)
  else none

/-- VROUTE page. -/
def State.vrouteView (s : State) (d : Die) (off : Nat) : Option Nat :=
  if off = 0x108 then some (mget 0 s.routes (s.fld (vroutePage d + 0x100) 0 9)).toNat
  else if off = 0x118 then some (mget 0 s.windows (s.windowIdx d)).toNat
  else if off = 0x138 then some (s.shadow.get d).length
  else if off = 0x13C then some (s.fld (vroutePage d + off) 0 4 + bitAt ((s.shadow.get d).any (·.cancelled)) 4)
  else none

/-- MGMT page (R426). -/
def State.mgmtView (s : State) (d : Die) (off : Nat) : Option Nat :=
  if s.active ≠ d then some 0
  else if off = 0x104 then
    some (bitAt s.host.i3cAddr.isSome 0 + bitAt s.host.eid.isSome 1 + s.fld (pg d Blk.mgmt 0 + off) 2 2 * 4 + bitAt s.host.agent.isSome 4)
  else none

/-- A DMA channel runs: enabled, of a size R50 allows, and not stopped (R415). -/
def State.dmaRuns (s : State) (ch : Nat) : Bool :=
  let a := s.dmaBase ch
  s.flag (a + 8) 4 && decide (4 ≤ s.fld (a + 8) 0 4) && decide (s.fld (a + 8) 0 4 ≤ 12) && !s.flag (a + 0x0C) 1

/-- PCIE page. -/
def State.pcieView (s : State) (off : Nat) : Option Nat :=
  if 0x400 ≤ off ∧ off < 0x600 ∧ off % 0x20 = 0x0C then
    let ch := (off - 0x400) / 0x20
    some (bitAt (s.dmaRuns ch) 0 + bitAt (s.flag (s.dmaBase ch + 0x0C) 1) 1)
  else none

/-- CFGST page (R409). -/
def State.cfgstView (s : State) (off : Nat) : Option Nat :=
  let x := s.store
  if off = 0x100 then
    some (bitAt x.writing.isSome 0 + bitAt (s.flag (s.cfgstPage + off) 1) 1 + bitAt (x.pendingData || x.pendingFw) 2 + bitAt x.dataUse 3 +
      bitAt x.fwUse 4 + bitAt (x.copy 0 (1 - x.used 0)).valid 5 + bitAt (x.copy 1 (1 - x.used 1)).valid 6 +
      bitAt (s.flag (s.cfgstPage + off) 7) 7)
  else if off = 0x104 then some (x.copy 0 (x.used 0)).sequence
  else if off = 0x108 then some (x.copy 1 (x.used 1)).sequence
  else if off = 0x10C then some (s.fuses.hkSvn + s.fuses.sccSvn * 256)
  else none

/-- A fault record as its 32 bytes (R439). -/
def FaultRec.toBytes (r : FaultRec) : List Byte :=
  leBytes 8 r.time ++ leBytes 4 r.source.toNat ++ leBytes 2 r.code ++ leBytes 1 r.flags ++ leBytes 1 0 ++ leBytes 8 r.arg.toNat ++
    leBytes 8 r.detail.toNat

/-- FAULT page. -/
def State.faultView (s : State) (d : Die) (off : Nat) : Option Nat :=
  if 0x120 ≤ off ∧ off < 0x140 then
    some (match s.logLatch.get d with | some r => leAt r.toBytes (off - 0x120) 4 | none => 0)
  else if 0x800 ≤ off ∧ off % 0x20 = 0x18 then
    let m := (off - 0x800) / 0x20
    some (setBits (s.reg (faultPage d + off)).toNat 0 1 (boolNat (s.dlArmed d m)))
  else none

/-- A diode's reading is current: no older than a round, or than the watch interval in Calm (R367, R387, R394; DESIGN CHOICE,
log 113). -/
def State.diodeFresh (s : State) (d : Die) (n : Nat) : Bool :=
  let every := if s.power d = 2 then s.fld (pwrstPg d + 0x10C) 0 10 * 1000000 else 1000000
  decide (s.now ≤ mget 0 (s.hk.get d).times n + every)

/-- A register whose value the block computes; none where the stored value stands. -/
def State.blockView (s : State) (page off : Nat) : Option Nat :=
  let d := regDie page
  match regType page with
  | 0x01 => s.coreView page off
  | 0x03 => if off = 0x100 then some ((s.layQueue d).length % 128) else none
  | 0x05 =>
    if off = 0x108 then
      let g := (s.basin.get d).groups
      some ((g.map (·.slots)).foldl (· + ·) 0 % 8192 + bitAt (s.flag (page + off) 13) 13 + g.length % 2048 * 65536)
    else none
  | 0x06 => s.schedView d off
  | 0x07 => if d = s.active then none else some 0
  | 0x10 => s.stkView page off
  | 0x12 => s.scrubView page off
  | 0x31 => s.vrouteView d off
  | 0x33 => if off = 0x100 then some (s.now % 2 ^ 64) else if 0x100 < off then some (s.reg (timePg + off)).toNat else none
  | 0x40 => s.pcieView off
  | 0x41 => s.mgmtView d off
  | 0x51 =>
    if 0x100 ≤ off ∧ off < 0x124 then
      let x := (s.reg (page + off)).toNat
      some (if s.diodeFresh d ((off - 0x100) / 4) then x else setBits x 16 1 0)
    else none
  | 0x52 =>
    if off = 0x200 then some (if s.leads d then Nat.min (s.cap.total / 1000000) 65535 else 0)
    else if off = 0x204 then some (s.refAgeMs d + s.fld (page + off) 28 3 * 2 ^ 28)
    else none
  | 0x53 => if off = 0x100 then some (setBits (s.reg (page + off)).toNat 0 1 (boolNat (!(s.hk.get d).avs.isEmpty))) else none
  | 0x55 => s.cfgstView off
  | 0x56 =>
    if off = 0x104 then
      let beat := match (s.hk.get d).lastBeat with | some t => decide (s.now ≤ t + 1000000) | none => false
      some (setBits (s.reg (page + off)).toNat 2 1 (boolNat beat))
    else none
  | 0x60 => s.faultView d off
  | _ => none

/-- A header register (R435). -/
def State.headerView (s : State) (page off : Nat) : Option Nat :=
  if off = 0 then some (regInst page + regType page * 65536)
  else if off = 8 then some (s.blkCap page)
  else if off = 0x14 then
    some (bitAt (s.present page) 0 + bitAt (s.flag (page + 0x20) 20) 1 + bitAt (s.flag (page + 0x10) 0) 2 + bitAt (s.locked page) 3)
  else if off = 0x18 ∧ regType page = Blk.sched then
    some (setBits (s.reg (page + 0x18)).toNat 1 1 (boolNat (s.reg (page + 0x910) != 0)))
  else none

/-- A control page (R187). -/
def State.ctlView (s : State) (a : Nat) : Option Nat :=
  if regOff a = 0x10 then
    some ((s.stack ((a - 0x40000000) / 0x100000)).cmds.filter (fun c => c.part == a / 0x1000 % 0x100)).length
  else none

/-- The fields a write-only access code hides read zero (R432). -/
def RegDesc.shown (r : RegDesc) (x : Nat) : Nat :=
  r.fields.foldl (fun t f => if f.acc = .wo then setBits t f.lo f.n 0 else t) x

/-- The live value of the register that starts at an offset. -/
def State.live (s : State) (a : Nat) (r : RegDesc) : Nat :=
  let v := if 0x40000000 ≤ a then s.ctlView a
    else if regOff a < 0x40 then s.headerView (pageOf a) (regOff a) else s.blockView (pageOf a) (regOff a)
  match v with
  | some x => x
  | none => r.shown (s.reg a).toNat

/-- A counter's place in a page (R435); STK_REFRESH, which lies among them, counts nothing (R186). -/
def isCounter (a : Nat) : Bool :=
  decide (a < 0x40000000) && decide (0x40 ≤ regOff a) && decide (regOff a < 0x100) && !(regType a == Blk.stk && regOff a == 0x5C)

/-- What a read of the register returns: its snapshot where the page's counters are frozen (R435). -/
def State.view (s : State) (a : Nat) (r : RegDesc) : Nat :=
  if isCounter a && s.flag (pageOf a + 0x10) 0 then (mget 0 s.snap a).toNat else s.live a r

/-! ### Who may read -/

/-- A partition other than 0 may read a register of a page it reaches (R431 and the tables of each block). A partition
reads its own accounting block (R347), though R60 says that a strand cannot observe the accounting of shares: R60 is
read as keeping every other partition's shares from it (DEDUCED, log 93). -/
def partReads (t off p : Nat) : Bool :=
  if off < 0x40 then true
  else
    match t with
    | 0x01 => decide (off < 0x100) || off == 0x180
    | 0x05 => decide (off < 0x100) || off == 0x108
    | 0x06 =>
      if off < 0x900 then (off - 0x100) / 0x20 / 4 == p && ((off % 0x20 == 0x0C) || (off % 0x20 == 0x10))
      else if off < 0x910 then false
      else if off < 0xC00 then off != 0x918 && off != 0x990 && off != 0x998
      else (off - 0xC00) / 0x40 == p && decide (0x18 ≤ (off - 0xC00) % 0x40)
    | 0x12 => decide (off < 0x100)
    | 0x31 => decide (off < 0x60)
    | 0x40 => false
    | 0x41 => false
    | 0x50 => false
    | 0x53 => false
    | 0x55 => false
    | 0x56 => false
    | 0x60 => false
    | _ => true

/-- Registers reserved to the SCC (R211, R306). -/
def sccOnly (t off : Nat) : Bool := (t == Blk.basin && (off == 0x110 || off == 0x118)) || (t == Blk.vroute && off == 0x130)

/-- Registers whose own statement names all who may access them, management not among them: the partitions' registers of SCHED
(R347) and the deadline monitors of FAULT (R363). -/
def closedReg (t off : Nat) : Bool :=
  (t == Blk.sched && (off == 0x900 || off == 0x904 || off == 0x908 || decide (0xC00 ≤ off))) || (t == Blk.fault && decide (0x800 ≤ off))

/-- A requester may read the register that starts at an offset (R431). -/
def mayReadReg (w : Who) (a : Nat) : Bool :=
  match w with
  | .mgmt => !(decide (a < 0x40000000) && (sccOnly (regType a) (regOff a) || closedReg (regType a) (regOff a)))
  | .scc => true
  | _ =>
    if 0x40000000 ≤ a then ctlAllowed w (a / 0x1000 % 0x100)
    else if sccOnly (regType a) (regOff a) then false
    else w.root || partReads (regType a) (regOff a) (w.part.getD 0)

/-! ### Reading -/

/-- Four bytes of register space: an offset that no register occupies reads zero (R430, R433). -/
def State.readWord (s : State) (w : Who) (a : Nat) : Option Nat :=
  match regAt a with
  | some r => if mayReadReg w a then some (s.view a r % 2 ^ 32) else none
  | none =>
    match regAt (a - 4) with
    | some r => if 4 ≤ a ∧ r.width = 64 then (if mayReadReg w (a - 4) then some (s.view (a - 4) r / 2 ^ 32) else none) else some 0
    | none => some 0

/-- A register read of 4 or 8 bytes; none where it completes with an error (R27, R430, R431). -/
def State.readReg (s : State) (w : Who) (a size : Nat) : Option Nat :=
  if !s.pageOk a || (size ≠ 4 && size ≠ 8) || a % size ≠ 0 then none
  else if size = 4 then s.readWord w a
  else
    match s.readWord w a, s.readWord w (a + 4) with
    | some x, some y => some (x + y * 2 ^ 32)
    | _, _ => none

/-! ### Writing the header (R435, R436) -/

/-- A page's interrupt has come to be asserted: those of SCHED and FAULT go to the host's vectors (R412, R435). -/
def State.irqEdge (page : Nat) (old new : State) : State :=
  let on (x : State) : Bool :=
    match regAt (page + 0x18) with
    | some r => ((x.view (page + 0x18) r) &&& (x.reg (page + 0x1C)).toNat) % 16 != 0
    | none => false
  if on old || !on new then new
  else if regType page = Blk.sched then new.msix 0 30
  else if regType page = Blk.fault then new.msix 0 31
  else new

/-- BLK_LOCK: once hold is 1, lock and hold stay. -/
def writeLock (who : Who) (page : Nat) (v : Word) (s : State) : Written :=
  rootOnly who (fun t =>
    let a := page + 0x0C
    let t1 := if t.flag a 1 then t else t.setFld a 0 2 (v.toNat % 4)
    written (if bit v.toNat 2 then t1.setFlag a 2 false else t1)) s

/-- The counters of a page, as offsets in register space with their descriptions. -/
def pageCounters (page : Nat) : List (Nat × RegDesc) :=
  ((blockRegs (regDie page) (regType page)).filter (fun r => isCounter (page + r.off))).flatMap (fun r =>
    (List.range r.count).map (fun i => (page + r.off + i * r.stride, r)))

/-- BLK_CTRL.freeze: 1 takes a snapshot of the page's counters. -/
def State.freeze (s : State) (page : Nat) (on : Bool) : State :=
  let s1 := s.setFlag (page + 0x10) 0 on
  if !on then s1
  else { s1 with snap := (pageCounters page).foldl (fun m e => mset 0 m e.1 (w64 (s.live e.1 e.2))) s1.snap }

/-- BLK_CTRL.clear: the page's counters and BLK_ERR_COUNT. -/
def State.clearCounters (s : State) (page : Nat) : State :=
  (pageCounters page).foldl (fun (t : State) e => t.setReg e.1 0) (s.setReg (page + 0x30) 0)

def writeBlkCtrl (who : Who) (page : Nat) (v : Word) (s : State) : Written :=
  rootOnly who (fun t =>
    let t1 := t.freeze page (bit v.toNat 0)
    written (if bit v.toNat 1 then t1.clearCounters page else t1)) s

/-- BLK_IRQ_STATUS: clearing err re-arms the capture; the FAULT page's own bits clear as written. -/
def writeIrqStatus (who : Who) (page : Nat) (v : Word) (s : State) : Written :=
  rootOnly who (fun t =>
    let a := page + 0x18
    let t1 := if bit v.toNat 0 then (t.setFlag a 0 false).setFld (page + 0x20) 20 2 0 else t
    written (if regType page = Blk.fault then (bitList (v.toNat % 16) 4).foldl (fun (u : State) i => u.setFlag a i false) t1 else t1)) s

/-- The interrupt enables a page has: err everywhere, bits 3:1 in FAULT, bit 1 in SCHED; the rest are reserved (R435). -/
def irqBits (page : Nat) : Nat := if regType page = Blk.fault then 16 else if regType page = Blk.sched then 4 else 2

/-- A write of a page's header (R435). -/
def writeHeader (who : Who) (page off : Nat) (v : Word) (s : State) : Written :=
  if off = 0x0C then writeLock who page v s
  else if off = 0x10 then writeBlkCtrl who page v s
  else if off = 0x18 then writeIrqStatus who page v s
  else if off = 0x1C then
    rootOnly who (fun t => written (State.irqEdge page t (t.setReg (page + off) (w64 (v.toNat % irqBits page))))) s
  else rootOnly who written s

/-! ### Writing a field (R432) -/

/-- The written value is one the field takes. -/
def Field.admits (f : Field) (v : Nat) : Bool :=
  match f.range with
  | some (a, b) => decide (a ≤ bits v f.lo f.n) && decide (bits v f.lo f.n ≤ b)
  | none => true

/-- A field's part of a write. -/
def Field.write (f : Field) (locked : Bool) (v x : Nat) : Nat :=
  match f.acc with
  | .rw => if f.admits v then setBits x f.lo f.n (bits v f.lo f.n) else x
  | .rwl => if f.admits v && !locked then setBits x f.lo f.n (bits v f.lo f.n) else x
  | .rw1c => setBits x f.lo f.n (bits x f.lo f.n &&& (2 ^ f.n - 1 - bits v f.lo f.n))
  | _ => x

/-- A register with no effect beyond its fields. -/
def writeFields (page a : Nat) (r : RegDesc) (v : Word) (s : State) : State :=
  let lk := s.locked page
  let s1 := if lk && r.fields.any (fun f => f.acc == .rwl) then s.setFlag (page + 0x0C) 2 true else s
  s1.setReg a (w64 (r.fields.foldl (fun x f => f.write lk v.toNat x) (s.reg a).toNat))

/-- Partition 0's write to such a register. -/
def rootFields (who : Who) (page a : Nat) (r : RegDesc) (v : Word) (s : State) : Written :=
  rootOnly who (fun t => written (writeFields page a r v t)) s

/-! ### Registers with an effect of their own -/

/-- DMA control and tail (R415): as a launch ring's, but that a rejected tail leaves no record of SCHED's. -/
def writeDmaCtrl (who : Who) (ch : Nat) (v : Word) (s : State) : Written :=
  rootRwl who s.pciePage (fun t =>
    let a := t.dmaBase ch
    let t1 := t.setReg (a + 8) (w64 (v.toNat % 256))
    if bit v.toNat 4 then t1 else t1.setFlag (a + 0x0C) 1 false) s

def writeDmaTail (who : Who) (ch v : Nat) (s : State) : Written :=
  rootOnly who (fun t =>
    let a := t.dmaBase ch
    if 16 ≤ ch ∨ !t.dmaRuns ch then written t
    else
      let tail := t.fld (a + 0x14) 0 16
      let ahead := (v % 65536 + 65536 - tail) % 65536
      let used := (tail + 65536 - t.fld (a + 0x10) 0 16) % 65536
      written (if ahead + used ≤ 2 ^ t.fld (a + 8) 0 4 then t.setFld (a + 0x14) 0 16 v else t.setFlag (a + 0x0C) 1 true)) s

/-- THERM_LIMITS: a field above its reset value, or fields out of ascending order, leave the register (R387). -/
def writeThermLimits (who : Who) (page : Nat) (v : Word) (s : State) : Written :=
  rootRwl who page (fun t =>
    let w := bits v.toNat 0 8
    let h := bits v.toNat 8 8
    let c := bits v.toNat 16 8
    if 95 < w ∨ 100 < h ∨ 110 < c ∨ h ≤ w ∨ c ≤ h then t else t.setReg (page + 0x140) (w64 (v.toNat % 2 ^ 24))) s

/-- SCRUB_REPAIR_REQ: an explicit repair request (R271, R280). -/
def writeRepairReq (who : Who) (page : Nat) (v : Word) (s : State) : Written :=
  rootOnly who (fun t =>
    let n := (regDie page).idx * 8 + regInst page
    let x := v.toNat
    if 8 ≤ regInst page then written t
    else
      match x % 4 with
      | 0 => written (if bits x 8 36 < t.stackBytes then t.askMaint (.rowRepair n (bankRow (bits x 8 36))) else t)
      | 1 => written (t.askMaint (.nbuSwap n (bits x 8 9)))
      | 2 => written (t.askMaint (.vcSwap n (bits x 8 5) (bits x 13 8)))
      | _ => written t) s

/-- HK_SCC_BEAT is written by the SCC only (R387). -/
def writeSccBeat (who : Who) (page : Nat) (v : Word) (s : State) : Written :=
  if who.isScc then written (s.setReg (page + 0x108) (w64 (v.toNat % 2 ^ 32))) else denied s

/-- LAYOUT_CANCEL_TAG and other 64-bit values stand in the table; FAULT_LOG_RD moves forward only, up to FAULT_LOG_WR
(R442). -/
def writeLogRd (who : Who) (d : Die) (v : Word) (s : State) : Written :=
  rootOnly who (fun t =>
    let p := faultPage d
    let rd := t.fld (p + 0x104) 0 32
    let new := v.toNat % 2 ^ 32
    written (if (new + 2 ^ 32 - rd) % 2 ^ 32 ≤ (t.fld (p + 0x100) 0 32 + 2 ^ 32 - rd) % 2 ^ 32 then t.setReg (p + 0x104) (w64 new) else t)) s

/-- The record with a number, while the log still holds it (R441, R443). -/
def State.logRecord (s : State) (d : Die) (k : Nat) : Option FaultRec :=
  let back := (s.fld (faultPage d + 0x100) 0 32 + 2 ^ 32 - k % 2 ^ 32) % 2 ^ 32
  if 1 ≤ back ∧ back ≤ 4096 then mget none s.faultLog (d.idx * 4096 + k % 4096) else none

/-- FAULT_LOG_IDX: the named record is copied; one overwritten or not yet written is stale (R443). -/
def writeLogIdx (who : Who) (d : Die) (v : Word) (s : State) : Written :=
  rootOnly who (fun t =>
    let p := faultPage d
    let k := v.toNat % 2 ^ 32
    let r := t.logRecord d k
    written { (t.setReg (p + 0x108) (w64 k)).setReg (p + 0x10C) (if r.isSome then 1 else 2) with logLatch := t.logLatch.set d r }) s

/-! ### One register written -/

/-- SCHED page. -/
def writeSched (who : Who) (d : Die) (off : Nat) (r : RegDesc) (v : Word) (s : State) : Written :=
  let page := schedPage d
  if off < 0x900 then
    let ring := (off - 0x100) / 0x20
    match (off - 0x100) % 0x20 with
    | 0x08 => writeRingCtrl who d ring v s
    | 0x14 => writeRingTail who d ring v.toNat s
    | _ => rootFields who page (page + off) r v s
  else if off = 0x918 then writeLaunchKill who d v s
  else if off = 0x990 then writeTlbInval who d 0 v s
  else if off = 0x998 then writeTlbInval who d 1 v s
  else if off = 0xB08 then writeMcastAllot who d v s
  else if off < 0xC00 then rootFields who page (page + off) r v s
  else
    let p := (off - 0xC00) / 0x40
    match (off - 0xC00) % 0x40 with
    | 0x0 => writePartCfg who d p v s
    | 0x4 => writePartRes who d p v s
    | 0x8 => writePartCores who d p 0 1 v.toNat s
    | 0xC => writePartCores who d p 1 1 v.toNat s
    | 0x10 => writePartCores who d p 2 1 v.toNat s
    | _ => rootFields who page (page + off) r v s

/-- SCC page: queue pairs, on the active die (R316). -/
def writeScc (who : Who) (d : Die) (off : Nat) (v : Word) (s : State) : Written :=
  rootOnly who (fun t =>
    if d ≠ t.active ∨ off < 0x400 then written t
    else
      let f := (off - 0x400) / 0x80
      let k := (off - 0x400) % 0x80 / 0x20
      match off % 0x20 with
      | 0x00 => written (writeQpBase f k 0 v t)
      | 0x08 => written (writeQpBase f k 8 v t)
      | 0x10 => written (writeQpCfg f k v t)
      | 0x18 => written (writeSqTail f k v t)
      | 0x1C => written (writeCqHead f k v t)
      | _ => written t) s

/-- STK page. -/
def writeStk (who : Who) (page off : Nat) (r : RegDesc) (v : Word) (s : State) : Written :=
  let n := (regDie page).idx * 8 + regInst page
  if off = 0x100 then writeStkMode who n v s
  else if off = 0x108 then writeStkOwnData who n v s
  else if off = 0x110 then writeStkQlimit who n v s
  else rootFields who page (page + off) r v s

/-- SCRUB page. -/
def writeScrub (who : Who) (page off : Nat) (r : RegDesc) (v : Word) (s : State) : Written :=
  if off = 0x100 then writeScrubPeriod who (regDie page) (regInst page) v s
  else if off = 0x108 ∧ 8 ≤ regInst page then
    rootFields who page (page + off) { r with fields := r.fields.filter (fun f => decide (8 ≤ f.lo)) } v s
  else if off = 0x110 then writeScrubFlip who (regDie page) (regInst page) v s
  else if off = 0x128 then writeRepairReq who page v s
  else rootFields who page (page + off) r v s

/-- VROUTE page. -/
def writeVroute (who : Who) (d : Die) (off : Nat) (r : RegDesc) (v : Word) (s : State) : Written :=
  let page := vroutePage d
  if off = 0x108 then writeRtData who d v s
  else if off = 0x118 then writeWinData who d v s
  else if off = 0x130 then writeShadowSubmit who d v s
  else if off = 0x13C then writeShadowCancel who d v s
  else rootFields who page (page + off) r v s

/-- PCIE page. -/
def writePcie (who : Who) (off : Nat) (r : RegDesc) (v : Word) (s : State) : Written :=
  if off < 0x400 then rootFields who s.pciePage (s.pciePage + off) r v s
  else
    match off % 0x20 with
    | 0x08 => writeDmaCtrl who ((off - 0x400) / 0x20) v s
    | 0x14 => writeDmaTail who ((off - 0x400) / 0x20) v.toNat s
    | _ => rootFields who s.pciePage (s.pciePage + off) r v s

/-- FAULT page. -/
def writeFault (who : Who) (d : Die) (off : Nat) (v : Word) (s : State) : Written :=
  if off = 0x104 then writeLogRd who d v s
  else if off = 0x108 then writeLogIdx who d v s
  else if 0x800 ≤ off then
    let m := (off - 0x800) / 0x20
    let x := off % 0x20
    if x = 0x18 then writeDlCtrl who d m v s
    else if x = 0x1C then rootOnly who written s
    else writeDlWord who d m x v s
  else rootOnly who written s

/-- A control page (R187): its registers are for its partition and partition 0. -/
def writeCtl (who : Who) (a : Nat) (v : Word) (s : State) : Written :=
  let n := (a - 0x40000000) / 0x100000
  let p := a / 0x1000 % 0x100
  if regOff a = 0 then writeStkKill who n p v s
  else if regOff a = 8 then writeStkKillAll who n p v s
  else if regOff a = 0x1C then writeStkRecRd who n p v s
  else if ctlAllowed who p then written s
  else denied s

/-- A write of a whole register, at the offset where it starts (R431, R432). -/
def writeReg (who : Who) (a : Nat) (r : RegDesc) (v : Word) (s : State) : Written :=
  let page := pageOf a
  let off := regOff a
  let d := regDie a
  if 0x40000000 ≤ a then writeCtl who a v s
  else if off < 0x40 then writeHeader who page off v s
  else
    match regType a with
    | 0x01 => -- an instance that is not enabled holds what its reset left (R22)
      if off = 0x200 then writeCoreFlip who d (regInst a) v s
      else if off = 0x220 then writeCoreRetire who d (regInst a) v s
      else if (s.role d (regInst a)).logical.isNone then rootOnly who written s
      else rootFields who page a r v s
    | 0x02 =>
      if 0x100 ≤ off ∧ off < 0x140 then writePoolWayMask who d ((off - 0x100) / 4) v s
      else if off = 0x140 then writePoolWayExcl who d v s
      else rootFields who page a r v s
    | 0x03 =>
      if off = 0x104 then writeLayoutCancel who d v s
      else if off = 0x108 then writeLayoutQlimit who d v s
      else rootFields who page a r v s
    | 0x05 =>
      if off = 0x100 then writeBasinSlotAllot who d v s
      else if off = 0x110 then writeBasinRsv who d v s
      else if off = 0x118 then (if who.isScc then written s else denied s)
      else rootFields who page a r v s
    | 0x06 => writeSched who d off r v s
    | 0x07 => writeScc who d off v s
    | 0x10 => writeStk who page off r v s
    | 0x12 => writeScrub who page off r v s
    | 0x30 =>
      let p := d.idx * 12 + regInst a
      if off = 0x100 then writeVlCtrl who p v s
      else if 0x140 ≤ off then writeGUnits who p ((off - 0x140) / 4) v s
      else rootFields who page a r v s
    | 0x31 => writeVroute who d off r v s
    | 0x33 => if off = 0x108 then writeTimeCfg who d v s else rootOnly who written s
    | 0x40 => writePcie who off r v s
    | 0x41 => if d = s.active then rootFields who page a r v s else rootOnly who written s
    | 0x50 => if off = 0x108 then writeSccBeat who page v s else rootFields who page a r v s
    | 0x51 => if off = 0x140 then writeThermLimits who page v s else rootFields who page a r v s
    | 0x54 =>
      if off = 0x110 then writePwrstReset who d v s
      else if off = 0x114 then writeModuleId who d v s
      else if off = 0x100 then rootFields who page a r v (s.stir.stirLull d)
      else rootFields who page a r v s
    | 0x55 => if off = 0x110 then writeSvnCommit who v s else rootFields who page a r v s
    | 0x60 => writeFault who d off v s
    | _ => rootFields who page a r v s

/-- The value half of a 64-bit register keeps under a 4 B write of the other: plain fields as they read, fields that act on a
1 as 0. -/
def State.mergeBase (s : State) (a : Nat) (r : RegDesc) : Nat :=
  r.fields.foldl (fun t f => if f.acc = .rw1c then setBits t f.lo f.n 0 else t) (r.shown (s.live a r))

/-- A half without the action field of these registers starts nothing: SCHED_LAUNCH_KILL and SCRUB_REPAIR_REQ (R53, R280). -/
def highIdle (a : Nat) : Bool :=
  decide (a < 0x40000000) && ((regType a == Blk.sched && regOff a == 0x918) || (regType a == Blk.scrub && regOff a == 0x128))

/-- A write of four bytes (R430, R433). -/
def writeWord (who : Who) (a v : Nat) (s : State) : Written :=
  match regAt a with
  | some r => writeReg who a r (w64 (if r.width = 64 then setBits (s.mergeBase a r) 0 32 v else v % 2 ^ 32)) s
  | none =>
    match regAt (a - 4) with
    | some r =>
      if 4 ≤ a ∧ r.width = 64 then
        if highIdle (a - 4) then rootOnly who written s
        else writeReg who (a - 4) r (w64 (setBits (s.mergeBase (a - 4) r) 32 32 v)) s
      else written s
    | none => written s

/-- A register write of 4 or 8 bytes: 8 B over two 32-bit registers act as two writes, the lower first; another size or
alignment is an error (R430). -/
def writeAt (who : Who) (a size : Nat) (v : Word) (s : State) : Written :=
  if !s.pageOk a || (size ≠ 4 && size ≠ 8) || a % size ≠ 0 then denied s
  else if who = .mgmt then denied s
  else if size = 4 then writeWord who a v.toNat s
  else
    match regAt a with
    | some r =>
      if r.width = 64 then writeReg who a r v s
      else
        let x := writeWord who a v.toNat s
        let y := writeWord who (a + 4) (v.toNat / 2 ^ 32) x.1
        (y.1, x.2 && y.2)
    | none =>
      let x := writeWord who a v.toNat s
      let y := writeWord who (a + 4) (v.toNat / 2 ^ 32) x.1
      (y.1, x.2 && y.2)

/-! ### The rows -/

/-- A register write that meets a stopped domain wakes it and waits (R34, R429, R432). -/
def State.registerWriteIn (s : State) (who : Who) (addr size : Nat) (value : Word) : State :=
  crossed who addr size value (writeAt who addr size value) s

/-- REGISTER_WRITE: outside the housekeeping domain nothing is written while the package is off. -/
def execRegisterWrite (who : Who) (addr size : Nat) (value : Word) (s : State) : Host.Outcome State Fault Refusal :=
  commit s (
    if s.isOff && !(decide (addr < 0x20000000) && hkPage (regType addr)) then s else s.registerWriteIn who addr size value)

/-- A page of a block that is present, named by its first address. -/
def State.pageHeader (s : State) (page : Nat) : Bool := s.pageOk page && page % 0x1000 == 0 && decide (page < 0x20000000)

/-- BLK_LOCK_WRITE (R435). -/
def execBlkLockWrite (who : Who) (page : Nat) (value : Word) (s : State) : Host.Outcome State Fault Refusal :=
  commit s (if s.pageHeader page then crossed who (page + 0x0C) 4 value (writeLock who page value) s else s)

/-- BLK_CTRL_FREEZE: BLK_CTRL written for its freeze (R435). -/
def execBlkCtrlFreeze (who : Who) (page : Nat) (value : Word) (s : State) : Host.Outcome State Fault Refusal :=
  commit s (
    if s.pageHeader page then
      crossed who (page + 0x10) 4 (w64 (value.toNat % 2)) (writeBlkCtrl who page (w64 (value.toNat % 2))) s
    else s)

/-- BLK_CTRL_CLEAR: BLK_CTRL written with clear (R435). -/
def execBlkCtrlClear (who : Who) (page : Nat) (value : Word) (s : State) : Host.Outcome State Fault Refusal :=
  commit s (
    if s.pageHeader page then
      crossed who (page + 0x10) 4 (w64 (value.toNat % 2 + 2)) (writeBlkCtrl who page (w64 (value.toNat % 2 + 2))) s
    else s)

/-- BLK_IRQ_CLEAR (R435, R436). -/
def execBlkIrqClear (who : Who) (page : Nat) (value : Word) (s : State) : Host.Outcome State Fault Refusal :=
  commit s (if s.pageHeader page then crossed who (page + 0x18) 4 value (writeIrqStatus who page value) s else s)

/-- The log of a die is full: 4,096 records that have not been passed over (R442). -/
def State.logFull (s : State) (d : Die) : Bool :=
  decide (4096 ≤ (s.fld (faultPage d + 0x100) 0 32 + 2 ^ 32 - s.fld (faultPage d + 0x104) 0 32) % 2 ^ 32)

/-- The record takes the place at the write pointer, which moves on. -/
def State.intoLog (s : State) (d : Die) (r : FaultRec) : State :=
  ({ s with faultLog := mset none s.faultLog (d.idx * 4096 + s.fld (faultPage d + 0x100) 0 32 % 4096) (some r) } : State).setReg
    (faultPage d + 0x100) (w64 ((s.fld (faultPage d + 0x100) 0 32 + 1) % 2 ^ 32))

/-- A page's records that have not reached the log, but for the oldest. -/
def State.recTaken (s : State) (page : Nat) (rest : List FaultRec) : State := { s with recQueue := mset [] s.recQueue page rest }

/-- One more record that takes the place of one not passed over. -/
def State.countDropped (s : State) (d : Die) (full : Bool) : State := if full then s.bump (faultPage d) 0x048 32 1 else s

/-- The log's flags: a record has been written, and one after which records were lost. -/
def State.flagLog (s : State) (d : Die) (r : FaultRec) : State :=
  if bit r.flags 5 then ((s.setFlag (faultPage d + 0x18) 1 true).setFlag (faultPage d + 0x18) 3 true).countSat (faultPage d + 0x40) 32 1
  else s.setFlag (faultPage d + 0x18) 1 true

/-- The management controller is told, where it has assigned an address. -/
def State.tellMgmt (s : State) : State := if s.host.i3cAddr.isSome then { s with out := s.out ++ [.i3cInterrupt] } else s

/-- FAULT_RECORD_WRITE: the oldest record a block has queued enters its die's log (R441). -/
def execFaultRecordWrite (page : Nat) (s : State) : Host.Outcome State Fault Refusal :=
  commit s (
    match mget [] s.recQueue page with
    | [] => s
    | r :: rest =>
      (State.irqEdge (faultPage (regDie page)) s
        ((((s.recTaken page rest).countDropped (regDie page) (s.logFull (regDie page))).intoLog (regDie page) r).flagLog
          (regDie page) r)).tellMgmt)

/-- FAULT_LOG_IDX_WRITE (R443). -/
def execFaultLogIdxWrite (who : Who) (die : Die) (value : Word) (s : State) : Host.Outcome State Fault Refusal :=
  commit s (writeLogIdx who die value s).1

/-- FAULT_LOG_RD_WRITE (R442). -/
def execFaultLogRdWrite (who : Who) (die : Die) (value : Word) (s : State) : Host.Outcome State Fault Refusal :=
  commit s (writeLogRd who die value s).1

end Sys2Proof.Machine
end

