-- ==== Sys2Proof/Machine/Access.lean ====
section
/-!
DEFINITION. The access-stream instructions (R85, R88 to R90): loads, stores, gathers, the multicast load (R117 to R120),
counters, queue moves, stack commands and layout descriptors; the answer of memory (R215 to R222, R288); the tile watchdog,
the queue deadlock and the hold of a stream (R70, R92, R96).
-/
namespace Sys2Proof.Machine

/-! ### An access at any local address -/

/-- The control page a window offset lies in, as Machine/Regs.lean keys it (R161). -/
def winCtl (n o : Nat) : Option Nat :=
  if 0x100000 ≤ o ∧ o < 0x110000 then some (0x40000000 + n * 0x100000 + (o - 0x100000)) else none

/-- The span lies whole in the record ring of one partition, which is the reader's or the reader is partition 0 (R161,
R345). -/
def winRing (part o len : Nat) : Bool :=
  decide (0x200000 ≤ o) && decide (o + len ≤ 0x1200000) && o / 0x100000 == (o + len - 1) / 0x100000 &&
    (part == 0 || o / 0x100000 == part + 2)

/-- A read of a local address of any kind: status and bytes; a register access that R430 and R431 do not allow gives status
2. `by_` is the requester (askedBy). -/
def State.spotRead (s : State) (who : Who) (by_ part : Nat) (pool : Bool) (a len : Nat) : State × Nat × List Byte :=
  let reg (o : Nat) : State × Nat × List Byte :=
    match s.readReg who o len with
    | some v => (s, 0, leBytes len v)
    | none => (s, 2, [])
  match locOf a with
  | .reg o => reg o
  | .win n o =>
    match winCtl n o with
    | some c => reg c
    | none => if winRing part o len && (s.stack n).trained then (s, 0, s.bytes a len) else (s, 2, [])
  | _ => s.homeReadPool by_ part pool a len

/-- A write of bytes at a local address of any kind. -/
def State.spotWrite (s : State) (who : Who) (part a : Nat) (b : List Byte) : State × Nat :=
  let reg (o : Nat) : State × Nat :=
    match writeAt who o b.length (w64 (leNat b)) s with
    | (t, true) => (t, 0)
    | (t, false) => (t, 2)
  match locOf a with
  | .reg o => reg o
  | .win n o =>
    match winCtl n o with
    | some c => reg c
    | none => (s, 2)
  | _ => s.homeWrite part a b

/-- Bytes that cross the bridge are counted on the die that sends them (R23). -/
def State.countFar (s : State) (src dst : Die) (n : Nat) : State :=
  if src = dst then s else s.bump (pg src Blk.bridge 0) 0x048 64 n

/-- The die an address lies on. -/
def spotDie (a : Nat) : Die :=
  match locOf a with
  | .reg o => regDie o
  | .win n _ => dieOf (n / 8)
  | _ => homeDie a

/-- An access waits: a controller is being initialised, or the core domain or the die it lies on is asleep (R34, R399). -/
inductive SpotWait where
  | go
  | held
  | wake (d : Die)
deriving DecidableEq, Repr

def State.spotWait (s : State) (a : Nat) : SpotWait :=
  if s.heldAt a then .held
  else match s.sleeps a with
    | some d => .wake d
    | none => .go

/-! ### Beginning a memory instruction -/

/-- rs + imm, 64 bits. -/
def mfAddr (x : Strand) (f : MF) : Nat := (x.sreg .access f.rs + f.imm).toNat

def mfReserved (f : MF) : Bool := [f.opS, f.opM, f.opX].any (fun y => selOf y == .reserved)

/-- The checks of a memory shape (R75, R77, R80): it must be a descriptor; its own reserved values; a sub-byte stride. -/
def Strand.shapeBad (x : Strand) (sel : Sel) : Option Nat :=
  match sel with
  | .desc n =>
    let d := descOf (x.dreg .access n)
    if d.reservedBad then some 0x02 else need (!d.subByteBad)
  | .reserved => some 0x02
  | _ => some 0x05

/-- The scratchpad checks of R78 for one operand: alignment of its base, then its span. -/
def padHalt (d : Desc) : Option (Nat × Option Nat) :=
  if d.base % 8 ≠ 0 then some (0x0B, some d.base)
  else if d.span.1 < 0 ∨ (spadBytes : Int) < d.span.2 then some (0x04, none)
  else none

/-- The runs of a shape at a virtual address: virtual address and element count. -/
def shapeRuns (d : Desc) (va : Nat) : List (Nat × Nat) := d.memRuns.map (fun r => (va64 ((va : Int) + r.1), r.2))

/-- How the runs of an instruction translate: its runs, or a halt with its virtual address. -/
def State.placeRuns (s : State) (i : Sid) (part : Nat) (perm : Perm) (w : Nat) :
    List (Nat × Nat) → State × ((Nat × Nat) ⊕ List Run)
  | [] => (s, .inr [])
  | (va, n) :: r =>
    match translateSpan (fun t v => t.coreTranslate i.die i.core part v perm) (granules va (runBytes n w)) s with
    | (t, .fault v) => (t, .inl (0x06, v))
    | (t, .bad v) => (t, .inl (0x08, v))
    | (t, .ok ps) =>
      match t.placeRuns i part perm w r with
      | (u, .inr l) => (u, .inr (⟨va, n, ps⟩ :: l))
      | y => y

/-- The first virtual address at which nothing is mapped (R27, R88). Registers and windows answer for themselves. -/
def State.unmapped (s : State) (part : Nat) (runs : List Run) : Option Nat :=
  (((runs.flatMap Run.placed).filter (fun e => s.isLocal e.2.1)).find? (fun e =>
    let a := gaLocal e.2.1
    match locOf a with
    | .reg o => !s.pageOk o
    | .win n o => !(s.stack n).trained || ((winCtl n o).isNone && !winRing part o e.2.2.1)
    | _ => s.homeBad part a e.2.2.1 == some 2)).map (·.1)

/-- GATHER rows a core has in flight: an instruction never has more than 256 at a time (R88). -/
def State.gatherRows (s : State) (i : Sid) : Nat :=
  (((List.range 8).filterMap (fun c => s.strand (strandKey i.die i.core c))).flatMap (fun x =>
    (x.inflight.filter (fun m => m.kind == .gather)).map (fun m => Nat.min m.value.toNat 256))).foldl (· + ·) 0

def Inflight.fresh (kind : MemKind) (runs : List Run) (writes : Bool) (dest : Dest) : Inflight :=
  { id := 0, kind := kind, runs := runs, writes := writes, dest := dest, err := none, remote := [], counter := none, value := 0,
    mcast := none, rest := none, got := [], byteOff := 0, place := 0, spans := [], performed := false }

/-- An earlier instruction of the stream that overlaps has not been performed (R221), or one that accesses the same bytes
through another page (R55, R219). -/
def Strand.behind (x : Strand) (m : Inflight) : Bool :=
  (x.inflight.takeWhile (fun y => y.id != m.id)).any (fun y =>
    y.vaSpans.any (fun a => m.vaSpans.any (spansMeet a)) || y.gaSpans.any (fun a => m.gaSpans.any (spansMeet a)))

/-- A write's data in the order of its bytes, and its bytes of uncorrectable words (R263). -/
def Inflight.data (m : Inflight) : List Byte × List Byte :=
  match m.rest with
  | some (d :: k :: _) => (d.bytes, k.bytes)
  | some (d :: []) => (d.bytes, [])
  | _ => ([], [])

/-- A span of a write cut at check units where it holds uncorrectable bytes: place, address, length, poisoned. -/
def writeSegs (ga place len : Nat) (mask : List Byte) : List (Nat × Nat × Nat × Bool) :=
  if (byteSlice mask place len).all (fun (b : Byte) => b == 0) then [(place, ga, len, false)]
  else
    let u := unitSize (gaLocal ga)
    (List.range ((ga % u + len + u - 1) / u)).map (fun k =>
      let lo := Nat.max ga (ga / u * u + k * u)
      let hi := Nat.min (ga + len) (ga / u * u + (k + 1) * u)
      (place + (lo - ga), lo, hi - lo, (byteSlice mask (place + (lo - ga)) (hi - lo)).any (fun (b : Byte) => b != 0)))

/-- The WRITE packets of a store: place, virtual address, global address, length, poisoned (R288). -/
def State.writeParts (s : State) (m : Inflight) : List (Nat × Nat × Nat × Nat × Bool) :=
  (m.placed.filter (fun e => !s.isLocal e.2.2.1)).flatMap (fun e =>
    (writeSegs e.2.2.1 e.1 e.2.2.2.1 m.data.2).flatMap (fun g =>
      (readChunks g.2.1 g.2.2.1).map (fun c => (g.1 + (c.1 - g.2.1), e.2.1, c.1, c.2, g.2.2.2))))

/-- Requests an instruction still has to send to other packages. -/
def State.remoteDue (s : State) (m : Inflight) : Nat :=
  match m.kind with
  | .ld => (s.remoteParts m).length
  | .gather => (s.remoteParts m).length
  | .sld => (s.remoteParts m).length
  | .st => (s.writeParts m).length
  | .sta => (s.writeParts m).length
  | .atadd => if (m.runs.flatMap (·.pieces)).all (fun p => s.isLocal p.1) then 0 else 1
  | _ => 0

/-- The packets of an instruction sent, once nothing earlier that it overlaps is outstanding and the die may track them
(R221, R288, R290). A write marks what it has sent. -/
def State.sendOut (s : State) (i : Sid) (x : Strand) (m : Inflight) : State × Inflight :=
  if x.behind m || decide (4096 < s.outstanding i.die + s.remoteDue m) then (s, m)
  else
    match m.kind with
    | .ld => s.sendReads i x.part m
    | .gather => s.sendReads i x.part m
    | .sld => s.sendReads i x.part m
    | .atadd =>
      match m.runs.flatMap (·.pieces) with
      | (ga, _, _) :: _ =>
        if s.isLocal ga || m.performed then (s, m)
        else
          let r := s.request i.die x.part 3 ga (m.runs.map (·.va)).headI 0 m.value [] false (.strand i m.id)
          (r.1, { m with performed := true, remote := if r.1.stillOut i.die r.2 then [r.2] else [],
                         err := if r.1.stillOut i.die r.2 then none else some (0x08, w64 (m.runs.map (·.va)).headI) })
      | [] => (s, m)
    | .st => sendWrites s
    | .sta => sendWrites s
    | _ => (s, m)
where
  sendWrites (s : State) : State × Inflight :=
    if m.byteOff ≠ 0 then (s, m)
    else
      (s.writeParts m).foldl (fun (acc : State × Inflight) e =>
        let r := acc.1.request i.die x.part 1 e.2.2.1 e.2.1 e.1 0 (byteSlice m.data.1 e.1 e.2.2.2.1) e.2.2.2.2 (.strand i m.id)
        if r.1.stillOut i.die r.2 then (r.1, { acc.2 with remote := acc.2.remote ++ [r.2] })
        else (r.1, { acc.2 with err := if acc.2.err.isNone then some (0x08, w64 e.2.1) else acc.2.err }))
        (s, { m with byteOff := 1 })

/-- The strand's record of an instruction in flight replaced. -/
def Strand.setInflight (x : Strand) (m : Inflight) : Strand :=
  { x with inflight := x.inflight.map (fun (y : Inflight) => if y.id = m.id then m else y) }

/-- An instruction begins: it stands in flight with the strand's next number, its packets leave, and a load of a pool page
looks its lines up (R88, R244, R288). With `holds` it holds its stream until it commits (R69, R92); otherwise the pc passes
it. -/
def State.beginMem (s : State) (i : Sid) (x : Strand) (m : Inflight) (holds : Bool) : State :=
  let m1 := { m with id := x.nextId, place := x.pc .access }
  let y : Strand := { x with nextId := x.nextId + 1, inflight := x.inflight ++ [m1] }
  let z := if holds then y.setProg .access (some ⟨[], [], true, []⟩) else y.advance .access
  let reads := m.kind == .ld || m.kind == .gather || m.kind == .sld
  let fetches := reads && (match s.mergeOf m with | some e => !e.asked | none => true)
  let s2 := (if fetches then s.askLines x.part m else s).setStrand i.key z
  let r := if reads && !fetches then (s2, m1) else s2.sendOut i z m1
  ((r.1.noteFetch r.2).setStrand i.key (z.setInflight r.2)).restatCore i.die i.core

/-- The limits of R88 and R290 let an instruction begin. -/
def State.memRoom (s : State) (i : Sid) (x : Strand) (m : Inflight) : Bool :=
  decide (x.inflight.length < 32) && decide (s.outstanding i.die + s.remoteDue m ≤ 4096) &&
    (m.kind != .gather || decide (s.gatherRows i + Nat.min m.value.toNat 256 ≤ 256))

/-! ### LD and GATHER -/

/-- The scratchpad runs of a destination: absolute address and element count, in element order. -/
def padRuns (i : Sid) (d : Desc) : List (Nat × Nat) :=
  d.pieces.map (fun p => (((spadBase i.die i.core : Int) + d.base + p.1).toNat, if d.packed then d.size 0 else 1))

/-- What a multicast load meets at the die's multicast unit (R117 to R120). -/
inductive McRole where
  | opens (id : Nat)
  | joins (id : Nat)
  | solo
  | mismatch
deriving DecidableEq, Repr

/-- Bytes of a partition's open entries on a die. -/
def State.mcastUsed (s : State) (d : Die) (part : Nat) : Nat :=
  ((s.mcast.filter (fun e => e.die == d && e.part == part && !e.freed)).map (·.bytes)).foldl (· + ·) 0

def State.mcRole (s : State) (i : Sid) (x : Strand) (tag membersM1 ga : Nat) (shape : DescWord) (bytes : Nat) : McRole :=
  let k := mget 0 x.mcastCount tag
  match s.mcast.find? (fun e => e.die == i.die && e.launch == x.launch && e.tag == tag && e.k == k) with
  | some e =>
    if e.freed then .solo
    else if e.ga = ga ∧ { descOf e.shape with base := 0 } = { descOf shape with base := 0 } ∧ e.membersM1 = membersM1 then .joins e.id
    else .mismatch
  | none =>
    let open_ := (s.mcast.filter (fun e => e.die == i.die && !e.freed)).length
    if 32 ≤ open_ ∨ s.fld (schedPage i.die + 0xB08) (4 * x.part) 4 * 0x40000 < s.mcastUsed i.die x.part + bytes then .solo
    else .opens s.nextMcast

/-- A multicast load takes its place: it opens its entry, joins it, or is served as an ordinary load, which is counted. -/
def State.takeRole (s : State) (i : Sid) (x : Strand) (role : McRole) (tag membersM1 ga : Nat) (shape : DescWord) (bytes : Nat) :
    State :=
  let page := s.corePage i.die i.core
  match role with
  | .opens id =>
    { s with
      nextMcast := id + 1
      mcast := s.mcast ++ [(⟨id, i.die, x.launch, tag, mget 0 x.mcastCount tag, membersM1, ga, shape, x.part, bytes, none, [i.key], [], 0,
        false, i.key, false, [], [], none, false⟩ : McastEntry)] }
  | .joins id => { s with mcast := s.mcast.map (fun e => if e.id = id then { e with joined := e.joined ++ [i.key] } else e) }
  | .solo => s.bump page 0x05C 32 1
  | .mismatch => s

def McRole.entry : McRole → Option Nat
  | .opens id => some id
  | .joins id => some id
  | _ => none

/-- A load's operands settled: it waits for room, or begins (R68, R69, R72, R88, R117). `rows` lists virtual addresses and
element counts; `mc` is the multicast word of an LD whose rt is not s0. -/
def startLoad (i : Sid) (kind : MemKind) (opS : Sel) (shapeN : Nat) (rows : List (Nat × Nat)) (nrows : Nat) (extra : List (Int × Int))
    (mc : Option Nat) (x : Strand) (s : State) : State :=
  let shape := x.dreg .access shapeN
  let w := (descOf shape).width
  match s.placeRuns i x.part .r w rows with
  | (t, .inl (r, va)) => t.haltStrand i r va
  | (t, .inr runs) =>
    match t.unmapped x.part runs with
    | some va => t.haltStrand i 0x07 va
    | none =>
      let bytes := (runs.map (fun r => (r.pieces.map (fun p => p.2.1)).foldl (· + ·) 0)).foldl (· + ·) 0
      let d := x.descAt .access opS
      let dest : Dest := match opS, d with
        | .queue q, _ => .queue q w
        | _, some d => .spad (padRuns i d) w
        | _, _ => .none
      let spans := (extra.map (fun e => (e.1, e.2, false))) ++ (match d with | some d => [(d.span.1, d.span.2, true)] | none => [])
      let m := { Inflight.fresh kind runs false dest with spans := spans, value := if kind = .gather then w64 nrows else 0 }
      let full := match opS with | .queue q => decide (32 ≤ (x.queue q).length) | _ => false
      if spans.any (fun e => x.spanBusy .access (e.1, e.2.1) e.2.2) || !t.memRoom i x m then t.waitOn i .access .other
      else if full then t.waitOn i .access (match opS with | .queue q => .queue q | _ => .other)
      else
        match mc with
        | none => t.beginMem i x m (match opS with | .queue _ => true | _ => false)
        | some v =>
          let tag := v % 2 ^ 16
          let mm := bits v 16 4
          let ga := ((runs.flatMap (·.pieces)).map (·.1)).headI
          let role := t.mcRole i x tag mm ga shape bytes
          if role = .mismatch then t.halt i .access 0x05
          else
            let x1 := { x with mcastCount := mset 0 x.mcastCount tag (mget 0 x.mcastCount tag + 1) }
            (t.takeRole i x role tag mm ga shape bytes).beginMem i x1 { m with mcast := role.entry } true

/-- LD: op_s ← memory at rs + imm in the shape of op_m (R77, R85, R88, R117). -/
def ldBody (i : Sid) (f : MF) (x : Strand) (t : State) : State :=
  let rt := x.sreg .access f.rt
  let isMc := f.rt != 0
  let intoDesc := match selOf f.opS with | .desc _ => true | _ => false
  let halt := firstHalt [reserved (mfReserved f), x.selBad .access true (selOf f.opS), x.shapeBad (selOf f.opM),
    reserved (isMc && intoDesc)]
  match halt with
  | some r => t.halt i .access r
  | none =>
    if x.isBusy .access [f.rs, f.rt] then t.waitOn i .access .other
    else if isMc && decide (2 ^ 20 ≤ rt.toNat) then t.halt i .access 0x02
    else
      match selOf f.opM with
      | .desc n =>
        let m := descOf (x.dreg .access n)
        let d := x.descAt .access (selOf f.opS)
        let va := mfAddr x f
        let rows := shapeRuns m va
        match firstHalt [need (match d with | some d => d.esize == m.esize && d.elems == m.elems | none => true)] with
        | some r => t.halt i .access r
        | none =>
          match d.bind padHalt with
          | some (r, a) => t.haltWith i .access r a
          | none =>
            if va % runBytes 1 m.width ≠ 0 then t.haltStrand i 0x0B va
            else startLoad i .ld (selOf f.opS) n rows 1 [] (if isMc then some rt.toNat else none) x t
      | _ => t.halt i .access 0x05

def execLd (i : Sid) (str : Stream) (f : MF) (s : State) : Host.Outcome State Fault Refusal :=
  commit s (issue i str (some .access) (ldBody i f) s)

/-- GATHER: row k of op_s ← one row of shape op_m at rs + imm + idx[k] × s[rt] (R85, R88). -/
def gatherBody (i : Sid) (f : MF) (x : Strand) (t : State) : State :=
  let halt := firstHalt [reserved (mfReserved f), x.selBad .access true (selOf f.opS), x.shapeBad (selOf f.opM),
    x.selBad .access false (selOf f.opX), need (match selOf f.opX with | .desc _ => true | _ => false)]
  match halt with
  | some r => t.halt i .access r
  | none =>
    if x.isBusy .access [f.rs, f.rt] then t.waitOn i .access .other
    else
      match selOf f.opM, x.descAt .access (selOf f.opX) with
      | .desc n, some ix =>
        let m := descOf (x.dreg .access n)
        let d := x.descAt .access (selOf f.opS)
        let nrows := ix.elems
        let pads := (match d with | some d => [d] | none => []) ++ [ix]
        let meets := match d with | some d => spansMeet d.span ix.span | none => false
        match firstHalt [need (ix.esize == 4),
            need (match d with | some d => d.esize == m.esize && d.elems == nrows * m.elems | none => true)] with
        | some r => t.halt i .access r
        | none =>
          match (pads.filterMap padHalt).head? with
          | some (r, a) => t.haltWith i .access r a
          | none =>
            if meets then t.halt i .access 0x03
            else if x.spanBusy .access ix.span false then t.waitOn i .access .other
            else
              match t.demandOperand x.part (spadBase i.die i.core) ix with
              | (u, some b) => u.haltStrand i 0x08 (b - spadBase i.die i.core)
              | (u, none) =>
                let idx := u.operandElems (spadBase i.die i.core) ix
                let starts := idx.map (fun k => va64 ((mfAddr x f : Int) + signed k 32 * (x.sreg .access f.rt).toInt))
                match starts.find? (fun a => a % runBytes 1 m.width ≠ 0) with
                | some a => u.haltStrand i 0x0B a
                | none => startLoad i .gather (selOf f.opS) n (starts.flatMap (shapeRuns m)) nrows [ix.span] none x u
      | _, _ => t.halt i .access 0x05

def execGather (i : Sid) (str : Stream) (f : MF) (s : State) : Host.Outcome State Fault Refusal :=
  commit s (issue i str (some .access) (gatherBody i f) s)

/-! ### ST and STA -/

/-- The data of a store in the order of its memory runs, from its elements: `rows` gives each run's elements. -/
def runData (w : Nat) : List (Nat × Nat) → List Nat → List Byte
  | [], _ => []
  | (_, n) :: r, l => packRun w (l.take n) ++ runData w r (l.drop n)

/-- The same for a mask of bad elements: every byte that holds a bit of one. -/
def runMask (w : Nat) : List (Nat × Nat) → List Bool → List Byte
  | [], _ => []
  | (_, n) :: r, l =>
    packRun w ((l.take n).map (fun b => if b then 2 ^ w - 1 else 0)) ++ runMask w r (l.drop n)

/-- The elements of a scratchpad source with which of them lie in an uncorrectable word (R74, R263), and the reads' effects;
the first bad address. -/
def State.storeElems (s : State) (i : Sid) (part : Nat) (d : Desc) : State × List Nat × List Bool × Option Nat :=
  let base := spadBase i.die i.core
  let n := if d.packed then d.size 0 else 1
  d.pieces.foldl (fun (acc : State × List Nat × List Bool × Option Nat) p =>
    let a := ((base : Int) + d.base + p.1).toNat
    let r := acc.1.demand 1 (some part) a p.2
    let marks := match r.2 with
      | none => List.replicate n false
      | some _ => (List.range n).map (fun e =>
          (s.badUnits (a + e * d.width / 8) ((e * d.width % 8 + d.width + 7) / 8)).any (fun y => y.2.bad))
    (r.1, acc.2.1 ++ unpackRun d.width n (r.1.bytes a p.2), acc.2.2.1 ++ marks, acc.2.2.2.or r.2)) (s, [], [], none)

/-- A store's operands settled and its counter in order: it waits for room, or begins with its data (R72, R88, R93,
R263). A store or STA that is still popping a queue is parked as bound to it, since nothing of it has left the core yet
(R93, R94; DEDUCED, log 97). -/
def startStore (i : Sid) (kind : MemKind) (f : MF) (m : Desc) (runs : List Run) (rows : List (Nat × Nat)) (counter : Option (Nat × Nat))
    (x : Strand) (t : State) : State :=
  let base := { Inflight.fresh kind runs true .none with counter := counter, value := w64 ((counter.map (·.1)).getD 0) }
  match selOf f.opS with
  | .desc n =>
    let d := descOf (x.dreg .access n)
    let sp := d.span
    if x.spanBusy .access sp false || !t.memRoom i x base then t.waitOn i .access .other
    else
      let r := t.storeElems i x.part d
      let data := runData m.width rows r.2.1
      let mask := runMask m.width rows r.2.2.1
      let rest : List QEntry := match r.2.2.2 with | none => [⟨data, false⟩] | some _ => [⟨data, false⟩, ⟨mask, false⟩]
      let err : Option (Nat × Word) := r.2.2.2.map (fun b => (0x08, w64 (b - spadBase i.die i.core)))
      r.1.beginMem i x { base with spans := [(sp.1, sp.2, false)], rest := some rest, err := err } false
  | .queue q =>
    let need_ := (rows.map (fun r => runBytes r.2 m.width)).foldl (· + ·) 0
    let p0 := (x.prog .access).getD ⟨[], [], false, []⟩
    if (x.prog .access).isNone && (x.queue q).isEmpty then t.waitOn i .access (.queue q)
    else if (x.prog .access).isNone && !t.memRoom i x base then t.waitOn i .access .other
    else
      let r := popNeeds [(0, q, need_)] x p0
      if r.2.2 then ((t.setStrand i.key r.1).raise (t.corePage i.die i.core) 0x0301 (some x.part) 0 1 false true).haltStrand i 0x08 0
      else if (r.2.1.have 0).length / 256 < entriesOf need_ then
        (t.setStrand i.key (r.1.setProg .access (some r.2.1))).waitOn i .access (.queue q)
      else
        let raw := r.2.1.have 0
        let els := (rows.foldl (fun (acc : List Nat × List Byte) e =>
          let n := runBytes e.2 m.width
          (acc.1 ++ unpackRun m.width e.2 (acc.2.take n), acc.2.drop n)) ([], raw)).1
        t.beginMem i r.1 { base with rest := some [⟨runData m.width rows els, false⟩] } true
  | _ => t.halt i .access 0x05

/-- Why the counter of an STA may not lie where it does: it must lie in the package its data goes to (`mods`), in a
location that holds something (R89). A register page or window of the right package halts with 0x07, since R89 speaks of
memory only (DEDUCED, log 94). -/
def State.staCounterBad (s : State) (part ga : Nat) (mods : List Nat) : Option Nat :=
  if mods.any (fun m => m != gaModule ga) then some 0x12
  else if !s.isLocal ga then none
  else if s.lostAt (gaLocal ga) then some 0x08
  else if !s.holds (gaLocal ga) 8 || !s.admits part (gaLocal ga) then some 0x07
  else none

/-- ST and STA up to their data. -/
def storeBody (i : Sid) (kind : MemKind) (f : MF) (x : Strand) (t : State) : State :=
  let halt := firstHalt [reserved (mfReserved f), x.selBad .access false (selOf f.opS), x.shapeBad (selOf f.opM)]
  match halt with
  | some r => t.halt i .access r
  | none =>
    if x.isBusy .access [f.rs, f.rt] then t.waitOn i .access .other
    else
      match selOf f.opM with
      | .desc n =>
        let m := descOf (x.dreg .access n)
        let d := x.descAt .access (selOf f.opS)
        let va := mfAddr x f
        let cva := (x.sreg .access f.rt).toNat
        let rows := shapeRuns m va
        match firstHalt [need (match d with | some d => d.esize == m.esize && d.elems == m.elems | none => true),
            need (!m.repeats)] with
        | some r => t.halt i .access r
        | none =>
          match d.bind padHalt with
          | some (r, a) => t.haltWith i .access r a
          | none =>
            if va % runBytes 1 m.width ≠ 0 then t.haltStrand i 0x0B va
            else if kind = .sta ∧ cva % 8 ≠ 0 then t.haltStrand i 0x0B cva
            else
                match t.placeRuns i x.part .w m.width rows with
                | (u, .inl (r, v)) => u.haltStrand i r v
                | (u, .inr runs) =>
                  match u.unmapped x.part runs with
                  | some v => u.haltStrand i 0x07 v
                  | none =>
                    if kind ≠ .sta then startStore i kind f m runs rows none x u
                    else
                      match u.coreTranslate i.die i.core x.part cva .w with
                      | (v, .fault) => v.haltStrand i 0x06 cva
                      | (v, .bad) => v.haltStrand i 0x08 cva
                      | (v, .ok cga _) =>
                        match v.staCounterBad x.part cga ((runs.flatMap (·.pieces)).map (fun p => gaModule p.1)) with
                        | some r => v.haltStrand i r cva
                        | none => startStore i kind f m runs rows (some (cva, cga)) x v
      | _ => t.halt i .access 0x05

/-- ST: memory at rs + imm in the shape of op_m ← op_s (R85). -/
def execSt (i : Sid) (str : Stream) (f : MF) (s : State) : Host.Outcome State Fault Refusal :=
  commit s (issue i str (some .access) (storeBody i .st f) s)

/-- STA: as ST, and 1 added to the arrival counter at s[rt] once the data is visible (R85, R89). -/
def execSta (i : Sid) (str : Stream) (f : MF) (s : State) : Host.Outcome State Fault Refusal :=
  commit s (issue i str (some .access) (storeBody i .sta f) s)

/-! ### ATADD and SLD -/

/-- An SLD, or an ATADD with its addend, as it stands in flight. -/
def wordFlight (kind : MemKind) (runs : List Run) (f : SF) (a : Word) : Inflight :=
  { Inflight.fresh kind runs (kind == .atadd) (.scalar f.rd.toNat) with value := if kind = .atadd then a else 0 }

/-- A scalar register of the access stream awaits memory's answer (R72). -/
def Strand.awaits (x : Strand) (rd : BitVec 4) : Strand := if rd = 0 then x else { x with busy := x.busy ++ [rd.toNat] }

/-- A doubleword translated for a load, and for a store too where it is an ATADD's (R85). -/
def State.placeWord (s : State) (i : Sid) (part va : Nat) (kind : MemKind) : State × ((Nat × Nat) ⊕ List Run) :=
  match s.placeRuns i part .r 64 [(va, 1)] with
  | (u, .inr runs) => if kind = .atadd then u.placeRuns i part .w 64 [(va, 1)] else (u, .inr runs)
  | y => y

/-- A doubleword access at rs1 + imm that leaves its stream and writes rd when memory answers (R72, R85, R88). -/
def wordBody (i : Sid) (kind : MemKind) (f : SF) (rs : List (BitVec 4)) (x : Strand) (t : State) : State :=
  let va := (x.sreg .access f.rs1 + f.imm).toNat
  if x.isBusy .access (f.rd :: f.rs1 :: rs) then t.waitOn i .access .other
  else if va % 8 ≠ 0 then t.haltStrand i 0x0B va
  else
    match t.placeWord i x.part va kind with
    | (u, .inl (h, v)) => u.haltStrand i h v
    | (u, .inr runs) =>
      match u.unmapped x.part runs with
      | some v => u.haltStrand i 0x07 v
      | none =>
        let m := wordFlight kind runs f (x.sreg .access f.rs2)
        if !u.memRoom i x m then u.waitOn i .access .other
        else u.beginMem i (x.awaits f.rd) m false

/-- ATADD: rd ← the 64-bit value at rs1 + imm, which is increased by rs2 in one access (R85, R218). -/
def execAtadd (i : Sid) (str : Stream) (f : SF) (s : State) : Host.Outcome State Fault Refusal :=
  commit s (issue i str (some .access) (wordBody i .atadd f [f.rs2]) s)

/-- SLD: rd ← the 8 B at virtual address rs1 + imm. -/
def execSld (i : Sid) (str : Stream) (f : SF) (s : State) : Host.Outcome State Fault Refusal :=
  commit s (issue i str (some .access) (wordBody i .sld f []) s)

/-! ### QPUSH and QPOP -/

/-- The scratchpad side of a queue move, or the halt. -/
def Strand.moveHalt (x : Strand) (f : MF) (push : Bool) : Option (Nat × Option Nat) :=
  let halt := firstHalt [reserved (mfReserved f), x.selBad .access (!push) (selOf f.opS),
    need (match selOf f.opS with | .desc _ => true | _ => false),
    (match selOf f.opM with | .queue _ => x.selBad .access push (selOf f.opM) | _ => some 0x05)]
  match halt with
  | some r => some (r, none)
  | none => (x.descAt .access (selOf f.opS)).bind padHalt

def moveBody (i : Sid) (f : MF) (push : Bool) (x : Strand) (t : State) : State :=
  match x.moveHalt f push with
  | some (r, a) => t.haltWith i .access r a
  | none =>
    match x.descAt .access (selOf f.opS), selOf f.opM with
    | some d, .queue q =>
      let base := spadBase i.die i.core
      let bytes := runBytes (d.size 0) d.width * d.rows
      if x.spanBusy .access d.span (!push) || (push && x.padBehind x.nextId) then t.waitOn i .access .other
      else if push then
        queueRun i .access [] (some q) (fun _ _ _ u =>
          match u.demandOperand x.part base d with
          | (v, some b) => .halt v 0x08 (some (b - base))
          | (v, none) => .ok v ((toEntries (queueBytes d.width (d.size 0) (v.operandElems base d))).map (fun e => (q, e))) []) x t
      else
        queueRun i .access [(0, q, bytes)] none (fun all popped made u =>
          let l := unqueue d.width (d.size 0) d.rows (popped 0)
          let n := if all then l.length else queueElems d.width (d.size 0) (popped 0).length
          .ok (if all && made.isEmpty then u.putOperand base d l else u.putRest base d (made.headD 0) (l.take n)) [] [n]) x t
    | _, _ => t.halt i .access 0x05

/-- QPUSH: AQ (op_m) ← scratchpad operand op_s. -/
def execQpush (i : Sid) (str : Stream) (f : MF) (s : State) : Host.Outcome State Fault Refusal :=
  commit s (issue i str (some .access) (moveBody i f true) s)

/-- QPOP: scratchpad operand op_s ← EQ (op_m). -/
def execQpop (i : Sid) (str : Stream) (f : MF) (s : State) : Host.Outcome State Fault Refusal :=
  commit s (issue i str (some .access) (moveBody i f false) s)

/-! ### SCMD and SFENCE -/

/-- Where an SCMD goes: the stack of its port, or the halt of R90. -/
def State.portOf (s : State) (part ga : Nat) : Nat ⊕ Nat :=
  if !s.isLocal ga then .inr 0x0E
  else
    match locOf (gaLocal ga) with
    | .win n o => if !(s.stack n).trained then .inr 0x07 else if o = part * 0x10000 then .inl n else .inr 0x0E
    | .hole => .inr 0x07
    | .reg o => .inr (if s.pageOk o then 0x0E else 0x07)
    | _ => .inr (if s.homeBad part (gaLocal ga) 1 = some 2 then 0x07 else 0x0E)

/-- The done counter of a command translated and checked as a WAITC counter's is (R163): its local address, or a halt. -/
def State.doneOf (s : State) (i : Sid) (part va : Nat) : State × (Nat ⊕ Nat) :=
  if va % 8 ≠ 0 then (s, .inr 0x0B)
  else
    match s.coreTranslate i.die i.core part va .w with
    | (t, .fault) => (t, .inr 0x06)
    | (t, .bad) => (t, .inr 0x08)
    | (t, .ok ga _) =>
      match t.counterBad part ga with
      | some r => (t, .inr r)
      | none => (t, .inl (gaLocal ga))

/-- The bytes of a command as they reach the window (R163). -/
def cmdBytes (i : Sid) (part : Nat) (b : List Byte) (done basin : Nat) : List Byte :=
  overlay (overlay (overlay (overlay b 0x08 (leBytes 8 done)) 0x10 (leBytes 4 basin)) 0x14 (leBytes 1 part)) 0x16
    (leBytes 2 (i.core + i.die.idx * 128))

/-- The basin field of R206. -/
def basinField (g : OpenGroup) (member : Nat) : Nat :=
  g.handle + g.gen * 2 ^ 10 + g.home.idx * 2 ^ 16 + member * 2 ^ 17 + g.membersM1 * 2 ^ 21

/-- How an ATTEND finds its group (R207, R208): the strand, with the group named in the field and the member's index; a halt;
or a wait for slots. -/
inductive Joined where
  | ok (s : State) (x : Strand) (field : Nat)
  | halt (s : State)
  | wait (s : State)

/-- A member of a group is written to the window: the Basin counts it as issued; the last closes the group. -/
def State.issueMember (s : State) (x : Strand) (g : OpenGroup) (n : Nat) : State × Strand :=
  let g1 := { g with named := g.named ++ [n] }
  let rest := x.groups.filter (fun y => y.key != g.key)
  let y : Strand := { x with groups := if g1.named.length = g.membersM1 + 1 then rest else rest ++ [g1] }
  match (s.basin.get g.home).group g.handle g.gen with
  | some r => (s.setGroup g.home { r with issued := r.issued + 1 }, y)
  | none => (s, y)

def joinGroup (i : Sid) (x : Strand) (n : Nat) (b : List Byte) (s : State) : Joined :=
  let p := cPattern b
  match x.groups.find? (fun g => g.key == p.key) with
  | some g =>
    if g.q = cQ b ∧ g.dim = cDim b ∧ g.vfmt = cVfmt b ∧ g.dstSpa = cDstSpa b ∧ g.membersM1 = p.membersM1 ∧ !g.named.contains n then
      let r := s.issueMember x g n
      .ok r.1 r.2 (basinField g g.named.length)
    else .halt s
  | none =>
    if 4 ≤ x.groups.length then .halt s
    else
      let slots := if p.mode = 2 then 1 else cQ b
      let bs := s.basin.get i.die
      if s.canReserve i.die x.part slots && bs.first x.part (some i.key) then
        let s1 := s.dropWaits i.key
        let r := s1.reserve i.die (Group.fresh x.part slots p.membersM1 i.die i.core (cDstSpa b) (cDim b) (p.mode == 2) (some i.key))
        let g : OpenGroup := ⟨p.key, r.2.handle, r.2.gen, i.die, cQ b, cDim b, cVfmt b, cDstSpa b, p.membersM1, []⟩
        let y := r.1.issueMember x g n
        .ok y.1 y.2 (basinField g 0)
      else if bs.waits.any (fun w => w.strand == some i.key) then .wait s
      else .wait (s.waitReserve i.die ⟨x.part, slots, some i.key, p.membersM1, i.core, cDstSpa b, none⟩)

/-- The command write leaves for its port; at a full queue the SCMD holds its stream (R162). -/
def State.writeCmd (s : State) (i : Sid) (x : Strand) (n va : Nat) (b : List Byte) (sp : Int × Int) : State :=
  let m := { Inflight.fresh .scmd [] true .none with
    id := x.nextId, place := x.pc .access, value := w64 va, spans := [(sp.1, sp.2, false)] }
  let y : Strand := { x with nextId := x.nextId + 1, inflight := x.inflight ++ [m] }
  let s1 := s.arrivePort n ⟨x.part, b, some (i.key, x.launch), va, m.id, false⟩
  let s2 := s1.countFar i.die (dieOf (n / 8)) b.length
  let waits := match (s2.stack n).port.getLast? with | some w => !w.admitted | none => false
  let z := if waits then y.setProg .access (some ⟨[], [], true, []⟩) else y.advance .access
  (s2.setStrand i.key z).restatCore i.die i.core

/-- SCMD (R85, R90, R162, R163, R207). -/
def scmdBody (i : Sid) (f : MF) (x : Strand) (t : State) : State :=
  let halt := firstHalt [reserved (mfReserved f), x.selBad .access false (selOf f.opS),
    need (match selOf f.opS with | .desc _ => true | _ => false)]
  match halt, x.descAt .access (selOf f.opS) with
  | some r, _ => t.halt i .access r
  | none, none => t.halt i .access 0x05
  | none, some d =>
    match padHalt d with
    | some (r, a) => t.haltWith i .access r a
    | none =>
      let va := mfAddr x f
      if x.isBusy .access [f.rs] || x.spanBusy .access d.span false then t.waitOn i .access .other
      else
        match t.coreTranslate i.die i.core x.part va .w with
        | (u, .fault) => u.haltStrand i 0x06 va
        | (u, .bad) => u.haltStrand i 0x08 va
        | (u, .ok ga _) =>
          match u.portOf x.part ga with
          | .inr r => if r = 0x07 then u.haltStrand i 0x07 va else u.halt i .access 0x0E
          | .inl n =>
            if 32 ≤ x.inflight.length then u.waitOn i .access .other
            else
              match u.demandOperand x.part (spadBase i.die i.core) d with
              | (v, some b) => v.haltStrand i 0x08 (b - spadBase i.die i.core)
              | (v, none) =>
                let b := queueBytes d.width (d.size 0) (v.operandElems (spadBase i.die i.core) d)
                let dva := cDonePa b
                let r := if bit (cFlags b) 1 then v.doneOf i x.part dva else (v, .inl dva)
                match r with
                | (w, .inr h) => w.haltStrand i h dva
                | (w, .inl done) =>
                  if cOpcode b ≠ 1 then w.writeCmd i x n va (cmdBytes i x.part b done 0) d.span
                  else if cQ b = 0 ∨ 8 < cQ b ∨ !w.modeOk n b then (w.bump (stackPage n) 0x048 32 1).halt i .access 0x0E
                  else
                    match joinGroup i x n b w with
                    | .halt y => y.halt i .access 0x0E
                    | .wait y => y.waitOn i .access .other
                    | .ok y x1 field => y.writeCmd i x1 n va (cmdBytes i x.part b done field) d.span

def execScmd (i : Sid) (str : Stream) (f : MF) (s : State) : Host.Outcome State Fault Refusal :=
  commit s (issue i str (some .access) (scmdBody i f) s)

/-- SFENCE: waits until every earlier SCMD of the strand has completed; one that completed with status 2 or 3 halts the
strand with 0x08 (R85, R183). -/
def execSfence (i : Sid) (str : Stream) (_f : SF) (s : State) : Host.Outcome State Fault Refusal :=
  commit s (issue i str (some .access) (fun x t =>
    if !x.cmds.isEmpty || x.inflight.any (fun m => m.kind == .scmd) then t.waitOn i .access (.fence true)
    else
      match x.badCmd with
      | some va => (t.setStrand i.key { x with badCmd := none }).haltStrand i 0x08 va
      | none => t.commitStrand i .access x) s)

/-! ### LXSUB (R137) -/

/-- status_va translated: its local address, or a halt. -/
def State.statusOf (s : State) (i : Sid) (part va : Nat) : State × (Nat ⊕ Nat) :=
  match s.coreTranslate i.die i.core part va .w with
  | (t, .fault) => (t, .inr 0x06)
  | (t, .bad) => (t, .inr 0x08)
  | (t, .ok ga _) =>
    if !t.isLocal ga || t.homeBad part (gaLocal ga) 1 == some 2 then (t, .inr 0x07) else (t, .inl (gaLocal ga))

def lxsubBody (i : Sid) (f : MF) (x : Strand) (t : State) : State :=
  let d0 := x.descAt .access (selOf f.opS)
  let halt := firstHalt [reserved (mfReserved f), x.selBad .access false (selOf f.opS),
    need (match d0 with | some d => d.ndim == 1 && d.size 0 == 256 && d.esize == 2 | none => false)]
  match halt, d0 with
  | some r, _ => t.halt i .access r
  | none, none => t.halt i .access 0x05
  | none, some d =>
    match padHalt d with
    | some (r, a) => t.haltWith i .access r a
    | none =>
      if x.spanBusy .access d.span false then t.waitOn i .access .other
      else
        match t.demandOperand x.part (spadBase i.die i.core) d with
        | (u, some b) => u.haltStrand i 0x08 (b - spadBase i.die i.core)
        | (u, none) =>
          let b := queueBytes 8 256 (u.operandElems (spadBase i.die i.core) d)
          let sva := leAt b 0xC8 8
          let dva := leAt b 0xC0 8
          if sva % 32 ≠ 0 then u.haltStrand i 0x0B sva
          else
            match u.statusOf i x.part sva with
            | (v, .inr h) => v.haltStrand i h sva
            | (v, .inl spa) =>
              match (if dva = 0 then (v, Sum.inl 0) else v.doneOf i x.part dva) with
              | (w, .inr h) => w.haltStrand i h dva
              | (w, .inl dpa) =>
                if !w.layRoom i.die x.part || decide (32 ≤ x.inflight.length) then w.waitOn i .access .other
                else
                  let e : LayoutDesc := ⟨b, x.part, spa, if dva = 0 then none else some dpa, false, 0, 0, [], none, none, false⟩
                  (w.setLayQueue i.die (w.layQueue i.die ++ [e])).commitStrand i .access x

/-- LXSUB: the 256 B descriptor op_s is queued at the die's layout engine. -/
def execLxsub (i : Sid) (str : Stream) (f : MF) (s : State) : Host.Outcome State Fault Refusal :=
  commit s (issue i str (some .access) (lxsubBody i f) s)

/-! ### The answer of memory (R222) -/

/-- What a status of R287 is to a core. -/
def statusHalt (st : Nat) : Nat := if st = 2 then 0x07 else 0x08

/-- The local pieces of an instruction, with place and virtual address. -/
def State.localParts (s : State) (m : Inflight) : List (Nat × Nat × (Nat × Nat × Bool)) :=
  m.placed.filter (fun e => s.isLocal e.2.2.1)

/-- The first local piece that must wait, and for what. -/
def State.mustWait (s : State) (m : Inflight) : SpotWait :=
  ((s.localParts m).map (fun e => s.spotWait (gaLocal e.2.2.1))).find? (fun w => w != .go) |>.getD .go

/-- The bytes a load reads, in order: its local pieces now, its remote ones from their answers. The first error met stands
with its virtual address. -/
def State.gatherBytes (s : State) (i : Sid) (part : Nat) (m : Inflight) : State × Option (Nat × Nat) × List Byte :=
  m.placed.foldl (fun (acc : State × Option (Nat × Nat) × List Byte) e =>
    match acc.2.1 with
    | some _ => acc
    | none =>
      let ga := e.2.2.1
      if acc.1.isLocal ga then
        match acc.1.spotRead (.strand part) (askedBy (acc.1.corePage i.die i.core) 0) part e.2.2.2.2 (gaLocal ga) e.2.2.2.1 with
        | (t, 0, b) => (t.countFar (spotDie (gaLocal ga)) i.die e.2.2.2.1, none, acc.2.2 ++ b)
        | (t, st, _) => (t, some (statusHalt st, e.2.1), acc.2.2)
      else
        let b := (readChunks ga e.2.2.2.1).flatMap (fun c =>
          match m.got.find? (fun g => g.1 == e.1 + (c.1 - ga)) with
          | some g => byteSlice g.2 (c.1 % 4) c.2
          | none => List.replicate c.2 0)
        (acc.1, none, acc.2.2 ++ b)) (s, none, [])

/-- The elements of a load from its bytes. -/
def loadElems (w : Nat) : List Run → List Byte → List Nat
  | [], _ => []
  | r :: rest, b => unpackRun w r.elems (b.take (runBytes r.elems w)) ++ loadElems w rest (b.drop (runBytes r.elems w))

/-- The bytes of a load as a data queue carries them (R131). -/
def loadQueue (w : Nat) : List Run → List Byte → List Byte
  | [], _ => []
  | r :: rest, b => packRun w (unpackRun w r.elems (b.take (runBytes r.elems w))) ++ loadQueue w rest (b.drop (runBytes r.elems w))

/-- Elements placed in the runs of a scratchpad destination. -/
def placePad (w : Nat) : List (Nat × Nat) → List Nat → State → State
  | [], _, s => s
  | (a, n) :: r, l, s => placePad w r (l.drop n) (s.storeBytes a (packRun w (l.take n)))

/-- An instruction in flight completes; with `f` its strand's registers change. One that held its stream commits. -/
def State.endMem (s : State) (i : Sid) (m : Inflight) (f : Strand → Strand) : State :=
  match s.strand i.key with
  | none => s
  | some x =>
    let held := x.active && x.atWindow .access && (match m.rest, m.kind with | some _, .st => m.spans.isEmpty | some _, .sta => m.spans.isEmpty | _, _ => false)
    let y := (dropInflight m.id (f x)).retry
    ((s.setStrand i.key (if held then y.advance .access else y)).restatCore i.die i.core).settleFence i

/-- The data of a load has come: it is placed in its destination (R85, R118, R222). -/
def State.placeLoad (s : State) (i : Sid) (m : Inflight) (b : List Byte) : State :=
  match m.dest with
  | .none => s.endMem i m id
  | .scalar rd => s.endMem i m (fun x =>
      { x.setSreg .access (BitVec.ofNat 4 rd) (w64 (leNat b)) with busy := x.busy.filter (fun k => k != rd) })
  | .spad runs w => (placePad w runs (loadElems w m.runs b) s).endMem i m id
  | .queue q w =>
    match m.mcast with
    | some id =>
      { s with mcast := s.mcast.map (fun e =>
          if e.id = id ∧ e.data.isNone then { e with data := some (loadQueue w m.runs b), fetchedAt := s.now } else e) }
    | none => (s.pushLoad i m q ((toEntries (loadQueue w m.runs b)).drop m.byteOff)).1

/-- A load's turn: what it still has to ask for is asked, then its bytes are taken. -/
def State.answerLoad (s : State) (i : Sid) (x : Strand) (m : Inflight) : State :=
  match m.rest, m.dest with
  | some todo, .queue q _ => (s.pushLoad i m q todo).1
  | _, _ =>
    let r := s.sendOut i x (s.withFetch m)
    let s1 := (r.1.noteFetch r.2).setStrand i.key (x.setInflight r.2)
    match r.2.err with
    | some (reason, va) => if r.2.remote.isEmpty then s1.failMem i m reason va.toNat else s1
    | none =>
      let unsent := (s1.remoteParts r.2).any (fun e => !r.2.got.any (fun g => g.1 == e.1))
      if !r.2.remote.isEmpty || unsent then s1
      else
        match s1.gatherBytes i x.part r.2 with
        | (t, some (reason, va), _) => t.failMem i m reason va
        | (t, none, b) => t.placeLoad i r.2 b

/-- The local writes of a store, each performed at its home; the first error stands (R217, R264). -/
def State.storeLocal (s : State) (i : Sid) (part : Nat) (m : Inflight) : State × Option (Nat × Word) :=
  (s.localParts m).foldl (fun (acc : State × Option (Nat × Word)) e =>
    (writeSegs e.2.2.1 e.1 e.2.2.2.1 m.data.2).foldl (fun (acc : State × Option (Nat × Word)) g =>
      let a := gaLocal g.2.1
      let t := acc.1.countFar i.die (spotDie a) g.2.2.1
      let r := if g.2.2.2 then t.poisonWrite part a g.2.2.1
        else t.spotWrite (.strand part) part a (byteSlice m.data.1 g.1 g.2.2.1)
      (r.1, if r.2 ≠ 0 ∧ acc.2.isNone then some (statusHalt r.2, w64 e.2.1) else acc.2)) acc) (s, m.err)

/-- A store's turn: its packets leave, its local bytes are written, an STA's counter advances once all of it is performed
(R89, R222, R288). -/
def State.answerStore (s : State) (i : Sid) (x : Strand) (m : Inflight) : State :=
  let r := s.sendOut i x m
  let m1 := r.2
  if m1.byteOff = 0 then r.1.setStrand i.key (x.setInflight m1)
  else
    let w := if m1.performed then (r.1, m1.err) else r.1.storeLocal i x.part m1
    let m2 := { m1 with performed := true, err := w.2 }
    -- a register write may have changed the strand itself
    match w.1.strand i.key with
    | none => w.1
    | some y =>
      let s1 := w.1.setStrand i.key (y.setInflight m2)
      if !m2.remote.isEmpty then s1
      else
        match m2.err, m2.counter with
        | some (reason, va), _ => s1.failMem i m2 reason va.toNat
        | none, none => s1.endMem i m2 id
        | none, some (cva, cga) =>
          if s1.isLocal cga then
            match s1.homeAdd (askedBy (s1.corePage i.die i.core) 0) x.part (gaLocal cga) 1 with
            | (t, 0, _) => t.endMem i m2 id
            | (t, st, _) => t.failMem i m2 (statusHalt st) cva
          else
            let q := s1.request i.die x.part 4 cga cva 0 1 [] false (.strand i m2.id)
            if q.1.stillOut i.die q.2 then q.1.setStrand i.key (y.setInflight { m2 with counter := none, remote := [q.2] })
            else q.1.failMem i m2 0x08 cva

/-- An ATADD's turn (R218, R222, R288). -/
def State.answerAdd (s : State) (i : Sid) (x : Strand) (m : Inflight) : State :=
  let r := s.sendOut i x m
  let s1 := r.1.setStrand i.key (x.setInflight r.2)
  let va := (m.runs.map (·.va)).headI
  match r.2.err with
  | some (reason, v) => if r.2.remote.isEmpty then s1.failMem i m reason v.toNat else s1
  | none =>
    match m.runs.flatMap (·.pieces) with
    | (ga, _, _) :: _ =>
      if s1.isLocal ga then
        match s1.homeAdd (askedBy (s1.corePage i.die i.core) 0) x.part (gaLocal ga) m.value with
        | (t, 0, old) => t.placeLoad i r.2 (leBytes 8 old.toNat)
        | (t, st, _) => t.failMem i m (statusHalt st) va
      else if !r.2.remote.isEmpty || !r.2.performed then s1
      else s1.placeLoad i r.2 ((r.2.got.map (·.2)).headI)
    | [] => s1.endMem i m id

/-- MEMORY_ANSWER: an instruction in flight is performed, unless it waits for an earlier one it overlaps, for other packages,
or for a domain or a controller that is not ready (R34, R221, R222). -/
def execMemoryAnswer (sid : Sid) (id : Nat) (s : State) : Host.Outcome State Fault Refusal :=
  commit s (
    match s.strand sid.key with
    | none => s
    | some x =>
      match x.inflight.find? (fun m => m.id == id) with
      | none => s
      | some m =>
        if x.behind m || (match m.dest with | .queue _ _ => x.padBehind id | _ => false) then s
        else
          match s.mustWait m with
          | .held => s
          | .wake d => s.wakeDie d
          | .go =>
            match m.kind with
            | .ld =>
              if s.unitFetches m then (if s.mayFetch m then s.answerLoad sid x m else s)
              else if m.mcast.isSome then
                let g := s.goSolo sid x.part m
                g.1.answerLoad sid (x.setInflight g.2) g.2
              else s.answerLoad sid x m
            | .gather => s.answerLoad sid x m
            | .sld => s.answerLoad sid x m
            | .st => s.answerStore sid x m
            | .sta => s.answerStore sid x m
            | .atadd => s.answerAdd sid x m
            | .scmd => s
            | .lxsub => s)

/-! ### The watchdog, the deadlock and the hold -/

/-- TILE_WATCHDOG_EXPIRY: the strand has been resident for watchdog_us since its last tile boundary (R96). The record
names the execute stream's instruction, whose tile it is (DEDUCED, log 95). -/
def execTileWatchdogExpiry (sid : Sid) (s : State) : Host.Outcome State Fault Refusal :=
  commit s (
    match s.strand sid.key with
    | none => s
    | some x =>
      if !x.active || x.waitE.isSome || !s.coreClock sid.die then s
      else (s.carryIssue sid.die (x.wdSince8 + (x.wdUs * 8000 - x.wdElapsed8))).halt sid .execute 0x09)

/-- QUEUE_DEADLOCK: both streams wait on queues, and nothing in flight could push an entry to either (R70). The record
names the execute stream's instruction, since R70 does not say which of the two it is (DESIGN CHOICE, log 95). -/
def execQueueDeadlock (sid : Sid) (s : State) : Host.Outcome State Fault Refusal :=
  commit s (
    match s.strand sid.key with
    | none => s
    | some x =>
      match x.waitsQueue .access, x.waitsQueue .execute with
      | some a, some e =>
        let could := x.inflight.any (fun m => match m.dest with
          | .queue q _ => (q == a || q == e) && decide ((x.queue q).length < 32)
          | _ => false)
        if !x.active || could then s else s.halt sid .execute 0x10
      | _, _ => s)

/-- STREAM_HOLD_EXPIRY: the holder of a stream has held it for 4,096 cycles, and another strand of equal priority can begin
(R92). -/
def execStreamHoldExpiry (die : Die) (core : Nat) (str : Stream) (s : State) : Host.Outcome State Fault Refusal :=
  commit s (
    let c := s.core die core
    match c.hold str with
    | none => s
    | some j =>
      match s.strand (strandKey die core j) with
      | none => s
      | some x =>
        let since := match str with | .access => c.holdSinceA | .execute => c.holdSinceE
        if (x.prog str).isSome || !s.coreClock die then s
        else
          (s.carryIssue die (since + ceilDiv (4096 * 8000) (s.clock50 die * 50))).switchStream die core str
            (fun k y => k != j && y.prio == x.prio))

end Sys2Proof.Machine
end

