-- ==== Sys2Proof/Machine/Packets.lean ====
section
/-!
DEFINITION. Packets that arrive (R285 to R295): the inbound windows of R289, what a request does at its home and its response
(R287), packets for other packages, and packets that are discarded.
-/
namespace Sys2Proof.Machine

/-! ### Responses -/

/-- The RESPONSE of a request (R286, R287). One whose source is lost is discarded (R305). -/
def State.respond (s : State) (d : Die) (k : Packet) (status : Nat) (data : List Byte) : State :=
  if s.lossGrace.any (fun g => g.1 == k.src) then s
  else
    s.sendPacket d true
      { k with ptype := 8, vc := 2, falling := false, hopsLeft := s.fld (vroutePage d + 0x120) 0 5, dst := k.src, src := s.selfId,
               poison := false, addr := 0, arg := w64 status, payload := data }

/-! ### Inbound windows (R289) -/

/-- A word of a partition's window. -/
def State.winWord (s : State) (part w i : Nat) : Nat := (mget 0 s.windows (part * 32 + w * 4 + i)).toNat

/-- A window admits a request of `len` bytes that needs the permission at a bit of its word 2: 32 read, 33 write, 34 atomic. -/
def State.winAdmits (s : State) (k : Packet) (len perm w : Nat) : Bool :=
  let w0 := s.winWord k.part w 0
  let w1 := s.winWord k.part w 1
  let w2 := s.winWord k.part w 2
  let base := w0 % 2 ^ 42
  let last := w1 % 2 ^ 42
  bit w0 63 && base % 0x10000 == 0 && last % 0x10000 == 0xFFFF && decide (base ≤ k.addr) && decide (k.addr + len ≤ last + 1) &&
    decide (w2 % 2 ^ 16 ≤ k.src) && decide (k.src ≤ bits w2 16 16) && bit w2 perm

/-- A request lies in one of the windows of its partition. -/
def State.inWindows (s : State) (k : Packet) (len perm : Nat) : Bool := (List.range 8).any (s.winAdmits k len perm)

/-! ### A request at its destination -/

/-- Bytes a request concerns. -/
def reqLen (k : Packet) : Nat :=
  match k.ptype with
  | 1 => k.payload.length
  | 2 => k.arg.toNat % 1024
  | _ => 8

/-- Bit of the permission a request needs. -/
def reqPerm (k : Packet) : Nat :=
  match k.ptype with
  | 1 => 33
  | 2 => 32
  | _ => 34

/-- A WRITE performed: a poisoned one writes its units poisoned (R263). -/
def State.remoteWrite (s : State) (k : Packet) : State × Nat :=
  if !k.poison then s.spotWrite (.remote k.src k.part) k.part k.addr k.payload
  else
    match locOf k.addr with
    | .reg _ => (s, 3)
    | .win _ _ => (s, 3)
    | _ => s.poisonWrite k.part k.addr k.payload.length

/-- A request performed at its home: status and data (R287, R289). -/
def State.perform (s : State) (k : Packet) : State × Nat × List Byte :=
  match k.ptype with
  | 1 => let r := s.remoteWrite k; (r.1, r.2, [])
  | 2 => s.spotRead (.remote k.src k.part) (askedBy (vroutePage (spotDie k.addr)) 4) k.part false k.addr (reqLen k)
  | 3 => let r := s.homeAdd (askedBy (vroutePage (spotDie k.addr)) 4) k.part k.addr k.arg; (r.1, r.2.1, if r.2.1 = 0 then leBytes 8 r.2.2.toNat else [])
  | _ => let r := s.homeAdd (askedBy (vroutePage (spotDie k.addr)) 4) k.part k.addr 1; (r.1, r.2.1, [])

/-- A request that finds nothing is recorded (R440). -/
def State.noteMiss (s : State) (d : Die) (k : Packet) (status : Nat) : State :=
  if status = 2 then s.raise (vroutePage d) 0x0305 (some k.part) k.addr (k.src % 2 ^ 16) false false else s

/-- The bytes a request carries over the bridge are counted (R24). -/
def State.countReq (s : State) (d : Die) (k : Packet) (back : Nat) : State :=
  if k.ptype = 2 then s.countFar (spotDie k.addr) d back else s.countFar d (spotDie k.addr) k.payload.length

/-- A request that the windows have admitted is performed, and its response is known. -/
def State.servedRequest (s : State) (d : Die) (k : Packet) : State × Nat × List Byte :=
  let r := s.perform k
  (((r.1.noteMiss d k r.2.1).countReq d k r.2.2.length).heedMail k r.2.1, r.2)

/-- It is performed and answered. -/
def State.serveRequest (s : State) (d : Die) (k : Packet) : State :=
  let r := s.servedRequest d k
  r.1.respond d k r.2.1 r.2.2

/-- A request outside every window of its partition is recorded and refused (R289). -/
def State.refuseReq (s : State) (d : Die) (k : Packet) : State :=
  ((s.bump (vroutePage d) 0x048 32 1).raise (vroutePage d) 0x0501 (some k.part) k.addr (k.src % 2 ^ 16 + k.part % 16 * 2 ^ 16) false
    false).respond d k 1 []

/-- A request waits in its port's receive buffers; one whose source is lost keeps no response (R34, R305, R395). -/
def State.holdPacket (s : State) (port : Nat) (k : Packet) : State :=
  { s with held := s.held ++ [.packet port k (s.lossGrace.any (fun g => g.1 == k.src))] }

/-- A request for this package: status 5 in the split state, status 1 outside the windows, else performed at once or held at a
domain that sleeps or a controller being initialised (R34, R287, R289, R399). In Calm, and while it is entered, every request
waits and wakes the package (R395). -/
def State.request_ (s : State) (port : Nat) (k : Packet) : State :=
  if s.isSplit then s.respond (dieOf (port / 12)) k 5 []
  else if !s.inWindows k (reqLen k) (reqPerm k) then s.refuseReq (dieOf (port / 12)) k
  else if s.inCalm then (s.wakeDie (dieOf (port / 12))).holdPacket port k
  else
    match s.spotWait k.addr with
    | .go => s.serveRequest (dieOf (port / 12)) k
    | .held => s.holdPacket port k
    | .wake w => (s.wakeDie w).holdPacket port k

/-! ### Packets for other packages (R294, R295) -/

/-- A packet passes through: its hops count down, and one that may not go on is unreachable. -/
def State.forward (s : State) (d : Die) (k : Packet) : State :=
  if k.hopsLeft = 0 then
    let s1 := s.bump (vroutePage d) 0x040 32 1
    if isRequest k.ptype then s1.respond d k 6 [] else s1
  else
    let k1 := { k with hopsLeft := k.hopsLeft - 1 }
    let w := wholeUnits (s.transitHalf.get d) (pktUnits2 k)
    let s1 : State := if (s.routeOf k1).isSome then
        { s.bump (vroutePage d) 0x058 64 w.1 with transitHalf := s.transitHalf.set d w.2 } else s
    s1.sendPacket d false k1

/-- A packet arrives on a port that is Up or Degraded, in order (R296); one for another package goes on, a request only once the
package is out of Calm (R395). -/
def arrivePacket (port : Nat) (k : Packet) (act : Packet → State → State) (s : State) : State :=
  takeFrame port k.link (pktUnits2 k) (fun t =>
    if k.dst = t.selfId then act k t
    else if isRequest k.ptype && t.inCalm then (t.wakeDie (dieOf (port / 12))).holdPacket port k
    else t.forward (dieOf (port / 12)) k) s

/-! ### The rows -/

/-- PACKET_WRITE (R289). -/
def execPacketWrite (port : Nat) (pkt : Packet) (s : State) : Host.Outcome State Fault Refusal :=
  commit s (arrivePacket port { pkt with ptype := 1 } (fun k t => t.request_ port k) s)

/-- PACKET_READ (R289). -/
def execPacketRead (port : Nat) (pkt : Packet) (s : State) : Host.Outcome State Fault Refusal :=
  commit s (arrivePacket port { pkt with ptype := 2 } (fun k t => t.request_ port k) s)

/-- PACKET_ATADD (R289). -/
def execPacketAtadd (port : Nat) (pkt : Packet) (s : State) : Host.Outcome State Fault Refusal :=
  commit s (arrivePacket port { pkt with ptype := 3 } (fun k t => t.request_ port k) s)

/-- PACKET_COUNT: 1 is added to an arrival counter (R286, R289). -/
def execPacketCount (port : Nat) (pkt : Packet) (s : State) : Host.Outcome State Fault Refusal :=
  commit s (arrivePacket port { pkt with ptype := 4 } (fun k t => t.request_ port k) s)

/-- PACKET_RESPONSE: the request it answers ends with its status; one that answers none is discarded (R287, R290, R335). -/
def execPacketResponse (port : Nat) (pkt : Packet) (s : State) : Host.Outcome State Fault Refusal :=
  commit s (arrivePacket port { pkt with ptype := 8 } (fun k t => t.endRequest k.srcDie k.reqId (k.arg.toNat % 256) k.payload) s)

/-- Packet types of R286. -/
def knownType (t : Nat) : Bool := [0x01, 0x02, 0x03, 0x04, 0x08, 0x10, 0x11, 0x12, 0x13, 0x20].contains t

/-- RESERVED_PACKET: a packet of a reserved type is discarded and counted (R286). -/
def execReservedPacket (port : Nat) (pkt : Packet) (s : State) : Host.Outcome State Fault Refusal :=
  commit s (
    if knownType pkt.ptype then s
    else takeFrame port pkt.link (pktUnits2 pkt) (fun t => t.bump (vroutePage (dieOf (port / 12))) 0x050 32 1) s)

/-- PACKET_FORWARD: a packet for another package (R294, R295). -/
def execPacketForward (port : Nat) (pkt : Packet) (s : State) : Host.Outcome State Fault Refusal :=
  commit s (if !knownType pkt.ptype then s else arrivePacket port pkt (fun _ _ => s) s)

end Sys2Proof.Machine
end

