-- ==== Sys2Proof/Machine/HostSide.lean ====
section
/-!
DEFINITION. The host and management interfaces: host reads and writes (R411 to R414), DMA (R415, R416), the host's resets
(R417), the management messages and MGMT packets (R419 to R423), JTAG (R424) and Maintenance mode (R425).
-/
namespace Sys2Proof.Machine

/-! ### Where a host request lands (R411) -/

/-- BAR2 of function 0 reaches the local address space; BAR0 of function f is given as 2^42 + f × 64 KiB (log 29). -/
inductive HostPlace where
  | addr (a : Nat)
  | table (f o : Nat)
  | pend (f o : Nat)
  | nothing
deriving DecidableEq, Repr

def hostFunction (addr : Nat) : Nat := if addr < 2 ^ 42 then 0 else (addr - 2 ^ 42) / 0x10000

def State.hostPlace (s : State) (addr len : Nat) : HostPlace :=
  if addr < 2 ^ 42 then .addr addr
  else
    let f := (addr - 2 ^ 42) / 0x10000
    let o := (addr - 2 ^ 42) % 0x10000
    if 16 < f || (f != 0 && !s.quiley.running) then .nothing
    else if o + len ≤ 0x80 then .addr (regBase + s.qpBase f 0 + o)
    else if 0x1000 ≤ o ∧ o + len ≤ 0x1200 then .table f (o - 0x1000)
    else if 0x2000 ≤ o ∧ o + len ≤ 0x2008 then .pend f (o - 0x2000)
    else .nothing

/-- A word of a function's MSI-X table: the mask bit of the vector control is held inverted, so that an unlisted vector is
masked. -/
def State.msixWord (s : State) (f i : Nat) : Nat :=
  let x := (mget 0 s.host.msixTab (f * 128 + i)).toNat
  if i % 4 = 3 then 1 - x % 2 else x

def State.msixBytes (s : State) (f : Nat) : List Byte := (List.range 128).flatMap (fun i => leBytes 4 (s.msixWord f i))

def State.pendBytes (s : State) (f : Nat) : List Byte :=
  leBytes 8 (((List.range 32).filter (fun v => s.host.msixPend.contains (f * 32 + v))).foldl (fun t v => t + 2 ^ v) 0)

/-- Bytes written to the table; a vector that is no longer masked sends what it holds pending (R412). -/
def State.writeMsix (s : State) (f o : Nat) (b : List Byte) : State :=
  let all := overlay (s.msixBytes f) o b
  let s1 := ((List.range 128).filter (fun i => decide (o < i * 4 + 4) && decide (i * 4 < o + b.length))).foldl (fun (t : State) i =>
    let x := leAt all (i * 4) 4
    { t with host := { t.host with msixTab := mset 0 t.host.msixTab (f * 128 + i) (w64 (if i % 4 = 3 then 1 - x % 2 else x)) } }) s
  let ready := (List.range 32).filter (fun v => s1.host.msixPend.contains (f * 32 + v) && bit (mget 0 s1.host.msixTab (f * 128 + v * 4 + 3)).toNat 0)
  ready.foldl (fun (t : State) v =>
    { t with out := t.out ++ [.msix f v], host := { t.host with msixPend := t.host.msixPend.erase (f * 32 + v) } }) s1

/-! ### Serving a host request (R413, R414) -/

/-- A read of a location that holds nothing: Unsupported Request, its counter and its record. -/
def State.hostHole (s : State) (addr : Nat) : State :=
  (s.bump s.pciePage 0x040 32 1).raise s.pciePage 0x0305 (some 0) addr 0 false false

def State.emit (s : State) (o : Out) : State := { s with out := s.out ++ [o] }

/-- A host read performed. -/
def State.hostReadGo (s : State) (addr len : Nat) : State :=
  match s.hostPlace addr len with
  | .nothing => (s.hostHole addr).emit .cplUr
  | .table f o => s.emit (.cplData (byteSlice (s.msixBytes f) o len))
  | .pend f o => s.emit (.cplData (byteSlice (s.pendBytes f) o len))
  | .addr a =>
    match s.spotRead .host (askedBy s.pciePage 3) 0 false a len with
    | (t, 0, b) => (t.countFar (spotDie a) t.active len).emit (.cplData b)
    | (t, 2, _) => (t.hostHole a).emit .cplUr
    | (t, _, _) => t.hostPoison a

/-- A poisoned host write: performed, its units poisoned (R263, R414). A register has no unit and takes the value. -/
def State.hostPoisoned (s : State) (a : Nat) (b : List Byte) : State × Nat :=
  match locOf a with
  | .reg _ => s.spotWrite .host 0 a b
  | .win _ _ => s.spotWrite .host 0 a b
  | _ => if b.isEmpty then (s, 0) else s.poisonWrite 0 a b.length

/-- A host write performed. -/
def State.hostWriteGo (s : State) (addr : Nat) (b : List Byte) (ep : Bool) : State :=
  let rx (t : State) (a : Nat) : State :=
    if ep then (t.bump t.pciePage 0x04C 32 1).raise t.pciePage 0x0905 (some 0) a 4 false false else t
  match s.hostPlace addr b.length with
  | .nothing => ((rx s addr).hostHole addr).emit (.errNonfatal 2)
  | .table f o => rx (s.writeMsix f o b) addr
  | .pend _ _ => rx s addr
  | .addr a =>
    let r := if ep then s.hostPoisoned a b else s.spotWrite .host 0 a b
    let t := rx (r.1.countFar r.1.active (spotDie a) b.length) a
    match r.2 with
    | 0 => t
    | 2 => (t.hostHole a).emit (.errNonfatal 2)
    | _ => ((t.bump t.pciePage 0x044 32 1).raise t.pciePage 0x0905 (some 0) a 3 false false).emit (.errNonfatal 3)

/-- What a host request must wait for: an earlier posted write of its function that is held, a controller being initialised, or
a domain that sleeps (R34, R395, R413). -/
def State.hostWait (s : State) (addr len : Nat) : SpotWait :=
  let behind := s.held.any (fun h => match h with
    | .hostWrite a _ _ => hostFunction a == hostFunction addr
    | .regWrite .host _ _ _ => hostFunction addr == 0
    | _ => false)
  if behind then .held
  else match s.hostPlace addr len with
    | .addr a => s.spotWait a
    | _ => .go

def State.hold (s : State) (h : Held) : State := { s with held := s.held ++ [h] }

def State.hostReadIn (s : State) (addr len : Nat) : State :=
  match s.hostWait addr len with
  | .go => s.hostReadGo addr len
  | .held => s.hold (.hostRead addr len)
  | .wake d => (s.wakeDie d).hold (.hostRead addr len)

def State.hostWriteIn (s : State) (addr : Nat) (b : List Byte) (ep : Bool) : State :=
  match s.hostWait addr b.length with
  | .go => s.hostWriteGo addr b ep
  | .held => s.hold (.hostWrite addr b ep)
  | .wake d => (s.wakeDie d).hold (.hostWrite addr b ep)

/-- HOST_READ (R411, R413, R414). -/
def execHostRead (addr len : Nat) (s : State) : Host.Outcome State Fault Refusal :=
  commit s (if !s.host.linkUp || s.host.inReset.contains (hostFunction addr) then s else s.hostReadIn addr len)

/-- HOST_WRITE. -/
def execHostWrite (addr : Nat) (bytes : List Byte) (ep : Bool) (s : State) : Host.Outcome State Fault Refusal :=
  commit s (if !s.host.linkUp || s.host.inReset.contains (hostFunction addr) then s else s.hostWriteIn addr bytes ep)

/-! ### DMA (R415, R416) -/

/-- DMA_TAIL_WRITE. -/
def execDmaTailWrite (who : Who) (ch : Nat) (value : Nat) (s : State) : Host.Outcome State Fault Refusal :=
  commit s (crossed who (s.dmaBase ch + 0x14) 4 (w64 value) (writeDmaTail who ch value) s)

/-- A DMA descriptor (R415). -/
structure DmaDesc where
  op : Nat
  function : Nat
  len : Nat
  hostAddr : Nat
  place : Nat
  donePa : Nat
deriving DecidableEq, Repr

def dmaDesc (b : List Byte) : DmaDesc :=
  ⟨leAt b 0 1, leAt b 1 1, leAt b 4 4, leAt b 8 8, leAt b 16 8, leAt b 24 8⟩

def dmaDescOk (d : DmaDesc) : Bool :=
  decide (d.op ≤ 1) && decide (d.function ≤ 16) && decide (4 ≤ d.len) && decide (d.len ≤ 16 * 2 ^ 20) && d.len % 4 == 0 &&
    d.hostAddr % 4 == 0 && d.place % 4 == 0

/-- The channel's oldest descriptor lies here. -/
def State.dmaAt (s : State) (ch : Nat) : Nat :=
  let a := s.dmaBase ch
  (s.reg a).toNat + s.fld (a + 0x10) 0 16 % 2 ^ s.fld (a + 8) 0 4 * 32

def State.dmaWaits (s : State) (ch : Nat) : Bool :=
  decide (ch < 16) && s.dmaRuns ch && s.fld (s.dmaBase ch + 0x10) 0 16 != s.fld (s.dmaBase ch + 0x14) 0 16

/-- The oldest descriptor ends: its counter advances in every outcome, and the next one is the oldest (R415). -/
def State.dmaEnd (s : State) (ch : Nat) (d : Option DmaDesc) (ok : Bool) : State :=
  let s1 := match d with | some x => if x.donePa = 0 then s else s.countUp 0 x.donePa | none => s
  let e := s1.host.dmaErr.filter (· != ch)
  let s2 : State := { s1 with host := { s1.host with dmaErr := if ok then e else e ++ [ch] } }
  s2.stir.setFld (s2.dmaBase ch + 0x10) 0 16 (s2.fld (s2.dmaBase ch + 0x10) 0 16 + 1)

/-- The function of a descriptor may be reached: the link is up and no reset holds the function (R416). -/
def State.dmaReach (s : State) (d : DmaDesc) : Bool := s.host.linkUp && !s.host.inReset.contains d.function

/-- Device to host: the bytes before the first that is uncorrectable are moved (R263, R416). -/
def State.dmaOut (s : State) (ch : Nat) (d : DmaDesc) : State :=
  match s.spotRead .scc (askedBy s.pciePage 0xFF) 0 false d.place d.len with
  | (t, 0, b) => (t.emit (.hostWr d.function d.hostAddr b)).dmaEnd ch (some d) true
  | (t, st, _) =>
    let n := match t.firstBad d.place d.len with | some x => x - d.place | none => 0
    let u := if st = 3 ∧ 0 < n then t.emit (.hostWr d.function d.hostAddr (t.bytes d.place n)) else t
    u.dmaEnd ch (some d) false

/-- Host to device: the bytes the host returned are written. -/
def State.dmaIn (s : State) (ch : Nat) (d : DmaDesc) (b : List Byte) : State :=
  let r := s.spotWrite .scc 0 d.place b
  r.1.dmaEnd ch (some d) (r.2 == 0)

/-- A descriptor that can be read, is valid, and reaches its function and a place that is awake; else what becomes of it. -/
def State.dmaRun (s : State) (ch : Nat) (k : State → DmaDesc → State) : State :=
  match s.homeRead (askedBy s.pciePage 0xFF) 0 (s.dmaAt ch) 32 with
  | (t, 0, b) =>
    let d := dmaDesc b
    if !dmaDescOk d || !t.dmaReach d then t.dmaEnd ch (some d) false
    else
      match s.spotWait d.place with
      | .go => k t d
      | .held => s
      | .wake w => s.wakeDie w
  | (t, _, _) => t.dmaEnd ch none false

/-- DMA_DESCRIPTOR_RUN: the oldest descriptor of a channel, with what the host answers: the bytes of a read, or that it takes
the write. -/
def execDmaDescriptorRun (ch : Nat) (answer : HostAnswer) (s : State) : Host.Outcome State Fault Refusal :=
  commit s (
    if !s.dmaWaits ch then s
    else
      s.dmaRun ch (fun t d =>
        match answer with
        | .data b => if d.op = 0 ∧ b.length = d.len then t.dmaIn ch d b else s
        | .accepted => if d.op = 1 then t.dmaOut ch d else s))

/-- DMA_HOST_READ_TIMEOUT: 50 ms have passed: the descriptor stops, and its status reads as an error (R416). -/
def execDmaHostReadTimeout (ch : Nat) (s : State) : Host.Outcome State Fault Refusal :=
  commit s (
    if !s.dmaWaits ch then s
    else s.dmaRun ch (fun t d => if d.op = 0 then t.dmaEnd ch (some d) false else s))

/-! ### Resets seen by the host (R417) -/

/-- Quiley ends a function's requests as a CANCEL would, but writes nothing to the host (R417). -/
def State.endFunction (s : State) (f : Nat) : State :=
  (s.quiley.reqs.filter (fun r => r.function == f && r.stat != .orphaned)).foldl (fun (t : State) r =>
    let x := { r with masked := true, inStep := false }
    let u := if r.stat.live then ((t.setReq x).killWork x).releasePeer x else t
    (u.dropReq r.slot).startPrefill r.part) s

/-- A function is reset: its requests, its queue pairs, its MSI-X vectors, and its requests that were held. -/
def State.resetFunction (s : State) (f : Nat) : State :=
  let s1 := s.endFunction f
  let a := s1.qpBase f 0
  { s1 with
    regs := s1.regs.filter (fun e => !(decide (a ≤ e.1) && decide (e.1 < a + 0x80)))
    quiley := { s1.quiley with pairs := s1.quiley.pairs.filter (fun e => e.1 / 4 != f) }
    host := { s1.host with
      msixTab := s1.host.msixTab.filter (fun e => e.1 / 128 != f)
      msixPend := s1.host.msixPend.filter (fun k => k / 32 != f) }
    held := s1.held.filter (fun h => match h with
      | .hostWrite x _ _ => hostFunction x != f
      | .hostRead x _ => hostFunction x != f
      | _ => true) }

/-- Every function is reset, and the DMA channels stop. -/
def State.resetFunctions (s : State) : State :=
  let s1 := (List.range 17).foldl State.resetFunction s
  let a := s1.dmaBase 0
  { s1 with
    regs := s1.regs.filter (fun e => !(decide (a ≤ e.1) && decide (e.1 < a + 0x200)))
    host := { s1.host with dmaErr := [] } }

/-- PERST_N as driven. -/
def State.setPerst (s : State) (high : Bool) : State := { s with pins := { s.pins with perstN := high } }

/-- The functions that a reset holds. -/
def State.setInReset (s : State) (l : List Nat) : State := { s with host := { s.host with inReset := l } }

/-- PERST_ASSERT: the host's reset, or a hot reset of its link. -/
def execPerstAssert (s : State) : Host.Outcome State Fault Refusal :=
  commit s ((s.setPerst false).resetFunctions.linkDown.setInReset (List.range 17))

/-- The endpoint may train: it has not, the package runs and is not wedged, and its reference clock runs (R402, R418). -/
def State.mayTrain (s : State) : Bool :=
  !s.host.linkUp && !s.isOff && s.flag (hkPg s.active + 0x100) 2 && !s.flag (hkPg s.active + 0x100) 3 &&
    !s.pins.clkLost.contains .pcie

/-- PERST_DEASSERT: the endpoint trains once the package has booted (R402, R418). -/
def execPerstDeassert (s : State) : Host.Outcome State Fault Refusal :=
  commit s (
    if ((s.setPerst true).setInReset []).mayTrain then ((s.setPerst true).setInReset []).trainLink
    else (s.setPerst true).setInReset [])

/-- FUNCTION_LEVEL_RESET: of function 0 every function; of another that one (R417). -/
def execFunctionLevelReset (function : Nat) (s : State) : Host.Outcome State Fault Refusal :=
  commit s (
    if 16 < function ∨ !s.host.linkUp then s
    else if function = 0 then s.resetFunctions
    else s.resetFunction function)

/-! ### Management (R419 to R425) -/

/-- What a management message is answered with; none while its answer waits for a domain to wake. -/
abbrev Answer := State × Option (List Nat)

def mgmtPg (d : Die) : Nat := pg d Blk.mgmt 0

/-- The message could not be served as asked: completion code 1 of the model's answers (log 30). -/
def bad (s : State) : Answer := (s, some [1])

/-- An MCTP control message (R419, R420). -/
def manageControl (m : MctpMsg) (s : State) : Answer :=
  match m with
  | .setEndpointId e => ({ s with host := { s.host with eid := some e } }, some [0, e])
  | .getEndpointId => (s, some [0, s.host.eid.getD 0])
  | .assignI3cAddress a => ({ s with host := { s.host with i3cAddr := some a } }, some [0, a])
  | .malformed => (s.bump (mgmtPg s.active) 0x044 32 1, none)

/-- A numeric or state sensor (R421). -/
def manageSensor (x : PldmSensor) (s : State) : Answer :=
  let word (a size : Nat) : Answer := match s.readReg .mgmt a size with
    | some v => (s, some [0, v])
    | none => bad s
  match x with
  | .diode d n => if n ≤ 8 then word (thermPg d + 0x100 + n * 4) 4 else bad s
  | .current d c => if c < 5 then word (chanReg d c) 4 else bad s
  | .voltage d c => if c < 5 then word (chanReg d c + 4) 4 else bad s
  | .energy d c => if c < 5 then word (chanReg d c + 8) 8 else bad s
  | .packageW => word (measPg (s.leader.getD s.active) + 0x200) 4
  | .leader d => (s, some [0, boolNat (s.leads d)])
  | .split => (s, some [0, boolNat s.isSplit])
  | .wedged => (s, some [0, boolNat (bothDies.any (fun d => s.flag (hkPg d + 0x100) 3))])
  | .trip => (s, some [0, boolNat (!s.pins.thermTripN)])
  | .port p => if p < 24 then (s, some [0, s.portState p]) else bad s

/-- An update that has not reached its commit ends without one, and the write that waits begins (R423). -/
def State.dropUpdate (s : State) : State :=
  match s.store.writing with
  | some w =>
    if w.area = 1 ∧ w.ops < 4 then ({ s with store := s.store.abandonUpdate false } : State).storeNext else s
  | none => { s with store := { s.store with pendingFw := false } }

def State.clearUpdate (s : State) : State := { s with host := { s.host with agent := none, updHk := [], updScc := [], verified := false } }

/-- A firmware component as transferred is acceptable (R406). -/
def State.acceptable (s : State) (comp version slot : Nat) (image sig : List Byte) : Bool :=
  decide (slot < 4) && !(s.fuses.keyRevoked.getD slot true) && decide (version ≤ 64) &&
    decide ((if comp = 1 then s.fuses.hkSvn else s.fuses.sccSvn) ≤ version) && Config.signatureValid slot image sig

/-- A step of a firmware update (R423): one agent at a time; the bytes go to the copy not in use; a component is checked before
its copy is committed; activation asks for a package reset. -/
def manageUpdate (x : PldmUpdate) (s : State) : Answer :=
  let mine (a : Nat) : Bool := s.host.agent == some a
  match x with
  | .requestUpdate a =>
    if s.host.agent.isSome && !mine a then (s, some [2])
    else if mine a then (s, some [0])
    else ({ s.clearUpdate with host := { s.clearUpdate.host with agent := some a } }, some [0])
  | .transfer a comp b =>
    if !mine a || (comp ≠ 1 && comp ≠ 2) then bad s
    else
      let fresh := s.host.updHk.isEmpty && s.host.updScc.isEmpty && !s.host.verified
      let h := { s.host with verified := false }
      let t : State := { s with host := if comp = 1 then { h with updHk := h.updHk ++ b } else { h with updScc := h.updScc ++ b } }
      (if fresh then t.storeRequest 1 else t, some [0])
  | .verify a comp version slot sig =>
    if !mine a || (comp ≠ 1 && comp ≠ 2) then bad s
    else
      match s.store.writing with
      | some w =>
        if w.area ≠ 1 ∨ 4 ≤ w.ops then bad s
        else if s.acceptable comp version slot (if comp = 1 then s.host.updHk else s.host.updScc) sig then
          let h := if comp = 1 then { s.host with updHk := [] } else { s.host with updScc := [] }
          let w1 := if comp = 1 then { w with hkVer := version } else { w with sccVer := version }
          ({ s with
             host := { h with verified := h.updHk.isEmpty && h.updScc.isEmpty }
             store := { s.store with writing := some w1 } }, some [0])
        else
          let t := s.dropUpdate
          ({ t with host := { t.host with updHk := [], updScc := [], verified := false } }, some [3])
      | none => bad s
  | .activate a => if mine a then ({ s with host := { s.host with agent := none, updHk := [], updScc := [] } }, some [0, 1]) else bad s
  | .cancel a => if mine a then ((if s.host.verified then s else s.dropUpdate).clearUpdate, some [0]) else bad s

/-- A fault-log record by die and position (R420, R442); a position never written reads zero. -/
def manageLog (d : Die) (index : Nat) (s : State) : Answer :=
  match mget none s.faultLog (d.idx * 4096 + index % 4096) with
  | some r => (s, some (0 :: r.toBytes.map (·.toNat)))
  | none => (s, some (0 :: List.replicate 32 0))

/-- A page outside the housekeeping domain can be read by management: the package is not wedged, in Calm or in reset (R420). -/
def State.mgmtReaches (s : State) (addr : Nat) : Bool :=
  (decide (addr < 0x20000000) && hkPage (regType addr)) ||
    !(s.isOff || s.calmish || bothDies.any (fun d => s.flag (hkPg d + 0x100) 3))

/-- A register read by management (R420); one of a CORE page in Lull waits for the wake (R390). -/
def manageRegister (asker : Option (Nat × Packet)) (addr : Nat) (s : State) : Answer :=
  if !s.mgmtReaches addr then (s, some [4])
  else
    match (if addr < 0x20000000 then s.sleeps (regBase + addr) else none) with
    | some d => ((s.wakeDie d).hold (.mgmtRead asker addr), none)
    | none =>
      match s.readReg .mgmt addr 4 with
      | some v => (s, some [0, v])
      | none => bad s

/-- The Maintenance challenge: a nonce, unless a response failed within the last 10 s (R425). -/
def manageChallenge (s : State) : Answer :=
  if s.now < s.host.challengeNotBefore then bad s
  else
    let n := s.host.challenges
    ({ s with host := { s.host with challenge := some n, challenges := n + 1 } }, some (0 :: (Config.nonce n).map (·.toNat)))

/-- Maintenance mode is entered: partitions other than 0 are disabled (R425). -/
def State.enterMaint (s : State) : State :=
  ((List.range 15).foldl (fun (t : State) p => t.clearEnable (p + 1)) s).setFlag (mgmtPg s.active + 0x104) 2 true

/-- The challenge stands for one response. -/
def State.noChallenge (s : State) : State := { s with host := { s.host with challenge := none } }

/-- The response is a signature of the nonce by a key slot that is not revoked. -/
def State.goodResponse (s : State) (slot : Nat) (sig : List Byte) : Bool :=
  match s.host.challenge with
  | some n => decide (slot < 4) && !(s.fuses.keyRevoked.getD slot true) && Config.signatureValid slot (Config.nonce n) sig
  | none => false

/-- A failed response is recorded, and challenges are refused for 10 s. -/
def State.barChallenge (s : State) : State :=
  { s with host := { s.host with challengeNotBefore := s.now + 10000000000 } }

/-- The response to a challenge (R425). -/
def manageResponse (slot : Nat) (sig : List Byte) (s : State) : Answer :=
  if s.goodResponse slot sig then (s.noChallenge.enterMaint, some [0])
  else bad (s.noChallenge.raise (mgmtPg s.active) 0x0904 none 0 0 false false).barChallenge

/-- One management message, counted, and its answer. -/
def manage (asker : Option (Nat × Packet)) (r : MgmtReq) (s0 : State) : Answer :=
  let s := s0.bump (mgmtPg s0.active) 0x040 32 1
  match r with
  | .control m => manageControl m s
  | .sensor x => manageSensor x s
  | .update x => manageUpdate x s
  | .faultLog d i => manageLog d i s
  | .register a => manageRegister asker a s
  | .packageReset => (s.packageReset 3, some [0])
  | .challenge => manageChallenge s
  | .response k sig => manageResponse k sig s

/-- The answer of a message: on the bus it came by, or in a MGMT packet to the package that asked (R422). -/
def State.answer (s : State) (asker : Option (Nat × Packet)) (a : List Nat) : State :=
  match asker with
  | none => s.emit (if a = [4] then .mgmtNotAvailable else .mgmt a)
  | some (port, k) =>
    let b := s.freeBytes 64
    b.2.sendPacket (dieOf (port / 12)) true
      { k with vc := 3, falling := false, hopsLeft := s.fld (vroutePage (dieOf (port / 12)) + 0x120) 0 5, dst := k.src, src := s.selfId
               poison := false, addr := 0, arg := 0, payload := b.1 }

/-- A message served: answered, unless its answer waits. -/
def State.serveMgmt (s : State) (asker : Option (Nat × Packet)) (r : MgmtReq) : State :=
  match manage asker r s with
  | (t, some a) => t.answer asker a
  | (t, none) => t

/-- A message that arrives on I3C or SMBus, served while VDD_HK is up (R386, R419). -/
def State.onBus (s : State) (r : MgmtReq) : State := if s.pins.rails.contains .hk then s.serveMgmt none r else s

/-- MCTP_CONTROL (R419, R420). -/
def execMctpControl (msg : MctpMsg) (s : State) : Host.Outcome State Fault Refusal := commit s (s.onBus (.control msg))

/-- PLDM_SENSOR_READ (R421). -/
def execPldmSensorRead (sensor : PldmSensor) (s : State) : Host.Outcome State Fault Refusal := commit s (s.onBus (.sensor sensor))

/-- PLDM_FIRMWARE_UPDATE (R423). -/
def execPldmFirmwareUpdate (req : PldmUpdate) (s : State) : Host.Outcome State Fault Refusal := commit s (s.onBus (.update req))

/-- VENDOR_FAULT_LOG_READ (R420, R442). -/
def execVendorFaultLogRead (die : Die) (index : Nat) (s : State) : Host.Outcome State Fault Refusal :=
  commit s (s.onBus (.faultLog die index))

/-- VENDOR_REGISTER_READ (R420). -/
def execVendorRegisterRead (addr : Nat) (s : State) : Host.Outcome State Fault Refusal := commit s (s.onBus (.register addr))

/-- VENDOR_PACKAGE_RESET (R398, R420). -/
def execVendorPackageReset (s : State) : Host.Outcome State Fault Refusal := commit s (s.onBus .packageReset)

/-- MAINTENANCE_CHALLENGE (R425). -/
def execMaintenanceChallenge (s : State) : Host.Outcome State Fault Refusal := commit s (s.onBus .challenge)

/-- MAINTENANCE_RESPONSE (R425). -/
def execMaintenanceResponse (keySlot : Nat) (signature : List Byte) (s : State) : Host.Outcome State Fault Refusal :=
  commit s (s.onBus (.response keySlot signature))

/-- MGMT_PACKET: served by the housekeeping domain when its arg is zero and its partition is 0; discarded and counted
otherwise (R422). -/
def execMgmtPacket (port : Nat) (pkt : Packet) (req : MgmtReq) (s : State) : Host.Outcome State Fault Refusal :=
  commit s (arrivePacket port { pkt with ptype := 0x20 } (fun k t =>
    if k.arg ≠ 0 ∨ k.part ≠ 0 then t.bump (vroutePage (dieOf (port / 12))) 0x050 32 1
    else t.serveMgmt (some (port, k)) req) s)

/-! ### JTAG (R424) -/

/-- Maintenance mode (R425). -/
def State.maintMode (s : State) : Bool := s.flag (mgmtPg s.active + 0x104) 2

/-- An instruction that is not available acts as BYPASS and is noted. -/
def State.jtagBlocked (s : State) : State := (s.setFlag (mgmtPg s.active + 0x104) 3 true).emit (.jtag 0 [0])

/-- JTAG_BYPASS: one bit, zero. -/
def execJtagBypass (s : State) : Host.Outcome State Fault Refusal := commit s (s.emit (.jtag 0 [0]))

/-- What the test port answers where only the BSDL file says it: bytes the model leaves free. -/
def State.jtagFree (s : State) (op n : Nat) : State := (s.freeBytes n).2.emit (.jtag op (s.freeBytes n).1)

/-- The identification: version 1, part 0x2416, an 11-bit manufacturer code, and 1 (R424). -/
def idcode (maker : Nat) : Nat := 0x12416001 + maker % 2048 * 2

/-- JTAG_IDCODE: the manual leaves the manufacturer code to the BSDL file. -/
def execJtagIdcode (s : State) : Host.Outcome State Fault Refusal :=
  commit s ((s.freeBytes 2).2.emit (.jtag 1 (leBytes 4 (idcode (leNat (s.freeBytes 2).1)))))

/-- JTAG_SAMPLE_PRELOAD: what the boundary scan shows stands in the BSDL file. -/
def execJtagSamplePreload (s : State) : Host.Outcome State Fault Refusal := commit s (s.jtagFree 2 8)

/-- JTAG_EXTEST and its group: while PKG_RST_N is low, or in Maintenance mode. -/
def execJtagExtest (s : State) : Host.Outcome State Fault Refusal :=
  commit s (if s.pins.pkgRstN && !s.maintMode then s.jtagBlocked else s.jtagFree 3 8)

/-- An access of the test port at a local address, as partition 0 makes it; one that meets a sleeping domain wakes it and is
held (R34). -/
def State.jtagReach (s : State) (op : JtagPrivate) (a : Nat) (k : State → State) : State :=
  match s.spotWait a with
  | .go => k s
  | .held => s.hold (.jtag op)
  | .wake d => (s.wakeDie d).hold (.jtag op)

/-- A core of the test port's halt, or one step of it. -/
def State.jtagCore (s : State) (d : Die) (c : Nat) (step : Bool) : State :=
  if c < 96 then
    s.setCore d c { s.core d c with jtagHalt := !step || (s.core d c).jtagHalt, jtagStep := step || (s.core d c).jtagStep }
  else s

/-- A private operation performed. -/
def State.jtagRun (s : State) (op : JtagPrivate) : State :=
  match op with
  | .registerRead a =>
    s.jtagReach op (if a < 0x20000000 then regBase + a else 0) (fun t =>
      t.emit (.jtag 4 (match t.readReg .host a 4 with | some v => leBytes 4 v | none => [])))
  | .memoryRead a n =>
    s.jtagReach op a (fun t => (t.spotRead .host 0xFF 0 false a n).1.emit (.jtag 4 (t.spotRead .host 0xFF 0 false a n).2.2))
  | .memoryWrite a b => s.jtagReach op a (fun t => (t.spotWrite .host 0 a b).1.emit (.jtag 4 []))
  | .coreHalt d c => (s.jtagCore d c false).emit (.jtag 4 [])
  | .coreStep d c => (s.jtagCore d c true).emit (.jtag 4 [])
  | .scanDump => s.jtagFree 4 64

/-- JTAG_PRIVATE: register and memory access, core halt and step, scan dump, in Maintenance mode only. -/
def execJtagPrivate (op : JtagPrivate) (s : State) : Host.Outcome State Fault Refusal :=
  commit s (if s.maintMode then s.jtagRun op else s.jtagBlocked)

end Sys2Proof.Machine
end

