-- ==== Sys2Proof/Machine/Wake.lean ====
section
/-!
DEFINITION. The end of a power-state exit and of the Reservoir's initialisation, the accesses that were held meanwhile
(R34, R390, R392, R395, R396, R399), and a wake that does not come.
-/
namespace Sys2Proof.Machine

/-- A held access is tried again: it is performed, or held once more. -/
def State.retry (s : State) (h : Held) : State :=
  match h with
  | .hostRead a n => s.hostReadIn a n
  | .hostWrite a b ep => s.hostWriteIn a b ep
  | .packet port k mute =>
    if s.inCalm then s.hold h
    else if k.dst ≠ s.selfId then s.forward (dieOf (port / 12)) k
    else match s.spotWait k.addr with
    | .go => if mute then (s.servedRequest (dieOf (port / 12)) k).1 else s.serveRequest (dieOf (port / 12)) k
    | .held => s.hold h
    | .wake d => (s.wakeDie d).hold h
  | .mgmtRead asker a =>
    match manageRegister asker a s with
    | (t, some x) => t.answer asker x
    | (t, none) => t
  | .regWrite w a size v => s.registerWriteIn w a size v
  | .jtag op => s.jtagRun op

/-- Everything held is tried again, in order. -/
def State.runHeld (s : State) : State := (s.held.foldl State.retry { s with held := [] }).stir

/-- A die leaves Lull at 1.2 GHz (R390). -/
def State.leaveLull (s : State) (d : Die) : State :=
  let c := Nat.min 24 (s.clockLim d)
  let t := (((((s.stirLull d).setPower d 0).setFlag (pwrState d) 3 false).setClock d c).askVolt d (s.fusedMv c)).showTherm d
  t.setHk d { t.hk.get d with wakePending := false }

/-- The PHYs of the stacks and of the Reservoir calibrate, each until its safe point (R278, R392; that they do so after Calm
and at no other time is log 119's). -/
def State.askCalibration (s : State) : State :=
  let asks := (List.range 16).map (fun n => Activity.calibration (.phy n)) ++ (List.range 12).map (fun c => Activity.calibration (.rvrPhy c))
  asks.foldl State.askMaint s

/-- Both dies are in Lull again after Calm, the PHYs calibrate, and maintenance that waited begins (R392). -/
def State.leaveCalm (s : State) : State :=
  (bothDies.foldl (fun (t : State) d => (t.setPower d 1).setFlag (pwrState d) 3 false) s).askCalibration.startMaint

/-- POWER_EXIT_DONE: the exit that runs completes; from Calm it waits until the rails are back, and both dies are in Lull again
(R390, R392, R396). -/
def execPowerExitDone (die : Die) (s : State) : Host.Outcome State Fault Refusal :=
  commit s (
    if !s.exiting die then s
    else if s.power die = 1 then (s.leaveLull die).runHeld
    else if s.power die = 2 then (if bothDies.any s.voltWaits then s else s.leaveCalm.runHeld)
    else s)

/-- RESERVOIR_INIT_DONE: zero initialisation has ended, and boot is complete (R399 step 11). -/
def execReservoirInitDone (s : State) : Host.Outcome State Fault Refusal :=
  commit s (
    if s.isOff ∨ s.stage < 9 ∨ s.stage = 15 then s
    else (({ s with rvrInit := [] } : State).setStage 11).runHeld)

/-! ### Requests that a crossing does not carry (R24, R34) -/

/-- The error response of a request of another package; the manual names no status for it, and the model leaves it free among
those of R287 (log 5). -/
def State.remoteFails (s : State) (port : Nat) (k : Packet) : State :=
  ({ s with fresh := s.fresh + 1 } : State).respond (dieOf (port / 12)) k (1 + (Config.freeByte s.fresh).toNat % 6) []

/-- The error that the requester of a held access receives (R34). -/
def State.heldFails (s : State) (h : Held) : State :=
  match h with
  | .hostRead a _ => s.hostPoison a
  | .hostWrite _ _ _ => s.emit (.errNonfatal 3)
  | .packet port k mute => if mute then s else s.remoteFails port k
  | .mgmtRead asker _ => s.answer asker [4]
  | .regWrite w _ _ _ => s.emit (if w = .host then .errNonfatal 3 else .accessError w)
  | .jtag _ => s.emit (.jtag 4 [])

/-- The partition of a held access, and the page of the block that asked. -/
def Held.part : Held → Nat
  | .packet _ k _ => k.part
  | .regWrite w _ _ _ => w.part.getD 0
  | _ => 0
def State.heldPage (s : State) : Held → Nat
  | .packet port _ _ => vroutePage (dieOf (port / 12))
  | .mgmtRead _ _ => mgmtPg s.active
  | .jtag _ => mgmtPg s.active
  | _ => s.pciePage

/-- A layout descriptor whose transfer is lost stops with status 4 at its address (R142; DESIGN CHOICE, log 90). -/
def State.layoutFails (s : State) (d : Die) (p va : Nat) : State :=
  match s.layFront d p with
  | some x => if x.runs then s.setLayFront d { x with result := some (4, 0, w64 va) } else s
  | none => s

/-- A shadow descriptor whose transfer is lost ends with status 3 (R308; DESIGN CHOICE, log 90). -/
def State.shadowFails (s : State) (d : Die) : State :=
  match s.shadow.get d with
  | x :: _ => s.setShadowFront d { x with remoteErr := some (x.remoteErr.getD 3) }
  | [] => s

/-- The oldest descriptor of a DMA channel stops with an error (R416). -/
def State.dmaFails (s : State) (ch : Nat) : State :=
  if s.dmaWaits ch then s.dmaRun ch (fun t d => t.dmaEnd ch (some d) false) else s

/-- Results of a command that do not reach the Basin arrive there as an error (R204; DESIGN CHOICE, log 90). -/
def State.resultsLost (s : State) (n uid : Nat) : State :=
  match (s.stack n).cmd uid with
  | none => s
  | some c =>
    let d := cHome c.bytes
    let b := s.basin.get d
    let mine (a : Arrival) : Bool := a.stack == n && a.handle == cHandle c.bytes && a.gen == cGen c.bytes && a.member == cMember c.bytes
    { s with basin := s.basin.set d { b with arrivals := b.arrivals.map (fun a =>
        if mine a then { a with status := 2, parts := [], selRecord := [] } else a) } }

/-- A descriptor that a ring takes next cannot be read across the bridge: it is passed over (R47). -/
def State.ringFails (s : State) (d : Die) (ring : Nat) : State :=
  s.unreadLaunch d ring (s.ringNext d ring) (s.descPa d ring)

/-- A kernel image cannot be read across the bridge (R45, R47: cause 4). -/
def State.imageFails (s : State) (l : Launch) : State := s.unusable l l.kernelVa 4 0

/-- A done counter cannot be reached across the bridge: it stays as it is, and the launch completes as it would have
(DESIGN CHOICE, log 90). -/
def State.doneFails (s : State) (l : Launch) : State := s.setLaunch { l with donePa := none }

/-- A launch, by its place, at a stage of its life. -/
def State.launchAt (s : State) (d : Die) (ring index : Nat) (ok : Launch → Bool) : Option Launch :=
  s.launches.find? (fun l => l.key == launchKey d ring index && ok l)

/-- An access that lost its way reaches its requester as an error (R24, R34): whose partition it was, and what becomes of the
requester. None where no such transfer is under way. -/
def State.requester (s : State) (q : Requester) (addr : Nat) : Option (Option Nat × Nat × (State → State)) :=
  match q with
  | .strand i id =>
    (s.strand i.key).bind (fun x => (x.inflight.find? (fun m => m.id == id)).map (fun m =>
      (some x.part, s.corePage i.die i.core, fun t => t.failFlight i m (m.vaOf addr))))
  | .host w => some (none, s.pciePage, fun t => if w then t.emit (.errNonfatal 3) else t.hostPoison addr)
  | .remote port k => some (some k.part, vroutePage (dieOf (port / 12)), fun t => t.remoteFails port k)
  | .layout d p => if s.layReady d p then some (some p, layoutPage d, fun t => t.layoutFails d p addr) else none
  | .shadow d => ((s.shadow.get d).head?).map (fun x => (some x.part, vroutePage d, fun t => t.shadowFails d))
  | .dma ch => if s.dmaWaits ch then some (some 0, s.pciePage, fun t => t.dmaFails ch) else none
  | .stack n uid => ((s.stack n).cmd uid).map (fun c => (some c.part, sePage n, fun t => t.resultsLost n uid))
  | .schedRing d ring =>
    if s.mayRead d ring then some (some (ringPart ring), schedPage d, fun t => t.ringFails d ring) else none
  | .schedImage d ring idx =>
    (s.launchAt d ring idx (fun l => s.launchTurn l)).map (fun l => (some l.part, schedPage d, fun t => t.imageFails l))
  | .schedDone d ring idx =>
    (s.launchAt d ring idx (fun l => l.stage != .checked && l.stage != .done && l.donePa.isSome)).map (fun l =>
      (some l.part, schedPage d, fun t => t.doneFails l))
  | .scc => some (some 0, s.sccPage, fun t => t.emit (.accessError .scc))
  | .mgmt asker => some (none, mgmtPg s.active, fun t => t.answer asker [4])
  | .jtag => some (none, mgmtPg s.active, fun t => t.emit (.jtag 4 []))
  | .crossing =>
    (s.held.find? (fun h => h.addr == addr)).map (fun h =>
      (some h.part, s.heldPage h, fun t => ({ t with held := t.held.erase h } : State).heldFails h))

/-- BRIDGE_UNDELIVERABLE: a record that interrupts work, and the error of the requester: a strand halts with 0x08, the host
receives a poisoned completion, any other requester the error its own chapter gives it; the retries made in vain are counted
(R24). -/
def execBridgeUndeliverable (die : Die) (by_ : Requester) (addr retries : Nat) (s : State) : Host.Outcome State Fault Refusal :=
  commit s (
    match s.requester by_ addr with
    | none => s
    | some r => r.2.2 ((s.bridgeRetried die retries).bridgeLost die r.1 addr))

/-- DOMAIN_WAKE_TIMEOUT: the domain's clock has not run within 2 µs: the requester receives an error, and a record names the
domain: the block that found the fault, so that the record carries the event's flag (R34, R269). -/
def execDomainWakeTimeout (die : Die) (domain : Nat) (by_ : Requester) (addr : Nat) (s : State) :
    Host.Outcome State Fault Refusal :=
  commit s (
    if !s.domainStopped die domain then s
    else
      match s.requester by_ addr with
      | none => s
      | some r => r.2.2 (s.raise r.2.1 0x030D r.1 addr domain false true))

end Sys2Proof.Machine
end

