-- ==== Sys2Proof/Machine/Dispatch.lean ====
section
/-!
DEFINITION. One arm for each command: a direct call of its meaning.
-/
namespace Sys2Proof.Machine

/-- The effect of a command on everything but the queue. -/
def exec (i : Instr) (s : State) : Host.Outcome State Fault Refusal :=
  match i with
  | .nop sid str f => Sys2Proof.Machine.execNop sid str f s
  | .sli sid str f => Sys2Proof.Machine.execSli sid str f s
  | .sadd sid str f => Sys2Proof.Machine.execSadd sid str f s
  | .smul sid str f => Sys2Proof.Machine.execSmul sid str f s
  | .sand sid str f => Sys2Proof.Machine.execSand sid str f s
  | .sor sid str f => Sys2Proof.Machine.execSor sid str f s
  | .sxor sid str f => Sys2Proof.Machine.execSxor sid str f s
  | .sshl sid str f => Sys2Proof.Machine.execSshl sid str f s
  | .sshr sid str f => Sys2Proof.Machine.execSshr sid str f s
  | .srd sid str f => Sys2Proof.Machine.execSrd sid str f s
  | .sldp sid str f => Sys2Proof.Machine.execSldp sid str f s
  | .sstp sid str f => Sys2Proof.Machine.execSstp sid str f s
  | .br sid str f => Sys2Proof.Machine.execBr sid str f s
  | .dldi sid str f => Sys2Proof.Machine.execDldi sid str f s
  | .dld sid str f => Sys2Proof.Machine.execDld sid str f s
  | .dbase sid str f => Sys2Proof.Machine.execDbase sid str f s
  | .waitc sid str f => Sys2Proof.Machine.execWaitc sid str f s
  | .waitcReevaluate sid str => Sys2Proof.Machine.execWaitcReevaluate sid str s
  | .remoteWaitTimeout sid str => Sys2Proof.Machine.execRemoteWaitTimeout sid str s
  | .fence sid str f => Sys2Proof.Machine.execFence sid str f s
  | .yield sid str f => Sys2Proof.Machine.execYield sid str f s
  | .halt sid str f => Sys2Proof.Machine.execHalt sid str f s
  | .endStream sid str f => Sys2Proof.Machine.execEndStream sid str f s
  | .ld sid str f => Sys2Proof.Machine.execLd sid str f s
  | .st sid str f => Sys2Proof.Machine.execSt sid str f s
  | .gather sid str f => Sys2Proof.Machine.execGather sid str f s
  | .qpush sid str f => Sys2Proof.Machine.execQpush sid str f s
  | .qpop sid str f => Sys2Proof.Machine.execQpop sid str f s
  | .sta sid str f => Sys2Proof.Machine.execSta sid str f s
  | .atadd sid str f => Sys2Proof.Machine.execAtadd sid str f s
  | .sld sid str f => Sys2Proof.Machine.execSld sid str f s
  | .scmd sid str f => Sys2Proof.Machine.execScmd sid str f s
  | .sfence sid str f => Sys2Proof.Machine.execSfence sid str f s
  | .lxsub sid str f => Sys2Proof.Machine.execLxsub sid str f s
  | .memoryAnswer sid id => Sys2Proof.Machine.execMemoryAnswer sid id s
  | .mload sid str f => Sys2Proof.Machine.execMload sid str f s
  | .mma sid str f => Sys2Proof.Machine.execMma sid str f s
  | .vadd sid str f => Sys2Proof.Machine.execVadd sid str f s
  | .vsub sid str f => Sys2Proof.Machine.execVsub sid str f s
  | .vmul sid str f => Sys2Proof.Machine.execVmul sid str f s
  | .vfma sid str f => Sys2Proof.Machine.execVfma sid str f s
  | .vmax sid str f => Sys2Proof.Machine.execVmax sid str f s
  | .vmin sid str f => Sys2Proof.Machine.execVmin sid str f s
  | .vexp2 sid str f => Sys2Proof.Machine.execVexp2 sid str f s
  | .vlog2 sid str f => Sys2Proof.Machine.execVlog2 sid str f s
  | .vrcp sid str f => Sys2Proof.Machine.execVrcp sid str f s
  | .vrsq sid str f => Sys2Proof.Machine.execVrsq sid str f s
  | .vcvt sid str f => Sys2Proof.Machine.execVcvt sid str f s
  | .vrmax sid str f => Sys2Proof.Machine.execVrmax sid str f s
  | .vrsum sid str f => Sys2Proof.Machine.execVrsum sid str f s
  | .vfill sid str f => Sys2Proof.Machine.execVfill sid str f s
  | .xcopy sid str f => Sys2Proof.Machine.execXcopy sid str f s
  | .tmark sid str f => Sys2Proof.Machine.execTmark sid str f s
  | .tileWatchdogExpiry sid => Sys2Proof.Machine.execTileWatchdogExpiry sid s
  | .queueDeadlock sid => Sys2Proof.Machine.execQueueDeadlock sid s
  | .streamHoldExpiry die core str => Sys2Proof.Machine.execStreamHoldExpiry die core str s
  | .schedRingTailWrite who die ring value => Sys2Proof.Machine.execSchedRingTailWrite who die ring value s
  | .launchDescriptorCheck die ring => Sys2Proof.Machine.execLaunchDescriptorCheck die ring s
  | .launchResourced die ring index => Sys2Proof.Machine.execLaunchResourced die ring index s
  | .launchComplete die ring index => Sys2Proof.Machine.execLaunchComplete die ring index s
  | .launchDeadlinePass die ring index => Sys2Proof.Machine.execLaunchDeadlinePass die ring index s
  | .schedLaunchKill who die value => Sys2Proof.Machine.execSchedLaunchKill who die value s
  | .schedTlbInval who die word value => Sys2Proof.Machine.execSchedTlbInval who die word value s
  | .tlbInvalDone => Sys2Proof.Machine.execTlbInvalDone s
  | .schedPartCfgWrite who die off value => Sys2Proof.Machine.execSchedPartCfgWrite who die off value s
  | .schedMcastAllotWrite who die value => Sys2Proof.Machine.execSchedMcastAllotWrite who die value s
  | .mcastDeliver die entry sid => Sys2Proof.Machine.execMcastDeliver die entry sid s
  | .mcastHoldExpiry die entry => Sys2Proof.Machine.execMcastHoldExpiry die entry s
  | .turnEnd die core => Sys2Proof.Machine.execTurnEnd die core s
  | .turnIdleExpiry die core => Sys2Proof.Machine.execTurnIdleExpiry die core s
  | .turnSwitch die core => Sys2Proof.Machine.execTurnSwitch die core s
  | .killPointPark sid => Sys2Proof.Machine.execKillPointPark sid s
  | .strandResume sid part => Sys2Proof.Machine.execStrandResume sid part s
  | .layoutDescriptorCheck die part => Sys2Proof.Machine.execLayoutDescriptorCheck die part s
  | .layoutSlice die => Sys2Proof.Machine.execLayoutSlice die s
  | .layoutComplete die part => Sys2Proof.Machine.execLayoutComplete die part s
  | .layoutCancel who die value => Sys2Proof.Machine.execLayoutCancel who die value s
  | .layoutQlimitWrite who die value => Sys2Proof.Machine.execLayoutQlimitWrite who die value s
  | .stkModeWrite who stack value => Sys2Proof.Machine.execStkModeWrite who stack value s
  | .stkModeEntryDone stack half failed => Sys2Proof.Machine.execStkModeEntryDone stack half failed s
  | .stkModeExitDone stack half => Sys2Proof.Machine.execStkModeExitDone stack half s
  | .stkOwnDataWrite who stack value => Sys2Proof.Machine.execStkOwnDataWrite who stack value s
  | .stkQlimitWrite who stack value => Sys2Proof.Machine.execStkQlimitWrite who stack value s
  | .stkNop stack src => Sys2Proof.Machine.execStkNop stack src s
  | .attend stack src => Sys2Proof.Machine.execAttend stack src s
  | .gemv stack src => Sys2Proof.Machine.execGemv stack src s
  | .summarise stack src => Sys2Proof.Machine.execSummarise stack src s
  | .stkCmdQueueAdmit stack part => Sys2Proof.Machine.execStkCmdQueueAdmit stack part s
  | .sliceStart stack nbu => Sys2Proof.Machine.execSliceStart stack nbu s
  | .sliceEnd stack nbu => Sys2Proof.Machine.execSliceEnd stack nbu s
  | .selectionChunk stack => Sys2Proof.Machine.execSelectionChunk stack s
  | .stkCmdComplete stack uid => Sys2Proof.Machine.execStkCmdComplete stack uid s
  | .stkKill who stack part value => Sys2Proof.Machine.execStkKill who stack part value s
  | .stkKillAll who stack part value => Sys2Proof.Machine.execStkKillAll who stack part value s
  | .stkRecRdWrite who stack part value => Sys2Proof.Machine.execStkRecRdWrite who stack part value s
  | .nbuSelfcheckFail stack nbu => Sys2Proof.Machine.execNbuSelfcheckFail stack nbu s
  | .basinReservationGrant die part => Sys2Proof.Machine.execBasinReservationGrant die part s
  | .basinPartialArrival die => Sys2Proof.Machine.execBasinPartialArrival die s
  | .basinResultWrite die handle => Sys2Proof.Machine.execBasinResultWrite die handle s
  | .basinRsvRequest who die value => Sys2Proof.Machine.execBasinRsvRequest who die value s
  | .basinRsvCancel who die value => Sys2Proof.Machine.execBasinRsvCancel who die value s
  | .basinSlotAllotWrite who die value => Sys2Proof.Machine.execBasinSlotAllotWrite who die value s
  | .poolWayMaskWrite who die part value => Sys2Proof.Machine.execPoolWayMaskWrite who die part value s
  | .poolWayExclWrite who die value => Sys2Proof.Machine.execPoolWayExclWrite who die value s
  | .poolSweepDone die => Sys2Proof.Machine.execPoolSweepDone die s
  | .rvrMr4Poll c report => Sys2Proof.Machine.execRvrMr4Poll c report s
  | .rvrLinkLoss c => Sys2Proof.Machine.execRvrLinkLoss c s
  | .refreshWindowEnd res => Sys2Proof.Machine.execRefreshWindowEnd res s
  | .scrubVisit die inst => Sys2Proof.Machine.execScrubVisit die inst s
  | .scrubQueuedVisit die inst => Sys2Proof.Machine.execScrubQueuedVisit die inst s
  | .scrubPeriodWrite who die inst value => Sys2Proof.Machine.execScrubPeriodWrite who die inst value s
  | .scrubFlipArm who die inst value => Sys2Proof.Machine.execScrubFlipArm who die inst value s
  | .coreFlipArm who die inst value => Sys2Proof.Machine.execCoreFlipArm who die inst value s
  | .rowRepairRequest stack off => Sys2Proof.Machine.execRowRepairRequest stack off s
  | .rowRepairRun stack => Sys2Proof.Machine.execRowRepairRun stack s
  | .nbuSwapRequest stack nbu => Sys2Proof.Machine.execNbuSwapRequest stack nbu s
  | .nbuSwapRun stack dramDie => Sys2Proof.Machine.execNbuSwapRun stack dramDie s
  | .vcSwapRequest stack group conn => Sys2Proof.Machine.execVcSwapRequest stack group conn s
  | .vcSwapRun stack group => Sys2Proof.Machine.execVcSwapRun stack group s
  | .repairStarved stack => Sys2Proof.Machine.execRepairStarved stack s
  | .maintSafePoint res => Sys2Proof.Machine.execMaintSafePoint res s
  | .coreRetire who die inst value => Sys2Proof.Machine.execCoreRetire who die inst value s
  | .coreRetireMigrate die inst => Sys2Proof.Machine.execCoreRetireMigrate die inst s
  | .bridgeRetry die => Sys2Proof.Machine.execBridgeRetry die s
  | .bridgeUndeliverable die by_ addr retries => Sys2Proof.Machine.execBridgeUndeliverable die by_ addr retries s
  | .domainWake die domain request => Sys2Proof.Machine.execDomainWake die domain request s
  | .domainWakeTimeout die domain by_ addr => Sys2Proof.Machine.execDomainWakeTimeout die domain by_ addr s
  | .packetWrite port pkt => Sys2Proof.Machine.execPacketWrite port pkt s
  | .packetRead port pkt => Sys2Proof.Machine.execPacketRead port pkt s
  | .packetAtadd port pkt => Sys2Proof.Machine.execPacketAtadd port pkt s
  | .packetCount port pkt => Sys2Proof.Machine.execPacketCount port pkt s
  | .packetResponse port pkt => Sys2Proof.Machine.execPacketResponse port pkt s
  | .breeze from_ stamp split => Sys2Proof.Machine.execBreeze from_ stamp split s
  | .timeReq from_ t1 src => Sys2Proof.Machine.execTimeReq from_ t1 src s
  | .timeRsp from_ t1 t2 turn depth asymNs => Sys2Proof.Machine.execTimeRsp from_ t1 t2 turn depth asymNs s
  | .loss from_ stamp module reporter hops => Sys2Proof.Machine.execLoss from_ stamp module reporter hops s
  | .mgmtPacket port pkt req => Sys2Proof.Machine.execMgmtPacket port pkt req s
  | .reservedPacket port pkt => Sys2Proof.Machine.execReservedPacket port pkt s
  | .packetForward port pkt => Sys2Proof.Machine.execPacketForward port pkt s
  | .linkReplay ask => Sys2Proof.Machine.execLinkReplay ask s
  | .laneSpareSwap port lane => Sys2Proof.Machine.execLaneSpareSwap port lane s
  | .portDegrade port => Sys2Proof.Machine.execPortDegrade port s
  | .vlRetrain who port value => Sys2Proof.Machine.execVlRetrain who port value s
  | .retrainTimeout port => Sys2Proof.Machine.execRetrainTimeout port s
  | .vlEnableWrite who port value => Sys2Proof.Machine.execVlEnableWrite who port value s
  | .portTrained port partner partnerPort stamp lanes => Sys2Proof.Machine.execPortTrained port partner partnerPort stamp lanes s
  | .portSignalLoss port lanesLost => Sys2Proof.Machine.execPortSignalLoss port lanesLost s
  | .portSilence port => Sys2Proof.Machine.execPortSilence port s
  | .breezeIdleExpiry port => Sys2Proof.Machine.execBreezeIdleExpiry port s
  | .vcStall port vc falling => Sys2Proof.Machine.execVcStall port vc falling s
  | .respTimeout die reqId => Sys2Proof.Machine.execRespTimeout die reqId s
  | .lossGraceExpiry module => Sys2Proof.Machine.execLossGraceExpiry module s
  | .timeExchangeTick => Sys2Proof.Machine.execTimeExchangeTick s
  | .timeParentFailover => Sys2Proof.Machine.execTimeParentFailover s
  | .timeCfgWrite who die value => Sys2Proof.Machine.execTimeCfgWrite who die value s
  | .vlGUnitsWrite who port part value => Sys2Proof.Machine.execVlGUnitsWrite who port part value s
  | .vrouteRtDataWrite who die value => Sys2Proof.Machine.execVrouteRtDataWrite who die value s
  | .vrouteShadowSubmit who die value => Sys2Proof.Machine.execVrouteShadowSubmit who die value s
  | .shadowDescriptorRun die => Sys2Proof.Machine.execShadowDescriptorRun die s
  | .shadowDescriptorDone die => Sys2Proof.Machine.execShadowDescriptorDone die s
  | .vrouteShadowCancel who die value => Sys2Proof.Machine.execVrouteShadowCancel who die value s
  | .faultDlArm who die m value => Sys2Proof.Machine.execFaultDlArm who die m value s
  | .faultDlDisarm who die m value => Sys2Proof.Machine.execFaultDlDisarm who die m value s
  | .dlCounterChange die m => Sys2Proof.Machine.execDlCounterChange die m s
  | .dlDeadlinePass die m => Sys2Proof.Machine.execDlDeadlinePass die m s
  | .dlMaxLateExpiry die m => Sys2Proof.Machine.execDlMaxLateExpiry die m s
  | .submit e peersAccept => Sys2Proof.Machine.execSubmit e peersAccept s
  | .cancel e => Sys2Proof.Machine.execCancel e s
  | .resume e peersAccept => Sys2Proof.Machine.execResume e peersAccept s
  | .query e => Sys2Proof.Machine.execQuery e s
  | .releaseShadow e => Sys2Proof.Machine.execReleaseShadow e s
  | .loadModel e pkg => Sys2Proof.Machine.execLoadModel e pkg s
  | .unloadModel e => Sys2Proof.Machine.execUnloadModel e s
  | .setPolicy e part decodeW decodeL gapUs maxRequests holdS => Sys2Proof.Machine.execSetPolicy e part decodeW decodeL gapUs maxRequests holdS s
  | .sccSqTailWrite function pair value => Sys2Proof.Machine.execSccSqTailWrite function pair value s
  | .sccCqHeadWrite function pair value => Sys2Proof.Machine.execSccCqHeadWrite function pair value s
  | .sccQpCfgWrite function pair value => Sys2Proof.Machine.execSccQpCfgWrite function pair value s
  | .prefillDone slot => Sys2Proof.Machine.execPrefillDone slot s
  | .stepIssue part die monitor counter => Sys2Proof.Machine.execStepIssue part die monitor counter s
  | .stepCommit part => Sys2Proof.Machine.execStepCommit part s
  | .orphanHoldExpiry slot => Sys2Proof.Machine.execOrphanHoldExpiry slot s
  | .currentSample die samples voltsMv => Sys2Proof.Machine.execCurrentSample die samples voltsMv s
  | .powerExcursionTimer => Sys2Proof.Machine.execPowerExcursionTimer s
  | .clockRaiseTimer => Sys2Proof.Machine.execClockRaiseTimer s
  | .scanRound die facts => Sys2Proof.Machine.execScanRound die facts s
  | .throttleStepTimer die => Sys2Proof.Machine.execThrottleStepTimer die s
  | .tripCompare die diode reading => Sys2Proof.Machine.execTripCompare die diode reading s
  | .railOffStep die => Sys2Proof.Machine.execRailOffStep die s
  | .avsTransaction die answer => Sys2Proof.Machine.execAvsTransaction die answer s
  | .voltageSettled die => Sys2Proof.Machine.execVoltageSettled die s
  | .pllLockLoss die => Sys2Proof.Machine.execPllLockLoss die s
  | .pllLockRegain die => Sys2Proof.Machine.execPllLockRegain die s
  | .estimatorWindow die meanMa spread rates spreads coreMv => Sys2Proof.Machine.execEstimatorWindow die meanMa spread rates spreads coreMv s
  | .estimatorRegression die => Sys2Proof.Machine.execEstimatorRegression die s
  | .estimatorStale die => Sys2Proof.Machine.execEstimatorStale die s
  | .heartbeatSend die => Sys2Proof.Machine.execHeartbeatSend die s
  | .heartbeatRx die epoch claim stamp => Sys2Proof.Machine.execHeartbeatRx die epoch claim stamp s
  | .capCommandTimeout die => Sys2Proof.Machine.execCapCommandTimeout die s
  | .heartbeatLoss die peerLogRead => Sys2Proof.Machine.execHeartbeatLoss die peerLogRead s
  | .wedgeProbe die answered => Sys2Proof.Machine.execWedgeProbe die answered s
  | .sccBeatTimeout die => Sys2Proof.Machine.execSccBeatTimeout die s
  | .aliveLapse die => Sys2Proof.Machine.execAliveLapse die s
  | .lullIdleExpiry die => Sys2Proof.Machine.execLullIdleExpiry die s
  | .lullWake die => Sys2Proof.Machine.execLullWake die s
  | .calmIdleExpiry => Sys2Proof.Machine.execCalmIdleExpiry s
  | .calmWake => Sys2Proof.Machine.execCalmWake s
  | .watchCycle die facts meanMa => Sys2Proof.Machine.execWatchCycle die facts meanMa s
  | .powerEntryDone die => Sys2Proof.Machine.execPowerEntryDone die s
  | .coldReset => Sys2Proof.Machine.execColdReset s
  | .pkgRstAssert => Sys2Proof.Machine.execPkgRstAssert s
  | .pkgRstDeassert facts => Sys2Proof.Machine.execPkgRstDeassert facts s
  | .reservoirInitDone => Sys2Proof.Machine.execReservoirInitDone s
  | .pwrstReset who die value => Sys2Proof.Machine.execPwrstReset who die value s
  | .pwrstModuleIdWrite who die value => Sys2Proof.Machine.execPwrstModuleIdWrite who die value s
  | .perstAssert => Sys2Proof.Machine.execPerstAssert s
  | .functionLevelReset function => Sys2Proof.Machine.execFunctionLevelReset function s
  | .refclkLoss clk => Sys2Proof.Machine.execRefclkLoss clk s
  | .cfgStoreWrite area => Sys2Proof.Machine.execCfgStoreWrite area s
  | .cfgStoreOp => Sys2Proof.Machine.execCfgStoreOp s
  | .cfgStoreWriteDone => Sys2Proof.Machine.execCfgStoreWriteDone s
  | .cfgstSvnCommit who value => Sys2Proof.Machine.execCfgstSvnCommit who value s
  | .hostRead addr len => Sys2Proof.Machine.execHostRead addr len s
  | .hostWrite addr bytes ep => Sys2Proof.Machine.execHostWrite addr bytes ep s
  | .dmaTailWrite who ch value => Sys2Proof.Machine.execDmaTailWrite who ch value s
  | .dmaDescriptorRun ch answer => Sys2Proof.Machine.execDmaDescriptorRun ch answer s
  | .dmaHostReadTimeout ch => Sys2Proof.Machine.execDmaHostReadTimeout ch s
  | .mctpControl msg => Sys2Proof.Machine.execMctpControl msg s
  | .pldmSensorRead sensor => Sys2Proof.Machine.execPldmSensorRead sensor s
  | .pldmFirmwareUpdate req => Sys2Proof.Machine.execPldmFirmwareUpdate req s
  | .vendorFaultLogRead die index => Sys2Proof.Machine.execVendorFaultLogRead die index s
  | .vendorRegisterRead addr => Sys2Proof.Machine.execVendorRegisterRead addr s
  | .vendorPackageReset => Sys2Proof.Machine.execVendorPackageReset s
  | .maintenanceChallenge => Sys2Proof.Machine.execMaintenanceChallenge s
  | .maintenanceResponse keySlot signature => Sys2Proof.Machine.execMaintenanceResponse keySlot signature s
  | .jtagBypass => Sys2Proof.Machine.execJtagBypass s
  | .jtagIdcode => Sys2Proof.Machine.execJtagIdcode s
  | .jtagSamplePreload => Sys2Proof.Machine.execJtagSamplePreload s
  | .jtagExtest => Sys2Proof.Machine.execJtagExtest s
  | .jtagPrivate op => Sys2Proof.Machine.execJtagPrivate op s
  | .blkLockWrite who page value => Sys2Proof.Machine.execBlkLockWrite who page value s
  | .blkCtrlFreeze who page value => Sys2Proof.Machine.execBlkCtrlFreeze who page value s
  | .blkCtrlClear who page value => Sys2Proof.Machine.execBlkCtrlClear who page value s
  | .blkIrqClear who page value => Sys2Proof.Machine.execBlkIrqClear who page value s
  | .faultRecordWrite page => Sys2Proof.Machine.execFaultRecordWrite page s
  | .faultLogIdxWrite who die value => Sys2Proof.Machine.execFaultLogIdxWrite who die value s
  | .faultLogRdWrite who die value => Sys2Proof.Machine.execFaultLogRdWrite who die value s
  | .registerWrite who addr size value => Sys2Proof.Machine.execRegisterWrite who addr size value s
  | .partnerSignalDetect port => Sys2Proof.Machine.execPartnerSignalDetect port s
  | .powerExitDone die => Sys2Proof.Machine.execPowerExitDone die s
  | .perstDeassert => Sys2Proof.Machine.execPerstDeassert s
  | .railLoss rail => Sys2Proof.Machine.execRailLoss rail s
  | .spareWaitExpiry slot => Sys2Proof.Machine.execSpareWaitExpiry slot s
  | .repairHoldExpiry stack half => Sys2Proof.Machine.execRepairHoldExpiry stack half s

end Sys2Proof.Machine
end

