-- ==== Sys2Proof/Safety.lean ====
section
/-!
DEFINITION. What counts as a safe run, and the words the statements are written in: when a stream takes up an instruction,
what taking it up changes, and what a command answers.
-/
namespace Sys2Proof

open Machine

/-- No write is left over between steps, and memory keeps its canonical form. -/
def Safe (s : Machine.State) : Prop := Memory.wf s.mem = true ∧ s.bus = []

namespace Machine

/-- A strand with its status and the time it began to wait left out: R42 gives the status from what the streams do. -/
def Strand.still (x : Strand) : Strand := { x with stat := .ready, lastRun := 0 }

/-- Stream `str` of strand `x` may take up its next instruction now (R91, R92), and the instruction is fetched (R82). -/
def Issues (s : State) (i : Sid) (str : Stream) (x : Strand) : Prop :=
  s.bus = [] ∧ s.strand i.key = some x ∧ s.mayIssue i str x = true ∧ s.fetchBad i str x = none

/-- `t` is `s` with the stream of the core given to strand `i` (R92), and `y` is that strand in `t`: no register, queue,
instruction in flight or other piece of a strand differs but a status with the time it changed, the cause the stream last waited for, and the mark of
a TMARK just committed; of the core only the stream's holder and the single step of JTAG may differ. -/
structure Taken (s : State) (i : Sid) (str : Stream) (x : Strand) (t : State) (y : Strand) : Prop where
  rest : t = { s with strands := t.strands, cores := t.cores }
  here : t.strand i.key = some y
  same : y = { x.takes str with stat := y.stat, lastRun := y.lastRun }
  others : ∀ k, k ≠ i.key → (t.strand k).map Strand.still = (s.strand k).map Strand.still
  holds : (t.core i.die i.core).hold str = some i.ctx
  core : t.core i.die i.core = (s.core i.die i.core).taken str i.ctx (s.time8 i.die)
  cores : ∀ d n, coreKey d n ≠ coreKey i.die i.core → t.core d n = s.core d n

/-- The stream commits an instruction: the strand's registers become those of `z`, the pc passes the instruction, and
nothing else differs from `t`. -/
def Commits (c : Instr) (s : State) (i : Sid) (str : Stream) (t : State) (z : Strand) : Prop :=
  exec c s = .next (t.setStrand i.key (z.advance str))

/-- The command answers a next state: `t` with the writes it made put into memory, and the queue as it was. -/
def Does (c : Instr) (s t : State) : Prop :=
  exec c s = .next { t with mem := replay s.mem t.bus, bus := [], pending := s.pending }

/-- The command answers exactly `t`. -/
def Answers (c : Instr) (s t : State) : Prop := exec c s = .next t

/-- Ring `r` reads its next descriptor from memory that can be read, and its done counter, if it names one, lies in this
package: `l` is the launch it gives, and `u` the state with that launch entered in step 1 of R46. -/
def Reads (s : State) (d : Die) (r : Nat) (u : State) (l : Launch) : Prop :=
  s.mayRead d r = true ∧ s.descReadable (s.descPa d r) = true ∧ ∃ t v a m,
    (s.countStack (ringPart r) (s.descPa d r) 128).demand (askedBy (schedPage d) 0x12) (some (ringPart r)) (s.descPa d r) 128 = (t, none) ∧
    m = launchOf d r (s.ringNext d r) (s.descPa d r) (t.bytes (s.descPa d r) 128) t ∧
    (t.undoom m.key).doneAt d m.part (leAt (t.bytes (s.descPa d r) 128) 0x30 8) = (v, .inr a) ∧
    l = m.withDone a ∧ u = v.addLaunch l

/-- A tensor instruction of the execute stream that issues: its checks give a halt reason, or a plan that `runPlan` carries
out (R74, R78, R86). Where no operand is a queue, every span is in order and every source delivers its elements `l`, the
plan's results are placed in the scratchpad and the pc passes the instruction. -/
def Tensors (c : Instr) (s : State) (i : Sid) (x : Strand) (plan : Strand → State → Nat ⊕ Plan) : Prop :=
  ∃ y, Taken s i .execute x (s.takeStream i .execute x) y ∧
    (∀ r, plan y (s.takeStream i .execute x) = .inl r → Does c s ((s.takeStream i .execute x).halt i .execute r)) ∧
    ∀ p, plan y (s.takeStream i .execute x) = .inr p →
      Does c s (runPlan i .execute p y (s.takeStream i .execute x)) ∧
      (x.prog .execute = none → spanHalt y .execute p = none → (∀ o ∈ p.srcs ++ p.dsts, ∃ n, o.sel = .desc n) →
        ∀ u l, readSrcs i y .execute (fun _ => []) 0 p.srcs ((s.takeStream i .execute x).setStrand i.key y) = (u, none, l) →
        ∀ t z, t = (placeDsts i y .execute p.dsts (p.compute l u).1 (p.compute l u).2).1 → t.strand i.key = some z →
          Does c s (t.setStrand i.key (z.advance .execute)))

/-- The descriptor that an operand field names in the execute stream (R80). -/
def Strand.named (x : Strand) (o : BitVec 6) : Desc := descOf (x.dreg .execute o.toNat)

/-- An operand field names a descriptor that passes its own checks: no reserved esize or size, no stride below a byte, as a
destination no repeating dimension, its base aligned and its span in the scratchpad (R75, R76, R78, R80, R82). -/
def Strand.operandOk (x : Strand) (o : BitVec 6) (align : Nat) (dest : Bool) : Prop :=
  o.toNat < 32 ∧ (x.named o).reservedBad = false ∧ (x.named o).subByteBad = false ∧ (dest = true → (x.named o).repeats = false) ∧
    (x.named o).base % align = 0 ∧ 0 ≤ (x.named o).span.1 ∧ (x.named o).span.2 ≤ (spadBytes : Int)

/-- No byte of a source lies in a word with an error (R74, R263). -/
def State.sourceSound (s : State) (i : Sid) (d : Desc) : Prop :=
  ∀ p ∈ d.pieces, s.badUnits ((spadBase i.die i.core : Int) + d.base + p.1).toNat p.2 = []

/-- The elements that a descriptor names in a strand's scratchpad, and results put there. -/
def State.elemsOf (s : State) (i : Sid) (d : Desc) : List Nat := s.operandElems (spadBase i.die i.core) d
def State.putElems (s : State) (i : Sid) (d : Desc) (l : List Nat) : State := s.putOperand (spadBase i.die i.core) d l

/-- A tensor instruction of the execute stream completes: the stream is the strand's, `effect` is made whole, and the pc passes
the instruction. -/
def Completes (c : Instr) (s : State) (i : Sid) (x : Strand) (effect : State → State) : Prop :=
  ∃ y z, Taken s i .execute x (s.takeStream i .execute x) y ∧
    (effect ((s.takeStream i .execute x).setStrand i.key y)).strand i.key = some z ∧
    Does c s ((effect ((s.takeStream i .execute x).setStrand i.key y)).setStrand i.key (z.advance .execute))

end Machine

end Sys2Proof
end

