-- ==== Sys2Proof/Certificates/Slice0/Obligations.lean ====
section
/-!
DEFINITION. The statements for the provers. `Does c s t` says that exec of the command answers exactly `t`, with the writes
`t` made put into memory and the queue as it was, so every such statement is a completion statement and gives the frame:
whatever of the state the expression for `t` does not change is unchanged. `Issues`, `Taken`, `Commits` and `Tensors` (in
Safety.lean) say the same of an instruction that a stream issues.
-/
open Sys2Proof Sys2Proof.Machine

/-! ### The machine as a whole -/

/-- Block rule: a step takes the command at the front of the queue and runs it with the queue's rest. -/
def Obligations.StepRunsFront : Prop :=
  ∀ (c : Instr) (r : List Instr) (s : State), s.pending = c :: r → step s = exec c { s with pending := r }

/-- Every command of the table answers a next state, never a fault or a refusal, and leaves the queue alone. On an empty queue 1
ns passes and the step goes on (the model's choice, log 18): system time moves by 1 ns, and memory, strands, launches and
the queue stay as they were. -/
def Obligations.EveryStepAnswers : Prop :=
  (∀ (c : Instr) (s : State), ∃ t, exec c s = .next t ∧ t.pending = s.pending ∧ t.bus = []) ∧
  (∀ s : State, s.pending = [] → ∃ t, step s = .next t ∧ t.now = s.now + 1 ∧ t.pending = [] ∧ t.mem = s.mem ∧
    t.strands = s.strands ∧ t.launches = s.launches ∧ t.units = s.units)

/-- Every step keeps memory in its canonical form with no write left over: an invariant of the model's own memory (log 2). -/
def Obligations.StepKeepsMemoryForm : Prop :=
  ∀ s t : State, Safe s → step s = .next t → Safe t

/-! ### Strands: scalar instructions, branches and waits -/

/-- R67: s0 reads as zero and discards writes; any other scalar register holds what was last written, and a write changes no
register of the other stream and no other register. -/
def Obligations.ScalarRegisters : Prop :=
  ∀ (x : Strand) (str : Stream) (r : BitVec 4) (v : Word),
    x.sreg str 0 = 0 ∧ x.setSreg str 0 v = x ∧
    (r ≠ 0 → (x.setSreg str r v).sreg str r = v) ∧
    (∀ (str' : Stream) (r' : BitVec 4), str' ≠ str ∨ r' ≠ r → (x.setSreg str r v).sreg str' r' = x.sreg str' r') ∧
    x.setSreg str r v = { x with scal := (x.setSreg str r v).scal }

/-- R84, the scalar instructions: an instruction that issues, with none of its registers awaiting an SLD or ATADD (R72), writes
rd and passes. What `Taken` leaves and `Commits` writes is all that changes. -/
def Obligations.ScalarResults : Prop :=
  ∀ (s : State) (i : Sid) (str : Stream) (f : SF) (x : Strand), Issues s i str x →
    x.isBusy str [f.rd, f.rs1, f.rs2] = false → ∃ t y, Taken s i str x t y ∧
      Commits (.nop i str f) s i str t y ∧
      Commits (.sli i str f) s i str t (y.setSreg str f.rd f.imm) ∧
      Commits (.sadd i str f) s i str t (y.setSreg str f.rd (x.sreg str f.rs1 + x.sreg str f.rs2 + f.imm)) ∧
      Commits (.smul i str f) s i str t (y.setSreg str f.rd (x.sreg str f.rs1 * x.sreg str f.rs2)) ∧
      Commits (.sand i str f) s i str t (y.setSreg str f.rd (x.sreg str f.rs1 &&& x.sreg str f.rs2)) ∧
      Commits (.sor i str f) s i str t (y.setSreg str f.rd (x.sreg str f.rs1 ||| x.sreg str f.rs2)) ∧
      Commits (.sxor i str f) s i str t (y.setSreg str f.rd (x.sreg str f.rs1 ^^^ x.sreg str f.rs2)) ∧
      Commits (.sshl i str f) s i str t
        (y.setSreg str f.rd (x.sreg str f.rs1 <<< ((x.sreg str f.rs2 + f.imm).toNat % 64))) ∧
      Commits (.sshr i str f) s i str t
        (y.setSreg str f.rd (x.sreg str f.rs1 >>> ((x.sreg str f.rs2 + f.imm).toNat % 64)))

/-- R84, SRD: rd takes the special register imm[7:0]; a reserved number halts the strand with 0x02 (R100). -/
def Obligations.SpecialRegisters : Prop :=
  ∀ (s : State) (i : Sid) (str : Stream) (f : SF) (x : Strand), Issues s i str x → x.isBusy str [f.rd] = false →
    ∃ t y, Taken s i str x t y ∧
      (∀ n v, (n, v) ∈ [(0, w64 i.core), (1, w64 i.die.idx), (2, w64 i.ctx), (3, w64 x.index), (4, w64 x.part), (5, x.argVa),
          (6, w64 s.now), (7, w64 ((x.cycles + (s.cycle8.get i.die - x.cycSince)) / 8000)), (8, w64 x.tiles)] →
        f.imm.toNat % 256 = n → Commits (.srd i str f) s i str t (y.setSreg str f.rd v)) ∧
      (8 < f.imm.toNat % 256 → Does (.srd i str f) s (t.halt i str 0x02))

/-- R84, BR: conditions 0 to 6; the target counts from the BR itself, 16 B an instruction; 7 to 15 halt with 0x02. -/
def Obligations.Branches : Prop :=
  ∀ (s : State) (i : Sid) (str : Stream) (f : SF) (x : Strand), Issues s i str x →
    x.isBusy str [f.rs1, f.rs2] = false → ∃ t y, Taken s i str x t y ∧
      (∀ c h, (c, h) ∈ [(0, True), (1, x.sreg str f.rs1 = x.sreg str f.rs2), (2, x.sreg str f.rs1 ≠ x.sreg str f.rs2),
          (3, (x.sreg str f.rs1).toInt < (x.sreg str f.rs2).toInt), (4, (x.sreg str f.rs2).toInt ≤ (x.sreg str f.rs1).toInt),
          (5, (x.sreg str f.rs1).toNat < (x.sreg str f.rs2).toNat),
          (6, (x.sreg str f.rs2).toNat ≤ (x.sreg str f.rs1).toNat)] → f.rd.toNat = c →
        (h → Answers (.br i str f) s
          (t.setStrand i.key (y.setPc str (unsignedOf ((x.pc str : Int) + 16 * f.imm.toInt) 64)))) ∧
        (¬ h → Commits (.br i str f) s i str t y)) ∧
      (6 < f.rd.toNat → Does (.br i str f) s (t.halt i str 0x02))

/-- R84, the strand's own scratchpad: an aligned address inside it, in no conflict with an instruction in flight (R72) and,
where it is read, free of uncorrectable words. SLDP and DLD read it, a demand read that counts a corrected word, and leave
memory alone; SSTP stores 8 B at it. R84: SLDP, SSTP and DLD halt with 0x0B where misaligned and with 0x04 where they reach
outside the scratchpad, before they have any effect. -/
def Obligations.OwnScratchpad : Prop :=
  (∀ (s : State) (i : Sid) (str : Stream) (f : SF) (x : Strand) (a : Nat), Issues s i str x →
    a = (x.sreg str f.rs1 + f.imm).toNat →
    ∃ t y, Taken s i str x t y ∧
      (x.isBusy str [f.rd, f.rs1] = false → a % 8 = 0 → a + 8 ≤ 0x180000 →
        x.spanBusy str ((a : Int), (a : Int) + 8) false = false → s.firstBad (spadBase i.die i.core + a) 8 = none →
        Does (.sldp i str f) s ((t.demand 1 (some x.part) (spadBase i.die i.core + a) 8).1.setStrand i.key
          ((y.setSreg str f.rd (w64 (s.load (spadBase i.die i.core + a) 8))).advance str))) ∧
      (x.isBusy str [f.rs1] = false → a % 32 = 0 → a + 32 ≤ 0x180000 →
        x.spanBusy str ((a : Int), (a : Int) + 32) false = false → s.firstBad (spadBase i.die i.core + a) 32 = none →
        Does (.dld i str f) s ((t.demand 1 (some x.part) (spadBase i.die i.core + a) 32).1.setStrand i.key
          ((y.setDreg str f.rd.toNat (BitVec.ofNat 256 (s.load (spadBase i.die i.core + a) 32))).advance str))) ∧
      (x.isBusy str [f.rs1, f.rs2] = false → a % 8 = 0 → a + 8 ≤ 0x180000 →
        x.spanBusy str ((a : Int), (a : Int) + 8) true = false →
        Does (.sstp i str f) s ((t.storeBytes (spadBase i.die i.core + a)
          (leBytes 8 (x.sreg str f.rs2).toNat)).setStrand i.key (y.advance str)))) ∧
  (∀ (s : State) (i : Sid) (str : Stream) (f : SF) (x : Strand) (a : Nat), Issues s i str x →
    x.isBusy str [f.rd, f.rs1, f.rs2] = false → a = (x.sreg str f.rs1 + f.imm).toNat →
    ∃ t y, Taken s i str x t y ∧
      (a % 8 ≠ 0 → Does (.sldp i str f) s (t.haltStrand i 0x0B a) ∧ Does (.sstp i str f) s (t.haltStrand i 0x0B a)) ∧
      (a % 32 ≠ 0 → Does (.dld i str f) s (t.haltStrand i 0x0B a)) ∧
      (a % 8 = 0 → 0x180000 < a + 8 → Does (.sldp i str f) s (t.halt i str 0x04) ∧ Does (.sstp i str f) s (t.halt i str 0x04)) ∧
      (a % 32 = 0 → 0x180000 < a + 32 → Does (.dld i str f) s (t.halt i str 0x04)))

/-- R84, descriptors from the image and their base: DLDI takes 32 B of the image, DBASE writes bits 20:0 of the descriptor. -/
def Obligations.Descriptors : Prop :=
  ∀ (s : State) (i : Sid) (str : Stream) (f : SF) (x : Strand), Issues s i str x → ∃ t y, Taken s i str x t y ∧
    (x.isBusy str [f.rs1] = false → Commits (.dbase i str f) s i str t (y.setDreg str f.rd.toNat
      (BitVec.ofNat 256 (setBits (x.dreg str f.rd.toNat).toNat 0 21 (x.sreg str f.rs1 + f.imm).toNat)))) ∧
    (∀ m, s.imageOf i x = some m → f.imm.toNat % 32 = 0 → f.imm.toNat + 32 ≤ x.imageLen →
      (∀ o ∈ m.bad, ¬ (o < f.imm.toNat + 32 ∧ f.imm.toNat < o + 8)) →
      Commits (.dldi i str f) s i str t (y.setDreg str f.rd.toNat
        (BitVec.ofNat 256 (leNat ((List.range 32).map (fun k => memGet m.bytes (f.imm.toNat + k))))))) ∧
    (f.imm.toNat % 32 ≠ 0 → Does (.dldi i str f) s (t.haltStrand i 0x0B f.imm.toNat)) ∧
    (f.imm.toNat % 32 = 0 → x.imageLen < f.imm.toNat + 32 → Does (.dldi i str f) s (t.halt i str 0x0D))

/-- R84, R222, R92, R71: FENCE passes once the stream has no memory instruction in flight; YIELD commits and offers the stream
to another strand of at least its priority; HALT halts with 0x0F; END ends its stream, and the strand where the other has
ended. -/
def Obligations.EndingInstructions : Prop :=
  ∀ (s : State) (i : Sid) (str : Stream) (f : SF) (x : Strand), Issues s i str x → ∃ t y, Taken s i str x t y ∧
    (str = .execute ∨ x.inflight = [] → Commits (.fence i str f) s i str t y) ∧
    Does (.yield i str f) s ((t.setStrand i.key (y.advance str)).switchStream i.die i.core str
      (fun j z => j != i.ctx && decide (x.prio ≤ z.prio))) ∧
    Does (.halt i str f) s (t.haltStrand i 0x0F
      (x.pc str % 2 ^ 17 + streamIdx str * 2 ^ 17 + f.imm.toNat % 2 ^ 32 * 2 ^ 32)) ∧
    (str = .access → x.endE = false → Does (.endStream i str f) s
      ((t.setStrand i.key { y with endA := true }).restatCore i.die i.core)) ∧
    (str = .execute → x.endA = false → Does (.endStream i str f) s
      ((t.setStrand i.key { y with endE := true }).restatCore i.die i.core)) ∧
    (x.endA = true ∨ str = .access → x.endE = true ∨ str = .execute → x.queues = [] → Does (.endStream i str f) s
      (((((t.setStrand i.key { y with endA := true, endE := true }).breakGroups { y with endA := true, endE := true }).setStrand
        i.key { (({ y with endA := true, endE := true } : Strand).cleared .free) with inflight := y.inflight }).dropHolds
        i).restatCore i.die i.core))

/-- R97, R98: a waiting WAITC that reads a counter at or past its target commits, and rd holds the value observed; one that
falls short waits on, or halts with 0x0A once it has been resident for its timeout. R97: a WAITC whose counter is aligned
and translates to memory of its own package registers with the arrive block of the counter's die and is evaluated once; a
timeout of 0 is reserved and a misaligned counter halts. -/
def Obligations.CounterWaits : Prop :=
  (∀ (s : State) (i : Sid) (str : Stream) (x : Strand) (w : CtrWait), s.bus = [] → s.strand i.key = some x →
    x.ctrWait str = some w → x.active = true → x.atHalt = false → s.coreClock i.die = true → x.waitBehind str w = false →
    s.lostAt w.pa = false → s.badUnits w.pa 8 = [] →
    ∀ v : Word, v = w64 (s.load w.pa 8) →
      (w.target.toNat ≤ v.toNat → str = .access →
        Does (.waitcReevaluate i str) s
          ((((if v = w.seen then s else s.bump (pg (homeDie w.pa) Blk.arrive 0) 0x044 32 1).countRvr w.pa false 8).setStrand i.key
            ((((x.setCtrWait str none).setSaved str none).setSreg str (BitVec.ofNat 4 w.rd) v).advance str)).restatCore
            i.die i.core)) ∧
      (v.toNat < w.target.toNat → v = w.seen → w.elapsed s i.die < w.timeoutUs * 8000 →
        Does (.waitcReevaluate i str) s
          (((s.countRvr w.pa false 8).setStrand i.key (x.setCtrWait str (some { w with seen := v }))).restatCore i.die i.core)) ∧
      (v.toNat < w.target.toNat → w.since8 + (w.timeoutUs * 8000 - w.elapsed8) ≤ s.time8 i.die → w.since8 ≤ s.time8 i.die →
        Does (.remoteWaitTimeout i str) s ((s.countRvr w.pa false 8).halt i str 0x0A))) ∧
  (∀ (s : State) (i : Sid) (f : SF) (x : Strand) (va : Nat), Issues s i .access x →
    x.isBusy .access [f.rd, f.rs1, f.rs2] = false →
    va = (x.sreg .access f.rs1 + w64 (unsignedOf (signed f.imm.toNat 32) 64)).toNat → ∃ t y, Taken s i .access x t y ∧
      (f.imm.toNat / 2 ^ 32 = 0 → Does (.waitc i .access f) s (t.halt i .access 0x02)) ∧
      (f.imm.toNat / 2 ^ 32 ≠ 0 → va % 8 ≠ 0 → Does (.waitc i .access f) s (t.haltStrand i 0x0B va)) ∧
      (∀ u ga pool, f.imm.toNat / 2 ^ 32 ≠ 0 → va % 8 = 0 → t.coreTranslate i.die i.core x.part va .r = (u, .ok ga pool) →
        u.counterBad x.part ga = none → Does (.waitc i .access f) s
          (evalWait i .access ⟨va, gaLocal ga, x.sreg .access f.rs2, f.rd.toNat, f.imm.toNat / 2 ^ 32,
            (x.saved .access).getD 0, u.time8 i.die, 0⟩ y
            (u.bump (pg (homeDie (gaLocal ga)) Blk.arrive 0) 0x040 32 1))))

/-! ### Strands: memory, queues and commands -/

/-- R85, R88: an LD that is not multicast, whose operands are in order and whose virtual span translates to mapped memory,
leaves its stream and stands in flight (into the scratchpad), or holds its stream with room in its queue (into a queue). -/
def Obligations.LoadsBegin : Prop :=
  ∀ (s : State) (i : Sid) (f : MF) (x : Strand) (n : Nat), Issues s i .access x → mfReserved f = false → f.rt = 0 →
    selOf f.opM = .desc n → ∃ y, Taken s i .access x (s.takeStream i .access x) y ∧
      (y.isBusy .access [f.rs, f.rt] = false → y.selBad .access true (selOf f.opS) = none → y.shapeBad (.desc n) = none →
        ∀ m, m = descOf (x.dreg .access n) → mfAddr y f % runBytes 1 m.width = 0 →
        ∀ u runs, (s.takeStream i .access x).placeRuns i y.part .r m.width (shapeRuns m (mfAddr y f)) = (u, .inr runs) →
          u.unmapped y.part runs = none →
          (∀ k d, selOf f.opS = .desc k → d = descOf (x.dreg .access k) → d.esize = m.esize → d.elems = m.elems →
            padHalt d = none → y.spanBusy .access d.span true = false →
            u.memRoom i y { Inflight.fresh .ld runs false (.spad (padRuns i d) m.width) with
              spans := [(d.span.1, d.span.2, true)] } = true →
            Does (.ld i .access f) s (u.beginMem i y { Inflight.fresh .ld runs false (.spad (padRuns i d) m.width) with
              spans := [(d.span.1, d.span.2, true)] } false)) ∧
          (∀ q, selOf f.opS = .queue q → (y.queue q).length < 32 →
            u.memRoom i y (Inflight.fresh .ld runs false (.queue q m.width)) = true →
            Does (.ld i .access f) s (u.beginMem i y (Inflight.fresh .ld runs false (.queue q m.width)) true)))

/-- R85, R88: a GATHER into the scratchpad whose 32-bit indices can be read has one run for each row, at rs + imm + idx[k] ×
s[rt], and stands in flight; one into a queue holds its stream. -/
def Obligations.GathersBegin : Prop :=
  ∀ (s : State) (i : Sid) (f : MF) (x : Strand) (n k : Nat), Issues s i .access x → mfReserved f = false →
    selOf f.opM = .desc n → selOf f.opX = .desc k → ∃ y, Taken s i .access x (s.takeStream i .access x) y ∧
      (y.isBusy .access [f.rs, f.rt] = false → y.selBad .access true (selOf f.opS) = none → y.shapeBad (.desc n) = none →
        y.selBad .access false (.desc k) = none →
        ∀ m ix, m = descOf (x.dreg .access n) → ix = descOf (x.dreg .access k) → ix.esize = 4 → padHalt ix = none →
        y.spanBusy .access ix.span false = false →
        ∀ t, (s.takeStream i .access x).demandOperand y.part (spadBase i.die i.core) ix = (t, none) →
        ∀ starts, starts = (t.operandElems (spadBase i.die i.core) ix).map (fun e =>
            va64 ((mfAddr y f : Int) + signed e 32 * (y.sreg .access f.rt).toInt)) →
          (∀ a ∈ starts, a % runBytes 1 m.width = 0) →
        ∀ u runs, t.placeRuns i y.part .r m.width (starts.flatMap (shapeRuns m)) = (u, .inr runs) → u.unmapped y.part runs = none →
          (∀ j d, selOf f.opS = .desc j → d = descOf (x.dreg .access j) → d.esize = m.esize → d.elems = ix.elems * m.elems →
            padHalt d = none → spansMeet d.span ix.span = false → y.spanBusy .access d.span true = false →
            u.memRoom i y { Inflight.fresh .gather runs false (.spad (padRuns i d) m.width) with
              spans := [(ix.span.1, ix.span.2, false), (d.span.1, d.span.2, true)], value := w64 ix.elems } = true →
            Does (.gather i .access f) s (u.beginMem i y { Inflight.fresh .gather runs false (.spad (padRuns i d) m.width) with
              spans := [(ix.span.1, ix.span.2, false), (d.span.1, d.span.2, true)], value := w64 ix.elems } false)) ∧
          (∀ q, selOf f.opS = .queue q → (y.queue q).length < 32 →
            u.memRoom i y { Inflight.fresh .gather runs false (.queue q m.width) with
              spans := [(ix.span.1, ix.span.2, false)], value := w64 ix.elems } = true →
            Does (.gather i .access f) s (u.beginMem i y { Inflight.fresh .gather runs false (.queue q m.width) with
              spans := [(ix.span.1, ix.span.2, false)], value := w64 ix.elems } true)))

/-- R85, R89: an ST or STA whose operands are in order and whose span translates to mapped memory takes its data and stands in
flight; an STA carries the place of its counter. From the scratchpad it leaves its stream at once; `startStore` says how a
queue source is awaited (R69). -/
def Obligations.StoresBegin : Prop :=
  ∀ (s : State) (i : Sid) (f : MF) (x : Strand) (n : Nat), Issues s i .access x → mfReserved f = false →
    selOf f.opM = .desc n → ∃ y, Taken s i .access x (s.takeStream i .access x) y ∧
      (y.isBusy .access [f.rs, f.rt] = false → y.selBad .access false (selOf f.opS) = none → y.shapeBad (.desc n) = none →
        ∀ m, m = descOf (x.dreg .access n) → m.repeats = false →
        (∀ d, y.descAt .access (selOf f.opS) = some d → d.esize = m.esize ∧ d.elems = m.elems ∧ padHalt d = none) →
        mfAddr y f % runBytes 1 m.width = 0 →
        ∀ u runs, (s.takeStream i .access x).placeRuns i y.part .w m.width (shapeRuns m (mfAddr y f)) = (u, .inr runs) →
          u.unmapped y.part runs = none →
          Does (.st i .access f) s (startStore i .st f m runs (shapeRuns m (mfAddr y f)) none y u) ∧
          (∀ k d r, selOf f.opS = .desc k → d = descOf (x.dreg .access k) → y.spanBusy .access d.span false = false →
            u.memRoom i y { Inflight.fresh .st runs true .none with counter := none, value := w64 0 } = true → u.storeElems i y.part d = r → r.2.2.2 = none →
            Does (.st i .access f) s (r.1.beginMem i y { Inflight.fresh .st runs true .none with
              counter := none
              value := w64 0
              spans := [(d.span.1, d.span.2, false)]
              rest := some [⟨runData m.width (shapeRuns m (mfAddr y f)) r.2.1, false⟩] } false)) ∧
          (∀ v cva cga pool, cva = (y.sreg .access f.rt).toNat → cva % 8 = 0 →
            u.coreTranslate i.die i.core y.part cva .w = (v, .ok cga pool) →
            v.staCounterBad y.part cga ((runs.flatMap (·.pieces)).map (fun p => gaModule p.1)) = none →
            Does (.sta i .access f) s (startStore i .sta f m runs (shapeRuns m (mfAddr y f)) (some (cva, cga)) y v) ∧
            (∀ k d r, selOf f.opS = .desc k → d = descOf (x.dreg .access k) → y.spanBusy .access d.span false = false →
              v.memRoom i y { Inflight.fresh .sta runs true .none with counter := some (cva, cga), value := w64 cva } = true →
              v.storeElems i y.part d = r → r.2.2.2 = none →
              Does (.sta i .access f) s (r.1.beginMem i y { Inflight.fresh .sta runs true .none with
                counter := some (cva, cga)
                value := w64 cva
                spans := [(d.span.1, d.span.2, false)]
                rest := some [⟨runData m.width (shapeRuns m (mfAddr y f)) r.2.1, false⟩] } false))))

/-- R85, R88, R218: an SLD or ATADD at an aligned, mapped address leaves its stream with rd awaited (`wordFlight`,
`Strand.awaits`). -/
def Obligations.WordAccessesBegin : Prop :=
  ∀ (s : State) (i : Sid) (f : SF) (x : Strand) (va : Nat), Issues s i .access x →
    x.isBusy .access [f.rd, f.rs1, f.rs2] = false → va = (x.sreg .access f.rs1 + f.imm).toNat → ∃ y,
      Taken s i .access x (s.takeStream i .access x) y ∧
      (va % 8 ≠ 0 → Does (.sld i .access f) s ((s.takeStream i .access x).haltStrand i 0x0B va) ∧
        Does (.atadd i .access f) s ((s.takeStream i .access x).haltStrand i 0x0B va)) ∧
      (∀ u runs, va % 8 = 0 → u.unmapped y.part runs = none →
        ((s.takeStream i .access x).placeWord i y.part va .sld = (u, .inr runs) →
          u.memRoom i y (wordFlight .sld runs f 0) = true →
          Does (.sld i .access f) s (u.beginMem i (y.awaits f.rd) (wordFlight .sld runs f 0) false)) ∧
        ((s.takeStream i .access x).placeWord i y.part va .atadd = (u, .inr runs) →
          u.memRoom i y (wordFlight .atadd runs f (x.sreg .access f.rs2)) = true →
          Does (.atadd i .access f) s (u.beginMem i (y.awaits f.rd) (wordFlight .atadd runs f (x.sreg .access f.rs2)) false)))

/-- R85, R69, R131: a QPUSH with room in its queue carries the operand's bytes to it in entries of 256 B and commits when all
are in; a QPOP whose queue holds all it needs writes them to its operand. -/
def Obligations.QueueMoves : Prop :=
  ∀ (s : State) (i : Sid) (f : MF) (x : Strand) (k q : Nat) (d : Desc), Issues s i .access x → x.prog .access = none →
    selOf f.opS = .desc k → selOf f.opM = .queue q → d = descOf (x.dreg .access k) → ∃ y,
      Taken s i .access x (s.takeStream i .access x) y ∧
      (y.moveHalt f true = none → y.spanBusy .access d.span false = false → y.padBehind y.nextId = false → (y.queue q).length < 32 →
        ∀ v, ((s.takeStream i .access x).setStrand i.key y).demandOperand y.part (spadBase i.die i.core) d = (v, none) →
        v.strand i.key = some y →
        ∀ z, pushAll ((toEntries (queueBytes d.width (d.size 0) (v.operandElems (spadBase i.die i.core) d))).map (fun e => (q, e)))
          y = (z, []) → Does (.qpush i .access f) s (v.commitStrand i .access z)) ∧
      (y.moveHalt f false = none → y.spanBusy .access d.span true = false → y.queue q ≠ [] →
        ∀ z p, popNeeds [(0, q, runBytes (d.size 0) d.width * d.rows)] y ⟨[], [], false, []⟩ = (z, p, false) →
        entriesOf (runBytes (d.size 0) d.width * d.rows) ≤ (p.have 0).length / 256 →
        ∀ v, v = (((s.takeStream i .access x).setStrand i.key z).putOperand (spadBase i.die i.core) d
          (unqueue d.width (d.size 0) d.rows (p.have 0))) → v.strand i.key = some z →
          Does (.qpop i .access f) s (v.commitStrand i .access z))

/-- R85, R183: SFENCE passes once no SCMD of the strand is outstanding; a command that ended with status 2 or 3 halts. R85, R90,
R162, R163: an SCMD whose 256 B are a command to the window of its partition's port, other than an ATTEND and without a done
counter, is written to the port with the partition and the source put in. R137: an LXSUB whose descriptor can be read, and
whose status_va and done_va translate, is queued at the die's layout engine and commits. -/
def Obligations.FencesAndSubmissions : Prop :=
  (∀ (s : State) (i : Sid) (f : SF) (x : Strand), Issues s i .access x → x.cmds = [] →
    (∀ m ∈ x.inflight, m.kind ≠ .scmd) → ∃ y, Taken s i .access x (s.takeStream i .access x) y ∧
      (x.badCmd = none → Commits (.sfence i .access f) s i .access (s.takeStream i .access x) y) ∧
      (∀ va, x.badCmd = some va → Does (.sfence i .access f) s
        (((s.takeStream i .access x).setStrand i.key { y with badCmd := none }).haltStrand i 0x08 va))) ∧
  (∀ (s : State) (i : Sid) (f : MF) (x : Strand) (k : Nat) (d : Desc), Issues s i .access x → mfReserved f = false →
    selOf f.opS = .desc k → d = descOf (x.dreg .access k) → ∃ y, Taken s i .access x (s.takeStream i .access x) y ∧
      (y.selBad .access false (.desc k) = none → padHalt d = none → y.isBusy .access [f.rs] = false →
        y.spanBusy .access d.span false = false → y.inflight.length < 32 →
        ∀ u ga pool n, (s.takeStream i .access x).coreTranslate i.die i.core y.part (mfAddr y f) .w = (u, .ok ga pool) →
          u.portOf y.part ga = .inl n →
        ∀ v b, u.demandOperand y.part (spadBase i.die i.core) d = (v, none) →
          b = queueBytes d.width (d.size 0) (v.operandElems (spadBase i.die i.core) d) → bit (cFlags b) 1 = false →
          cOpcode b ≠ 1 → Does (.scmd i .access f) s
            (v.writeCmd i y n (mfAddr y f) (cmdBytes i y.part b (cDonePa b) 0) d.span))) ∧
  (∀ (s : State) (i : Sid) (f : MF) (x : Strand) (k : Nat) (d : Desc), Issues s i .access x → mfReserved f = false →
    selOf f.opS = .desc k → d = descOf (x.dreg .access k) → d.ndim = 1 → d.size 0 = 256 → d.esize = 2 → ∃ y,
      Taken s i .access x (s.takeStream i .access x) y ∧
      (y.selBad .access false (.desc k) = none → padHalt d = none → y.spanBusy .access d.span false = false →
        y.inflight.length < 32 →
        ∀ u b, (s.takeStream i .access x).demandOperand y.part (spadBase i.die i.core) d = (u, none) →
          b = queueBytes 8 256 (u.operandElems (spadBase i.die i.core) d) → leAt b 0xC8 8 % 32 = 0 → leAt b 0xC0 8 = 0 →
        ∀ v spa, u.statusOf i y.part (leAt b 0xC8 8) = (v, .inl spa) → v.layRoom i.die y.part = true →
          Does (.lxsub i .access f) s ((v.setLayQueue i.die (v.layQueue i.die ++
            [⟨b, y.part, spa, none, false, 0, 0, [], none, none, false⟩])).commitStrand i .access y)))

/-- R222: memory answers a local doubleword load: rd holds what was read and is awaited no longer; an ATADD's rd holds the old
value and memory the sum (R218). R96, R70, R92: the tile watchdog halts a resident strand with 0x09 when its time is up; a
queue deadlock halts with 0x10; a stream held for 4,096 cycles passes to another strand of equal priority. -/
def Obligations.AnswersAndTimeouts : Prop :=
  (∀ (s : State) (i : Sid) (x : Strand) (m : Inflight) (va ga : Nat) (rd : BitVec 4) (place id : Nat),
    s.strand i.key = some x → x.inflight = [m] → s.isLocal ga = true → s.spotWait (gaLocal ga) = .go →
    s.outstanding i.die ≤ 4096 →
    (∀ u b, m = { Inflight.fresh .sld [⟨va, 1, [(ga, 8, false)]⟩] false (.scalar rd.toNat) with id := id, place := place } →
      (s.setStrand i.key x).spotRead (.strand x.part) (askedBy (s.corePage i.die i.core) 0) x.part false (gaLocal ga) 8 = (u, 0, b) →
      Does (.memoryAnswer i id) s ((u.countFar (spotDie (gaLocal ga)) i.die 8).endMem i m (fun z =>
        { z.setSreg .access rd (w64 (leNat b)) with busy := z.busy.filter (fun k => k != rd.toNat) }))) ∧
    (∀ u old a, m = { Inflight.fresh .atadd [⟨va, 1, [(ga, 8, false)]⟩] true (.scalar rd.toNat) with
        id := id, place := place, value := a } →
      (s.setStrand i.key x).homeAdd (askedBy (s.corePage i.die i.core) 0) x.part (gaLocal ga) a = (u, 0, old) →
      Does (.memoryAnswer i id) s (u.endMem i m (fun z =>
        { z.setSreg .access rd (w64 (leNat (leBytes 8 old.toNat))) with busy := z.busy.filter (fun k => k != rd.toNat) })))) ∧
  (∀ (s : State) (i : Sid) (x : Strand), s.strand i.key = some x →
    (x.active = true → x.waitE = none → s.coreClock i.die = true →
      Does (.tileWatchdogExpiry i) s
        ((s.carryIssue i.die (x.wdSince8 + (x.wdUs * 8000 - x.wdElapsed8))).halt i .execute 0x09)) ∧
    (∀ a e, x.active = true → x.waitsQueue .access = some a → x.waitsQueue .execute = some e → x.inflight = [] →
      Does (.queueDeadlock i) s (s.halt i .execute 0x10)) ∧
    (∀ str, (s.core i.die i.core).hold str = some i.ctx → x.prog str = none → s.coreClock i.die = true →
      Does (.streamHoldExpiry i.die i.core str) s
        ((s.carryIssue i.die ((match str with | .access => (s.core i.die i.core).holdSinceA | .execute => (s.core i.die i.core).holdSinceE) +
          ceilDiv (4096 * 8000) (s.clock50 i.die * 50))).switchStream i.die i.core str (fun k y => k != i.ctx && y.prio == x.prio))))

/-! ### Strands: the execute stream -/

/-- R86, R121 to R124: the vector instructions. Each element of the result is the operation on the elements of the sources,
broadcast to the destination's sizes, rounded once into fmt_d. R86, R123, R124: the transcendental instructions, whose
values within the spec's bounds are free (log 4), and the reductions along dimension 0. -/
def Obligations.VectorResults : Prop :=
  (∀ (s : State) (i : Sid) (f : TF) (x : Strand), Issues s i .execute x →
    Tensors (.vadd i .execute f) s i x
      (elementwise i .execute f [(f.oa, f.fmtA), (f.ob, f.fmtB)] (tfSeed f) (binary Sys2Proof.Machine.Num.add)) ∧
    Tensors (.vsub i .execute f) s i x
      (elementwise i .execute f [(f.oa, f.fmtA), (f.ob, f.fmtB)] (tfSeed f) (binary (fun a b => a.add b.neg))) ∧
    Tensors (.vmul i .execute f) s i x
      (elementwise i .execute f [(f.oa, f.fmtA), (f.ob, f.fmtB)] (tfSeed f) (binary Sys2Proof.Machine.Num.mul)) ∧
    Tensors (.vmax i .execute f) s i x
      (elementwise i .execute f [(f.oa, f.fmtA), (f.ob, f.fmtB)] (tfSeed f) (binary Sys2Proof.Machine.Num.max)) ∧
    Tensors (.vmin i .execute f) s i x
      (elementwise i .execute f [(f.oa, f.fmtA), (f.ob, f.fmtB)] (tfSeed f) (binary Sys2Proof.Machine.Num.min)) ∧
    Tensors (.vfma i .execute f) s i x
      (elementwise i .execute f [(f.oa, f.fmtA), (f.ob, f.fmtB), (f.oc, f.fmtD)] (tfSeed f)
        (fun l => match l with | [a, b, c] => (a.mul b).add c | _ => .nan)) ∧
    Tensors (.vfill i .execute f) s i x (elementwise i .execute f [] 0 (fun _ => decodeNum 0 (tfSeed f)))) ∧
  (∀ (s : State) (i : Sid) (f : TF) (x : Strand), Issues s i .execute x →
    Tensors (.vexp2 i .execute f) s i x (elementwise i .execute f [(f.oa, f.fmtA)] (tfSeed f) (unary (fExp2 .vexp2))) ∧
    Tensors (.vlog2 i .execute f) s i x (elementwise i .execute f [(f.oa, f.fmtA)] (tfSeed f) (unary (fLog2 .vlog2))) ∧
    Tensors (.vrcp i .execute f) s i x (elementwise i .execute f [(f.oa, f.fmtA)] (tfSeed f) (unary fRcp)) ∧
    Tensors (.vrsq i .execute f) s i x (elementwise i .execute f [(f.oa, f.fmtA)] (tfSeed f) (unary fRsq)) ∧
    Tensors (.vrmax i .execute f) s i x (reduceOp i .execute f (vReduce Sys2Proof.Machine.Num.max (.inf true))) ∧
    Tensors (.vrsum i .execute f) s i x (reduceOp i .execute f (vReduce add32 (.fin false 0 0))))

/-- R86, R87, R102, R134, R135: conversions, copies and the matrix array, with the plan each one's operands give. -/
def Obligations.ArrayAndConversionResults : Prop :=
  ∀ (s : State) (i : Sid) (f : TF) (x : Strand), Issues s i .execute x →
    Tensors (.vcvt i .execute f) s i x (cvtPlan i .execute f) ∧
    Tensors (.xcopy i .execute f) s i x (xcopyPlan .execute f) ∧
    Tensors (.mload i .execute f) s i x (mloadPlan i .execute f) ∧
    Tensors (.mma i .execute f) s i x (mmaPlan i .execute f)

/-- R96: TMARK is a tile boundary: the tile count rises by 1 and the tile watchdog starts over. R86: an execute-stream
instruction in the access stream halts with 0x01, and an access-stream instruction in the execute stream halts with 0x01
(R82, R100). -/
def Obligations.TileMarksAndStreams : Prop :=
  (∀ (s : State) (i : Sid) (f : TF) (x : Strand), Issues s i .execute x → ∃ y,
    Taken s i .execute x (s.takeStream i .execute x) y ∧
    (tfReserved f true = false → Commits (.tmark i .execute f) s i .execute (s.takeStream i .execute x)
      { y with tiles := x.tiles + 1, wdElapsed8 := 0, wdSince8 := s.time8 i.die, atMark := true }) ∧
    (tfReserved f true = true → Does (.tmark i .execute f) s ((s.takeStream i .execute x).halt i .execute 0x02))) ∧
  (∀ (s : State) (i : Sid) (x : Strand) (f : TF) (g : MF) (h : SF),
    (Issues s i .access x → ∀ c, c ∈ [Instr.mload i .access f, .mma i .access f, .vadd i .access f, .vsub i .access f,
        .vmul i .access f, .vfma i .access f, .vmax i .access f, .vmin i .access f, .vexp2 i .access f, .vlog2 i .access f,
        .vrcp i .access f, .vrsq i .access f, .vcvt i .access f, .vrmax i .access f, .vrsum i .access f, .vfill i .access f,
        .xcopy i .access f, .tmark i .access f] → Does c s ((s.takeStream i .access x).halt i .access 0x01)) ∧
    (Issues s i .execute x → ∀ c, c ∈ [Instr.ld i .execute g, .st i .execute g, .gather i .execute g, .qpush i .execute g,
        .qpop i .execute g, .sta i .execute g, .scmd i .execute g, .lxsub i .execute g, .atadd i .execute h, .sld i .execute h,
        .sfence i .execute h] → Does c s ((s.takeStream i .execute x).halt i .execute 0x01)))

/-! ### Launches and SCHED -/

/-- R50 to R52: a write of a running ring's tail by its partition is accepted up to the free entries; past them the ring stops
with its bad-tail bit and a 0x0202 record, and launches not yet started complete with status 3. A ring that does not run
ignores it. -/
def Obligations.RingTails : Prop :=
  ∀ (s : State) (who : Who) (d : Die) (r v : Nat), r < 64 → (who.root = true ∨ who.part = some (r / 4)) →
    s.regSleeps (schedPage d + 0x100 + r * 0x20 + 0x14) = none →
    (s.ringRuns d r = false → Does (.schedRingTailWrite who d r v) s s) ∧
    (s.ringRuns d r = true →
      (v % 65536 + 65536 - s.ringTail d r) % 65536 ≤
        (2 ^ s.ringLog2 d r + 65536 - (s.ringTail d r + 65536 - s.ringHead d r) % 65536) % 65536 →
      Does (.schedRingTailWrite who d r v) s (s.setFld (ringBase d r + 0x14) 0 16 v)) ∧
    (s.ringRuns d r = true →
      (2 ^ s.ringLog2 d r + 65536 - (s.ringTail d r + 65536 - s.ringHead d r) % 65536) % 65536 <
        (v % 65536 + 65536 - s.ringTail d r) % 65536 →
      Does (.schedRingTailWrite who d r v) s (((s.setFlag (ringBase d r + 0x0C) 1 true).raise (schedPage d) 0x0202
        (some (r / 4)) v r false false).stopRing d r))

/-- R46, R47, R53: the next submitted descriptor of a running ring becomes a launch in step 2 where its fields are in order; it
completes with status 2 and a 0x0201 record where they are not, with status 3 where it was killed before, and with status 4
where its done counter is unusable. One that lies where nothing can be read is passed over with a record. -/
def Obligations.DescriptorChecks : Prop :=
  ∀ (s : State) (d : Die) (r : Nat),
    (∀ u l, Reads s d r u l →
      (s.doomed.contains l.key = false → u.launchOk l = true → Does (.launchDescriptorCheck d r) s (u.preemptFor l)) ∧
      (s.doomed.contains l.key = false → u.launchOk l = false → Does (.launchDescriptorCheck d r) s
        ((u.raise (schedPage d) 0x0201 (some (r / 4)) l.descPa (l.tag + r * 2 ^ 32) false false).abortLaunch l 2)) ∧
      (s.doomed.contains l.key = true → Does (.launchDescriptorCheck d r) s (u.abortLaunch l 3))) ∧
    (s.mayRead d r = true → s.descReadable (s.descPa d r) = false →
      Does (.launchDescriptorCheck d r) s (s.unreadLaunch d r (s.ringNext d r) (s.descPa d r))) ∧
    (s.mayRead d r = true → s.descReadable (s.descPa d r) = true →
      (∀ t n, (s.countStack (ringPart r) (s.descPa d r) 128).demand (askedBy (schedPage d) 0x12) (some (ringPart r)) (s.descPa d r) 128 =
          (t, some n) →
        Does (.launchDescriptorCheck d r) s (t.unreadLaunch d r (s.ringNext d r) (s.descPa d r))) ∧
      (∀ t m u va c, (s.countStack (ringPart r) (s.descPa d r) 128).demand (askedBy (schedPage d) 0x12) (some (ringPart r))
          (s.descPa d r) 128 = (t, none) →
        m = launchOf d r (s.ringNext d r) (s.descPa d r) (t.bytes (s.descPa d r) 128) t →
        va = leAt (t.bytes (s.descPa d r) 128) 0x30 8 → (t.undoom m.key).doneAt d m.part va = (u, .inl c) →
        Does (.launchDescriptorCheck d r) s ((u.addLaunch m).unusable m va c 1)))

/-- R46, R65, R66: a launch whose turn it is, whose image can be read with its header in order, and which has its contexts,
queues and instruction memory on every selected core, starts its strands there. R46, R48, R53, R361: a launch with no strand
left completes with its status; its deadline's passing is noted with an interrupt, and recorded as abandoned 1,000 ms later;
a kill makes a waiting launch complete with status 3, ends the strands of one that has started, and is remembered for a
descriptor not yet read. -/
def Obligations.LaunchStartsAndEnds : Prop :=
  (∀ (s : State) (d : Die) (r idx : Nat) (l : Launch), s.launches.find? (fun x => x.key == launchKey d r idx) = some l →
    s.launchTurn l = true → s.coresOk l.part l.coreMask = true → s.imageHeld d l.part l.kernelVa l.imageLen = false →
    ∀ t b, imageRead d l.part (granules l.kernelVa l.imageLen) s = (t, .inr b) →
      (∀ c ∈ selCores l.coreMask, t.copyOn c.1 c.2 l.part l.kernelVa = none) → selCores l.coreMask ≠ [] →
    ∀ img mask a e, img = ⟨l.part, l.kernelVa, l.imageLen, sparseBytes b, [], []⟩ → headerOf l.imageLen img.field = some (mask, a, e) →
      l.perCore * (bitList mask 8).length ≤ 8 →
      (∀ c ∈ selCores l.coreMask, t.coreRoom l c.1 c.2 (bitList mask 8).length = true) →
    ∀ u v, u = ((List.range (selCores l.coreMask).length).zip (selCores l.coreMask)).foldl
        (fun (w : State) c => w.startOn l img mask a e (c.1 * l.perCore) c.2)  t →
      v = (u.setLaunch { l with stage := .started, seq := u.parkSeq + 1 }).unask l.key →
      Does (.launchResourced d r idx) s ((selCores l.coreMask).foldl (fun (w : State) c => w.restatCore c.1 c.2)
        { v with parkSeq := v.parkSeq + 1 })) ∧
  (∀ (s : State) (d : Die) (r idx : Nat), (∀ l, s.launches.find? (fun x => x.key == launchKey d r idx) = some l →
      ((l.stage = .started ∨ l.stage = .ending) → s.launchBusy l.key = false →
        Does (.launchComplete d r idx) s (s.finishLaunch l (l.result.getD (0, 0)).1 (l.result.getD (0, 0)).2).quileyNote) ∧
      (l.deadline ≠ 0 → l.stage ≠ .done → l.missDone = false →
        (l.missed = false → Does (.launchDeadlinePass d r idx) s ((s.carry (l.deadline / 1000 * 1000)).noteLate d l)) ∧
        (l.missed = true → Does (.launchDeadlinePass d r idx) s
          ((s.carry (l.deadline / 1000 * 1000 + 1000000000)).abandonLate d l))) ∧
      (∀ who v, who.root = true → s.regSleeps (schedPage d + 0x918) = none → bits v.toNat 0 6 = r → bits v.toNat 16 16 = idx →
        (l.stage = .checked → Does (.schedLaunchKill who d v) s (s.abortLaunch l 3)) ∧
        (l.stage = .started ∨ l.stage = .ending → Does (.schedLaunchKill who d v) s
          ((s.decideLaunch (launchKey d r idx) 3 0).killStrands (fun _ x => x.launch == launchKey d r idx))))) ∧
    (s.launches.find? (fun x => x.key == launchKey d r idx) = none → ∀ who v, Who.root who = true →
      s.regSleeps (schedPage d + 0x918) = none → bits v.toNat 0 6 = r → bits v.toNat 16 16 = idx → s.doomed.contains (launchKey d r idx) = false →
      (idx + 65536 - s.ringNext d r) % 65536 < (s.ringTail d r + 65536 - s.ringNext d r) % 65536 →
      Does (.schedLaunchKill who d v) s { s with doomed := s.doomed ++ [launchKey d r idx] }))

/-- R58, R438: partition 0 writes the words of a translation invalidation, whose go bit puts it in order; at its end every
cached leaf of its partition in its range is gone. A write by another partition is refused with a 0x0203 record. -/
def Obligations.TranslationInvalidation : Prop :=
  ∀ (s : State) (who : Who) (d : Die) (v : Word), (∀ n < 2, s.regSleeps (schedPage d + 0x990 + 8 * n) = none) →
    (who.root = true →
      Does (.schedTlbInval who d 0 v) s (s.setReg (schedPage d + 0x990) (tlbWord 0 v)) ∧
      (bit v.toNat 0 = true → ∀ s1, s1 = s.setReg (schedPage d + 0x998) (tlbWord 1 v) →
        Does (.schedTlbInval who d 1 v) s { s1 with inval := s1.inval ++ [⟨s1.reg (schedPage d + 0x990), v⟩] }) ∧
      (bit v.toNat 0 = false → Does (.schedTlbInval who d 1 v) s (s.setReg (schedPage d + 0x998) (tlbWord 1 v)))) ∧
    (who.root = false → Does (.schedTlbInval who d 0 v) s (s.raise (schedPage d) 0x0203 who.part v.toNat 0 false false)) ∧
    (∀ x r, s.inval = x :: r → ∃ t : State, exec .tlbInvalDone s = .next { t with mem := replay s.mem s.bus, bus := [] } ∧ t.inval = r ∧
      (∀ e, e ∈ t.tlb ↔ e ∈ s.tlb ∧ ¬ (e.part = bits x.word0.toNat 0 4 ∧ (bit x.word0.toNat 4 = true ∨
        (e.va ≤ bits x.word1.toNat 16 42 * 0x10000 + 0xFFFF ∧ bits x.word0.toNat 16 42 * 0x10000 < e.va + 2 ^ e.log2)))) ∧
      t = { s with inval := r, tlb := t.tlb })

/-- R341, R343, R346, R347, R120, R432: partition 0's write of a partition's configuration, resources or core mask is applied
where what it gives is allowed, and refused whole with the error bit set where it is not; so is an allotment of multicast
memory above 16 units. A locked page ignores all four and sets its violation bit. -/
def Obligations.PartitionWrites : Prop :=
  ∀ (s : State) (who : Who) (d : Die) (p v : Nat), who.root = true → p < 16 →
    (∀ o < 0x400, s.regSleeps (schedPage d + (0xC00 + o)) = none) → s.regSleeps (schedPage d + 0xB08) = none →
    (∀ o f x, (o, f, x) ∈ [
        (0, fun (t : State) => t.applyPartCfg p (w64 v).toNat, s.mayEnable p (w64 v).toNat),
        (4, fun t => t.applyPartRes d p (w64 v).toNat, fun _ => true), (8, fun t => t.applyPartCores d p 0 3 v, fun _ => true)] →
      (s.locked (schedPage d) = false → (f s).partsOk = true → x (f s) = true →
        Does (.schedPartCfgWrite who d (0xC00 + p * 0x40 + o) v) s ((s.reassign p f).setFlag (schedPage d + 0x904) 0 false)) ∧
      (s.locked (schedPage d) = false → (f s).partsOk = false ∨ x (f s) = false →
        Does (.schedPartCfgWrite who d (0xC00 + p * 0x40 + o) v) s (s.setFlag (schedPage d + 0x904) 0 true)) ∧
      (s.locked (schedPage d) = true →
        Does (.schedPartCfgWrite who d (0xC00 + p * 0x40 + o) v) s (s.setFlag (schedPage d + 0x0C) 2 true))) ∧
    (s.locked (schedPage d) = false → nibbleSum (w64 v).toNat ≤ 16 → Does (.schedMcastAllotWrite who d (w64 v)) s
      (((s.setReg (schedPage d + 0xB08) (w64 v)).setFlag (schedPage d + 0xB10) 6 false).noteUnmodelled none)) ∧
    (s.locked (schedPage d) = false → 16 < nibbleSum (w64 v).toNat →
      Does (.schedMcastAllotWrite who d (w64 v)) s (s.setFlag (schedPage d + 0xB10) 6 true)) ∧
    (s.locked (schedPage d) = true → Does (.schedMcastAllotWrite who d (w64 v)) s (s.setFlag (schedPage d + 0x0C) 2 true))

/-- R118, R263: a member of a multicast whose data has come receives it in its queue, and is then served; it halts with 0x08
where the unit's words are bad; hold_us after the fetch the members not yet served read for themselves, and the entry is
freed and holds nothing. -/
def Obligations.Multicasts : Prop :=
  ∀ (s : State) (d : Die) (n : Nat) (e : McastEntry), s.mcast.find? (fun x => x.id == n && x.die == d && !x.freed) = some e →
    (∀ i x b m q w, s.strand (Sid.key i) = some x → e.data = some b → x.inflight.find? (fun y => y.mcast == some n) = some m →
      m.dest = .queue q w → m.rest = none → x.padBehind m.id = false → x.active = true → e.served.contains i.key = false →
      (e.bad = true → Does (.mcastDeliver d n i) s
        ((s.raise (schedPage d) 0x0301 (some x.part) (gaLocal e.ga) 1 false false).haltStrand i 0x08 (m.runs.map (·.va)).headI)) ∧
      ∀ t, e.bad = false → s.pushLoad i m q ((toEntries b).drop m.byteOff) = (t, true) →
        Does (.mcastDeliver d n i) s
          ((if e.fetcher = i.key then t else t.bump (t.corePage i.die i.core) 0x058 32 1).setMcast (e.served1 i.key))) ∧
    (∀ b, e.data = some b → Does (.mcastHoldExpiry d n) s ((e.left.foldl (fun (v : State) k => v.leaveMcast n k)
      (s.carry (e.fetchedAt + s.fld (schedPage d + 0xB00) 0 7 * 1000))).setMcast e.free))

/-- R350, R351, R357: the holder of a shared core is asked to park its strands when its turn is over, or when it has had nothing
to run for 5 µs, while another waits; once they have parked, the scratchpads are exchanged through the saved images and the
next partition holds the core. R93, R94, R353: a strand asked to park at a kill point, with nothing in flight that is never
killed, leaves its context and is held parked with its registers, its queues and the time its waits have spent; it comes
back where its context and queues are free. -/
def Obligations.CoreTurnsAndParking : Prop :=
  (∀ (s : State) (d : Die) (c p q : Nat), s.holderOf d c = some p → s.nextHolder d c p = some q →
    (s.turnOver d c = false →
      Does (.turnEnd d c) s ((s.carry ((s.core d c).turnStart + s.turnNs d c p)).askTurn d c p)) ∧
    (s.turnOver d c = false → (∀ e ∈ s.resident d c, e.2.part = p → e.2.stat ≠ .ready ∧ e.2.stat ≠ .running) →
      ∃ t, (s.core d c).turnStart ≤ t ∧ (∀ e ∈ s.resident d c, e.2.part = p → e.2.lastRun ≤ t) ∧
        Does (.turnIdleExpiry d c) s ((s.carry (t + 5000)).askTurn d c p)) ∧
    (s.turnOver d c = true → s.coreLeft d c p = true →
      Does (.turnSwitch d c) s ((s.handOver d c p q).reseat d c ((s.core d c).parkedOf q))) ∧
    ((s.handOver d c p q).core d c).holder = some q ∧ ((s.handOver d c p q).core d c).turnAsked = false ∧
    ((s.handOver d c p q).core d c).spadPart = some q) ∧
  (∀ (s : State) (i : Sid) (x : Strand),
    (s.strand i.key = some x → x.active = true → x.parkAsked = true → x.atKillPoint = true →
      (∀ m ∈ x.inflight, m.kind.stays = false) →
      ∀ z t, z = x.parkedForm (s.killLoads i x) i.die → t = (s.killLoads i x).vacate i z →
      Does (.killPointPark i) s t ∧ t.strand i.key = none ∧ z.stat = .parked ∧ z.scal = x.scal ∧ z.desc = x.desc ∧
        z.queues = x.queues ∧ z.apc = x.apc ∧ z.epc = x.epc ∧ z.shadow = x.shadow ∧ z.tiles = x.tiles ∧
        z.waitA = none ∧ z.waitE = none ∧
        (∀ w, x.waitE = some w → z.savedE = some (w.elapsed (s.killLoads i x) i.die)) ∧
        (∀ w, x.waitA = some w → z.savedA = some (w.elapsed (s.killLoads i x) i.die)) ∧
        z.parkOrder = (s.killLoads i x).parkSeq + 1 ∧ t.parkSeq = (s.killLoads i x).parkSeq + 1) ∧
    ((s.core i.die i.core).parked.find? (fun e => e.1 == i.ctx && e.2.part == x.part) = some (i.ctx, x) →
      s.mayResume i.die i.core i.ctx x = true →
      Does (.strandResume i x.part) s ((s.resume i.die i.core i.ctx x).preemptAll i.die i.core)))

/-! ### The layout engine, the stacks, the Basin and the Pool -/

/-- R140 to R148, R358: a queued descriptor is checked, and one with a bad field ends with status 1 and the lowest bad offset;
the next partition in turn runs one slice, which leaves its descriptor at the unit reached, ended where none is left or
where the slice met an error; an ended descriptor's record and counter follow; partition 0 cancels, and sets queue limits
that sum to at most 64. A slice that meets a stopped domain wakes it. -/
def Obligations.LayoutEngine : Prop :=
  ∀ (s : State) (d : Die) (p : Nat),
    (∀ x, s.layFront d p = some x → x.checked = false → x.result = none → x.cancelled = false →
      ((lDesc x.bytes).badFields = [] →
        Does (.layoutDescriptorCheck d p) s (s.setLayFront d { x with checked := true, readyAt := s.now })) ∧
      (∀ f r, (lDesc x.bytes).badFields = f :: r → Does (.layoutDescriptorCheck d p) s
        (s.setLayFront d { x with checked := true, readyAt := s.now, result := some (1, r.foldl Nat.min f, 0) }))) ∧
    (∀ x y t r, s.layNext d = some p → s.layFront d p = some x → laySlice d p x s = (y, t, r) →
      (r = none → Does (.layoutSlice d) s
        (t.laySliced d p (if (lDesc x.bytes).units ≤ y.pos then { y with result := some (0, 0, 0) } else y))) ∧
      (∀ st va, r = some (.status st va) → Does (.layoutSlice d) s
        ((t.raise (layoutPage d) 0x030E (some p) va st false false).laySliced d p
          { y with result := some (st, 0, w64 va) })) ∧
      (∀ e, r = some (.held (some e)) → Does (.layoutSlice d) s (s.wakeDie e)) ∧
      (r = some (.held none) → Does (.layoutSlice d) s s)) ∧
    (∀ x st f a, s.layEnded d p = some x → (x.result = some (st, f, a) ∨
        (x.result = none ∧ x.cancelled = true ∧ st = 5 ∧ f = 0 ∧ a = 0)) →
      Does (.layoutComplete d p) s (s.layFinish d x st f a).quileyNote) ∧
    (∀ who v, Who.root who = true → s.regSleeps (layoutPage d + 0x104) = none → s.flag (layoutPage d + 0x104) 4 = false → bit v.toNat 4 = true →
      ∀ t, t = s.setReg (layoutPage d + 0x104) (w64 (v.toNat % 64 - 16)) →
      Does (.layoutCancel who d v) s ((t.layCancel d (v.toNat % 16)
        (if bit v.toNat 5 then some (t.reg (layoutPage d + 0x110)).toNat else none)).layGo d)) ∧
    (∀ who v, Who.root who = true → s.regSleeps (layoutPage d + 0x108) = none → s.locked (layoutPage d) = false →
      (Who.isScc who = true → Does (.layoutQlimitWrite who d v) s s) ∧
      (Who.isScc who = false → nibbleSum v.toNat ≤ 64 → Does (.layoutQlimitWrite who d v) s
        ((s.setReg (layoutPage d + 0x108) v).noteUnmodelled none)) ∧
      (Who.isScc who = false → 64 < nibbleSum v.toNat → Does (.layoutQlimitWrite who d v) s s))

/-- R162, R168, R169: of the commands whose writes have taken a queue entry, the oldest is judged: it enters its stack where its
fields, its pages and its partition's rights are in order, and is refused where they are not. A command of a reserved opcode
is refused. A write the SCC makes takes its entry first. A waiting write takes an entry that has freed. -/
def Obligations.StackCommands : Prop :=
  ∀ (s : State) (n o : Nat) (mk : Nat → CmdSource → Instr), n < 16 → (s.stack n).trained = true →
    (o, mk) ∈ [(0, Instr.stkNop), (1, Instr.attend), (2, Instr.gemv), (3, Instr.summarise)] →
    (∀ w t, (s.stack n).port.find? (fun x => x.admitted) = some w → cOpcode w.bytes = o →
      t = s.leavePort n w →
      (t.cmdOk n w = true → Does (mk n .window) s (t.acceptCmd n w)) ∧
      (t.cmdOk n w = false → Does (mk n .window) s (t.refuseCmd n w))) ∧
    (∀ w, o = 0 → (s.stack n).port.find? (fun x => x.admitted) = some w → 3 < cOpcode w.bytes →
      Does (mk n .window) s ((s.leavePort n w).refuseCmd n w)) ∧
    (∀ p b, Does (mk n (.sccWrite p b)) s ((s.arrivePort n ⟨p % 16, b, none, 0, 0, false⟩).judge n o)) ∧
    (∀ p w, (s.stack n).port.find? (fun x => x.part == p && !x.admitted) = some w → s.portRoom n p = true → w.strand = none →
      Does (.stkCmdQueueAdmit n p) s (s.admitPort n w))

/-- R156, R170, R172, R173, R180, R199, R358: an idle NBU starts the slice of the next partition that has one ready, and a
slice's end runs its pages and rows, charges its time and moves its command on; the page-summary unit scores a chunk of the
candidates of the partition whose turn it is; a command whose results are visible completes. R153, R160, R162, R182, R184,
R186, R187: a partition kills its commands by identifier or all of them, and moves its record index forward up to the write
index; partition 0 sets a half's mode, which changes when its NBUs have been checked or when the last command naming the
half is gone, gives granules to partitions, and sets queue limits that sum to at most 16; an NBU that fails its check reads
as unavailable. -/
def Obligations.StackSlicesAndControl : Prop :=
  (∀ (s : State) (n nbu : Nat),
    (∀ p c, (s.stack n).mayStart nbu = true → (s.stack n).nextStart nbu = some p → (s.stack n).ready nbu p = some c →
      Does (.sliceStart n nbu) s ((s.setStack n ((s.stack n).load nbu p c)).setCmd n (c.start nbu s.now))) ∧
    (∀ c sl t y, (s.stack n).slice nbu = some (c, sl) → (s.idleNbu n nbu).runSlice n (c.without sl) sl = (t, y) →
      Does (.sliceEnd n nbu) s (t.sliceRan n nbu y sl)) ∧
    (∀ p t c u y, s.nextScored n = some p → t = s.takeUnit n p →
      (t.stack n).cmds.find? (fun x => x.part == p && x.needsUnit) = some c → t.scoreChunk n c = (u, y) →
      Does (.selectionChunk n) s (u.chunkDone n y)) ∧
    (∀ c uid, (s.stack n).cmd uid = some c → (c.opcode ≠ 3 ∨ c.killed = true) → s.mayComplete n c = true →
      Does (.stkCmdComplete n uid) s (s.completeCmd n c).quileyNote)) ∧
  (∀ (s : State) (n : Nat) (who : Who) (v : Word),
    (∀ p, (who.root = true ∨ who.part = some p) → (∀ o ∈ [0x00, 0x08, 0x1C], s.regSleeps (ctlPage n p + o) = none) →
      Does (.stkKill who n p v) s
        (((s.stack n).cmds.filter (fun c => c.part == p && cId c.bytes == v.toNat % 2 ^ 32)).foldl (fun t c => t.killCmd n c) s) ∧
      (bit v.toNat 0 = true → Does (.stkKillAll who n p v) s
        (((s.stack n).cmds.filter (fun c => c.part == p)).foldl (fun t c => t.killCmd n c) s)) ∧
      (bit v.toNat 0 = false → Does (.stkKillAll who n p v) s s) ∧
      (∀ rd wr, rd = s.fld (ctlPage n p + 0x1C) 0 32 → wr = s.fld (ctlPage n p + 0x18) 0 32 →
        ((v.toNat % 2 ^ 32 + 2 ^ 32 - rd) % 2 ^ 32 ≤ (wr + 2 ^ 32 - rd) % 2 ^ 32 →
          Does (.stkRecRdWrite who n p v) s (s.setFld (ctlPage n p + 0x1C) 0 32 (v.toNat % 2 ^ 32))) ∧
        ((wr + 2 ^ 32 - rd) % 2 ^ 32 < (v.toNat % 2 ^ 32 + 2 ^ 32 - rd) % 2 ^ 32 → Does (.stkRecRdWrite who n p v) s s))) ∧
    (who.root = true → s.regSleeps (stackPage n + 0x100) = none → s.locked (stackPage n) = false → (s.stack n).trained = true →
      ((s.stack n).changing = false → Does (.stkModeWrite who n v) s (s.applyMode n (v.toNat % 4))) ∧
      ((s.stack n).changing = true → Does (.stkModeWrite who n v) s (s.setStack n ((s.stack n).holdMode (v.toNat % 4))))) ∧
    (∀ h l, h < 2 → ((s.stack n).going h = some true → Does (.stkModeEntryDone n h l) s
        (((l.filter (fun k => k / 256 == h)).foldl (fun t k => t.nbuFails n k) s).endMode n h true).sendSteps) ∧
      ((s.stack n).going h = some false → (s.stack n).cmds.any (fun c => c.namesHalf h) = false →
        Does (.stkModeExitDone n h) s (s.endMode n h false))) ∧
    (∀ g, who.root = true → s.regSleeps (stackPage n + 0x108) = none → g = s.fld (stackPage n + 0x104) 0 16 → g * 2 ^ 20 < s.stackBytes →
      (bit v.toNat 4 = true → s.mayOwn n g (v.toNat % 16) = true) →
      Does (.stkOwnDataWrite who n v) s ((((s.setReg (stackPage n + 0x108) (w64 (v.toNat % 32))).setStack n
        ((s.stack n).setOwn g (v.toNat % 32))).noteOwner (mget 0 (s.stack n).own g)).noteOwner (v.toNat % 32))) ∧
    (who.root = true → s.regSleeps (stackPage n + 0x110) = none → s.locked (stackPage n) = false →
      (nibbleSum v.toNat ≤ 16 → Does (.stkQlimitWrite who n v) s ((s.setReg (stackPage n + 0x110) v).noteUnmodelled none)) ∧
      (16 < nibbleSum v.toNat → Does (.stkQlimitWrite who n v) s s)) ∧
    (∀ nbu, Does (.nbuSelfcheckFail n nbu) s (s.nbuFails n nbu)))

/-- R202, R206, R208 to R212: the SCC's reservation waits or is granted; a partial whose generation is stale is discarded and
counted, and one whose group is live is merged; when every member has reported, the records are written and the group is
dissolved; partition 0 allots slots in units that sum to at most 16. R246, R247, R249: partition 0 sets the ways a partition
may allocate into, and the ways that are exclusive; a write that would put an exclusive way in two masks is refused with
cfg_err set. Ways that leave a mask are swept of the partition's lines, and the sweep's end clears its status. -/
def Obligations.BasinAndPool : Prop :=
  (∀ (s : State) (d : Die),
    (∀ p w, (s.basin.get d).waits.find? (fun x => x.part == p) = some w → s.canReserve d p w.slots = true → w.strand = none →
      (w.step = none → Does (.basinReservationGrant d p) s ((s.dropWait d w).grantScc d w)) ∧
      (w.step.isSome = true → Does (.basinReservationGrant d p) s s.sendSteps)) ∧
    (∀ a l, (s.basin.get d).arrivals = a :: l →
      ((s.basin.get d).group a.handle a.gen = none →
        Does (.basinPartialArrival d) s ((s.setArrivals d l).bump (basinPage d) 0x050 32 a.parts.length)) ∧
      (∀ g, (s.basin.get d).group a.handle a.gen = some g → Does (.basinPartialArrival d) s
        (((s.setArrivals d l).setGroup d (g.takeIn a)).bump (basinPage d) 0x040 64 a.parts.length))) ∧
    (∀ h g, (s.basin.get d).groups.find? (fun x => x.handle == h) = some g → g.broken = false →
      g.arrived.length = g.membersM1 + 1 → s.domainStopped g.dstDie 0 = false →
      (g.bad = false → Does (.basinResultWrite d h) s ((s.writeResults d g).dissolve d g)) ∧
      (g.bad = true → Does (.basinResultWrite d h) s ((s.slotLost d g).dissolve d g))) ∧
    (s.regSleeps (basinPage d + 0x110) = none → ∀ (v : Word) x w t, x = setBits v.toNat 41 1 0 % 2 ^ 64 → w = rsvOf x →
      t = s.setReg (basinPage d + 0x110) (w64 (x % 2 ^ 52 - bits x 19 1 * 2 ^ 19)) →
      (w.bad = true → Does (.basinRsvRequest .scc d v) s (t.setReg (basinPage d + 0x118) 3)) ∧
      (w.bad = false → (t.canReserve d w.part w.slots && (t.basin.get d).first w.part none) = true →
        Does (.basinRsvRequest .scc d v) s (t.grantScc d w)) ∧
      (w.bad = false → (t.canReserve d w.part w.slots && (t.basin.get d).first w.part none) = false →
        Does (.basinRsvRequest .scc d v) s ((t.setReg (basinPage d + 0x118) 0).waitReserve d w))) ∧
    (s.regSleeps (basinPage d + 0x110) = none → ∀ (v : Word) x t g, x = setBits v.toNat 41 1 1 % 2 ^ 64 → t.sccGroup d (bits x 42 10) = some g →
      t = (s.setReg (basinPage d + 0x110) (w64 (x % 2 ^ 52 - bits x 19 1 * 2 ^ 19))).setReg (basinPage d + 0x118) 1 →
      Does (.basinRsvCancel .scc d v) s ((t.freeHandle d (bits x 42 10)).killMembers g)) ∧
    (∀ who v, Who.root who = true → s.regSleeps (basinPage d + 0x100) = none → s.locked (basinPage d) = false →
      (nibbleSum v.toNat ≤ 16 → Does (.basinSlotAllotWrite who d v) s
        (((s.setReg (basinPage d + 0x100) v).setFlag (basinPage d + 0x108) 13 false).noteUnmodelled none)) ∧
      (16 < nibbleSum v.toNat → Does (.basinSlotAllotWrite who d v) s (s.setFlag (basinPage d + 0x108) 13 true)))) ∧
  (∀ (s : State) (who : Who) (d : Die) (v : Word), who.root = true → s.locked (poolPage d) = false →
    (∀ o ∈ [0x100, 0x140], ∀ p < 16, s.regSleeps (poolPage d + o + p * 4) = none) →
    (∀ p m t gone, p < 16 → m = v.toNat % 2 ^ 16 → t = ((s.setReg (poolPage d + 0x100 + p * 4) (w64 m)).poolErr d false).noteUnmodelled (some p) →
      gone = (s.poolWays d p).filter (fun w => !bit m w) →
      (exclusiveOk (s.fld (poolPage d + 0x140) 0 16) ((s.poolMasks d).set p m) = true →
        (gone = [] → Does (.poolWayMaskWrite who d p v) s t) ∧
        (gone ≠ [] → Does (.poolWayMaskWrite who d p v) s (t.sweepWays d p gone))) ∧
      (exclusiveOk (s.fld (poolPage d + 0x140) 0 16) ((s.poolMasks d).set p m) = false →
        Does (.poolWayMaskWrite who d p v) s (s.poolErr d true))) ∧
    (exclusiveOk (v.toNat % 2 ^ 16) (s.poolMasks d) = true →
      Does (.poolWayExclWrite who d v) s
        (((s.setReg (poolPage d + 0x140) (w64 (v.toNat % 2 ^ 16))).poolErr d false).noteUnmodelled none)) ∧
    (exclusiveOk (v.toNat % 2 ^ 16) (s.poolMasks d) = false → Does (.poolWayExclWrite who d v) s (s.poolErr d true)) ∧
    Does (.poolSweepDone d) s ((s.setFld (poolPage d + 0x144) 16 16 0).setFlag (poolPage d + 0x144) 0 false))

/-! ### Integrity, maintenance and power -/

/-- R178, R253, R270 to R279: a repair is asked for once, and runs, the first in its order, when it has its gap and nothing
stands in its way; one that finds no gap in wait_ms is recorded and its half held. A safe point ends what runs on the
resource; a refresh window's end puts the rate in force. Partition 0 retires a core: a spare at once, another through its
strands' parking, after which its number passes to a spare or is lost. -/
def Obligations.Repairs : Prop :=
  ∀ (s : State) (n k : Nat), n < 16 →
    (∀ o, o < s.stackBytes → Does (.rowRepairRequest n o) s (s.askMaint (.rowRepair n (bankRow o)))) ∧
    (k < 512 → Does (.nbuSwapRequest n k) s (s.askMaint (.nbuSwap n k))) ∧
    (∀ c, k < 32 → c < 256 → Does (.vcSwapRequest n k c) s (s.askMaint (.vcSwap n k c))) ∧
    (∀ c p, (c, p) ∈ [(Instr.rowRepairRun n, Activity.isRowOf n), (.nbuSwapRun n k, Activity.isSwapOf n k),
        (.vcSwapRun n k, Activity.isVcOf n k)] →
      (∀ m, s.nextRepair p = some m → Does c s (s.doRepair m.act).startMaint) ∧ (s.nextRepair p = none → Does c s s)) ∧
    (∀ m, s.maint.find? (fun y => y.starves s n) = some m →
      Does (.repairStarved n) s (((s.carry (s.starveAt n m)).starve n m).holdHalf (n * 2 + halfOf m.act.offset))) ∧
    (∀ r, Does (.maintSafePoint r) s ((s.endRuns r).safePoint r)) ∧
    (∀ r m, s.rateChange r = some m → Does (.refreshWindowEnd r) s (((s.setRate m.act).dropMaint m.act).safePoint r)) ∧
    (∀ who d p v, Who.root who = true → s.regSleeps (pg d Blk.core p + 0x220) = none → bit v.toNat 0 = true → (s.role d p).retired = false → p < 104 →
      ((s.role d p).logical = none → Does (.coreRetire who d p v) s (((s.setRole d p ⟨none, true⟩).clearInst d p).storeRequest 0)) ∧
      (∀ c, (s.role d p).logical = some c → Does (.coreRetire who d p v) s (s.askMaint (.coreRetire d p)).startMaint)) ∧
    (∀ d p c, (s.role d p).logical = some c → s.mayMigrate d p c = true →
      (∀ q, s.spareCore d = some q → Does (.coreRetireMigrate d p) s ((s.passNumber d p q c).retired d p c)) ∧
      (s.spareCore d = none → Does (.coreRetireMigrate d p) s ((s.loseNumber d p c).retired d p c)))

/-- R261, R262, R265 to R268, R280: the scrubber visits the next unit of its pass while nothing holds it and nothing more urgent
waits at a row's start, whether or not the pass is overdue, and the oldest location of its queue even where the pass is not
enabled; an injected correctable error is counted and corrected. A pass time outside 60 to 43,200 minutes leaves the field;
a flip control is armed as written. -/
def Obligations.Scrubbing : Prop :=
  ∀ (s : State) (d : Die) (i g : Nat), g = pg d Blk.scrub i →
    (∀ c a t, i < 14 → 0 < s.scrubUnits i d → c = (s.scrubber g).cursor → a = scrubUnitAt d i c →
      (s.flag (g + 0x100) 16 = true ∨ c % scrubRowUnits i ≠ 0) → s.mayScrub a = true →
      (s.scrubRuns a = true ∨ s.rowMayStart a = true) → t = (((s.markLate g).rowStart a).markRow a).scrubOne a →
      Does (.scrubVisit d i) s ((t.passOn g c (s.scrubUnits i d)).rowEnd i c (s.scrubUnits i d) a)) ∧
    (∀ a l, (s.scrubber g).queue = a :: l → s.mayScrub a = true →
      Does (.scrubQueuedVisit d i) s (((s.setScrubber g { s.scrubber g with queue := l }).markRow a).scrubOne a)) ∧
    (∀ a, (s.unit a).uncorr = false → (s.unit a).corr = true → (s.unit a).injected = true →
      s.scrubOne a = (s.bump (scrubPageOf a) 0x040 32 1).setUnit a UnitState.sound) ∧
    (∀ who v, Who.root who = true → (∀ o ∈ [0x100, 0x110], s.regSleeps (g + o) = none) →
      (∀ m t, s.locked g = false → m = v.toNat % 2 ^ 16 →
        t = (if 60 ≤ m ∧ m ≤ 43200 then s.setFld (g + 0x100) 0 16 m else s) →
        Does (.scrubPeriodWrite who d i v) s (t.setFlag (g + 0x100) 16 (bit v.toNat 16))) ∧
      Does (.scrubFlipArm who d i v) s (s.setFlip (g + 0x110) 0xFFFF001C v) ∧
      (s.regSleeps (pg d Blk.core i + 0x200) = none → Does (.coreFlipArm who d i v) s
        (if (s.role d i).logical.isSome then s.setFlip (pg d Blk.core i + 0x200) 0x00FF0000 v else s)))

/-- R24, R34, R253, R254, R269, R390, R392, R399: a poll of the memory devices sets the refresh rate wanted and the limit's
state; a controller whose link is lost fails with a record; a bridge transfer that is retried is counted, and one that
cannot be delivered is recorded and fails its requester; a request to a stopped domain raises its wake line, and one that
the domain does not answer in time fails. An exit or the Reservoir's initialisation that ends lets what was held go on. -/
def Obligations.ReservoirBridgeAndWakes : Prop :=
  ∀ (s : State) (d : Die) (c : Nat),
    (∀ l w t, c < 12 → s.flag (rvrPage c + 0x104) 0 = true → s.rvrFailed c = false → l ≠ [] →
      w = Nat.min (listMax (l.map (·.1))) 2 → t = s.askRefresh (.rvrRefresh c w) (s.fld (rvrPage c + 0x104) 3 2) w →
      ((∀ x ∈ l, x.2 = false) → Does (.rvrMr4Poll c l) s (t.rvrCool c)) ∧
      (∀ k, l.length = k + 1 → (∀ j, j < k → (l[j]?.map (·.2)) = some false) → (l[k]?.map (·.2)) = some true →
        Does (.rvrMr4Poll c l) s (t.rvrHot c k))) ∧
    (c < 12 → s.flag (rvrPage c + 0x104) 0 = true → s.rvrFailed c = false →
      Does (.rvrLinkLoss c) s (((s.rvrDown c).raise (rvrPage c) 0x030B none 0 2 false true).failRvr c)) ∧
    Does (.bridgeRetry d) s ((s.bump (pg d Blk.bridge 0) 0x040 32 1).noteUnmodelled none) ∧
    (∀ a n t, t = (s.bridgeRetried d n).bridgeLost d none a →
      Does (.bridgeUndeliverable d (.host false) a n) s (t.hostPoison a) ∧
      Does (.bridgeUndeliverable d (.host true) a n) s (t.emit (.errNonfatal 3))) ∧
    (∀ i a k x m n, s.strand (Sid.key i) = some x → x.inflight.find? (fun y => y.id == k) = some m →
      Does (.bridgeUndeliverable d (.strand i k) a n) s
        (((s.bridgeRetried d n).bridgeLost d (some x.part) a).failFlight i m (m.vaOf a))) ∧
    (∀ q a p g f n, s.requester q a = some (p, g, f) →
      Does (.bridgeUndeliverable d q a n) s (f ((s.bridgeRetried d n).bridgeLost d p a))) ∧
    (∀ k, s.domainStopped d c = true → Does (.domainWake d c k) s (s.wakeDie d)) ∧
    (∀ q a p g f, s.domainStopped d c = true → s.requester q a = some (p, g, f) →
      Does (.domainWakeTimeout d c q a) s (f (s.raise g 0x030D p a c false true))) ∧
    (∀ i a k x m, s.domainStopped d c = true → s.strand (Sid.key i) = some x → x.inflight.find? (fun y => y.id == k) = some m →
      Does (.domainWakeTimeout d c (.strand i k) a) s
        ((s.raise (s.corePage i.die i.core) 0x030D (some x.part) a c false true).failFlight i m (m.vaOf a))) ∧
    (∀ a h t, s.domainStopped d c = true → s.held.find? (fun y => y.addr == a) = some h →
      t = s.raise (s.heldPage h) 0x030D (some h.part) a c false true →
      Does (.domainWakeTimeout d c .crossing a) s (({ t with held := t.held.erase h } : State).heldFails h)) ∧
    (s.exiting d = true → s.power d = 1 → Does (.powerExitDone d) s (s.leaveLull d).runHeld) ∧
    (s.isOff = false → 9 ≤ s.stage → s.stage ≠ 15 →
      Does .reservoirInitDone s (({ s with rvrInit := [] } : State).setStage 11).runHeld)

/-- R389 to R396: a die whose conditions have held for lull_us begins its way into Lull, and both into Calm with their Pools
emptied once theirs have held for calm_s; an entry that ends is counted, and turns into an exit where a wake came meanwhile;
a wake line starts the exit; in Calm the watch reads the sensors and wakes the package where one stands at its limit and
wake_on_warn is set. -/
def Obligations.PowerStates : Prop :=
  ∀ (s : State) (d : Die),
    (s.lullReady d = true → Does (.lullIdleExpiry d) s
      ((s.carry (s.lullSince d + s.fld (pwrstPg d + 0x104) 0 14 * 1000)).setFlag (pwrState d) 2 true)) ∧
    (s.calmReady = true → Does .calmIdleExpiry s
      (((s.carry s.calmAt).emptyPools.enterCalm .windward).enterCalm .leeward)) ∧
    (s.entering d = true → s.power d = 0 →
      Does (.powerEntryDone d) s (s.entered d 1 0x040 (s.hk.get d).wakePending)) ∧
    (s.entering d = true → s.power d ≠ 0 → (∀ m ∈ s.maint, m.running = false) →
      (∀ e ∈ bothDies, s.voltWaits e = false) → Does (.powerEntryDone d) s ((s.entered .windward 2 0x044 s.wokenEither).entered .leeward 2 0x044 s.wokenEither)) ∧
    Does (.lullWake d) s (s.wakeDie d) ∧ Does .calmWake s ((s.wakeDie .windward).wakeDie .leeward) ∧
    (∀ f l t b, s.power d = 2 → ((s.watchAt d).watchDiodes d f).watchChans d f l = (t, b) →
      (((b || t.anyHot d) && t.flag (pwrstPg d + 0x10C) 10) = true → Does (.watchCycle d f l) s (t.wakeDie d)) ∧
      (((b || t.anyHot d) && t.flag (pwrstPg d + 0x10C) 10) = false → Does (.watchCycle d f l) s t))

/-- R397 to R404, R408, R453, R456: the pin, the register and a rise of VDD_HK reset the package: no strand, launch or stack
command is left and memory is cleared, and the store is kept; the housekeeping registers stay but for a cold reset. The
pin's rise lets boot run, or wait for a store write that was in progress. The module ID is set once. A lost reference clock
or rail stops what depends on it. -/
def Obligations.ResetsAndLosses : Prop :=
  ∀ (s : State) (who : Who) (d : Die) (v : Word),
    (s.pins.rails.contains .hk = true → Does .pkgRstAssert s ((s.setPkgRst false).packageReset 1)) ∧
    (s.pins.rails.contains .hk = false → Does .pkgRstAssert s (s.setPkgRst false)) ∧
    (who.root = true → bit v.toNat 0 = true → Does (.pwrstReset who d v) s (s.packageReset 2)) ∧
    (who.root = true → bit v.toNat 0 = false → Does (.pwrstReset who d v) s s) ∧
    Does .coldReset s s.cold ∧ s.cold.fuses = s.fuses ∧ s.cold.store = s.store.stop ∧ s.cold.regs = State.reset.regs ∧
    s.keptOver.fuses = s.fuses ∧ s.keptOver.faultLog = s.faultLog ∧ s.keptOver.strands = [] ∧ s.keptOver.launches = [] ∧
    s.keptOver.stk = [] ∧ s.keptOver.pool = State.reset.pool ∧ s.keptOver.held = [] ∧
    (∀ e, e ∈ s.keptOver.regs ↔ e ∈ s.regs ∧ keptReg e.1 = true) ∧ (∀ a, a < 2 ^ 44 → busRead s.mem s.keptOver.bus a = 0) ∧
    (∀ f, ((s.setPkgRst true).mayBoot = true → Does (.pkgRstDeassert f) s ((s.setPkgRst true).boot f)) ∧
      ((s.setPkgRst true).mayBoot = false → Does (.pkgRstDeassert f) s ((s.setPkgRst true).waitBoot f))) ∧
    (∀ t, who.root = true → t = ((s.setModuleId (v.toNat % 2 ^ 16) .windward).setModuleId (v.toNat % 2 ^ 16) .leeward).afterId →
      s.flag (pwrstPg s.active + 0x114) 16 = false →
      (bit v.toNat 18 = false → Does (.pwrstModuleIdWrite who d v) s t) ∧
      (bit v.toNat 18 = true → Does (.pwrstModuleIdWrite who d v) s (t.persist (v.toNat % 2 ^ 16)))) ∧
    (∀ c, s.pins.clkLost.contains c = false → Does (.refclkLoss c) s ((s.noteClk c).clkGone c)) ∧
    (∀ r, s.pins.rails.contains r = true →
      (r = .hk → Does (.railLoss r) s s.hkGone) ∧
      (r ≠ .hk → (s.dropRail r).railsDown = false →
        Does (.railLoss r) s ((s.dropRail r).railLow (railSel r).1 (railSel r).2)))

/-! ### The fabric, time, shadows and deadline monitors -/

/-- R34, R286 to R290, R294 to R296, R304, R335, R395: a packet out of its order on the link is not taken, and a replay is asked
for. A request that arrives for this package is answered: with status 5 while the package is split, with status 1 and a
record where no window admits it, and by performing it where a window does; it is held at a domain that sleeps, and in Calm,
which it wakes. A response ends its request, a packet of a reserved type is discarded and counted, and a packet for another
package goes on. -/
def Obligations.PacketsArrive : Prop :=
  ∀ (s : State) (p : Nat) (k : Packet) (t : State), p < 24 → s.portLive p = true →
    (s.inOrder p k.link = false → ∀ c, c ∈ [Instr.packetWrite, .packetRead, .packetAtadd, .packetCount, .packetResponse,
      .packetForward] → knownType k.ptype = true → Does (c p k) s (s.wantReplay p)) ∧
    (s.inOrder p k.link = true → t = s.received p k.link (pktUnits2 k) →
    (∀ c n, (c, n) ∈ [(Instr.packetWrite, 1), (.packetRead, 2), (.packetAtadd, 3), (.packetCount, 4)] → ∀ q, q = { k with ptype := n } →
      ∀ u, u = s.received p q.link (pktUnits2 q) → k.dst = u.selfId →
      (u.isSplit = true → Does (c p k) s (u.respond (dieOf (p / 12)) q 5 [])) ∧
      (u.isSplit = false → u.inWindows q (reqLen q) (reqPerm q) = false → Does (c p k) s (u.refuseReq (dieOf (p / 12)) q)) ∧
      (u.isSplit = false → u.inWindows q (reqLen q) (reqPerm q) = true → u.inCalm = true →
        Does (c p k) s ((u.wakeDie (dieOf (p / 12))).holdPacket p q)) ∧
      (u.isSplit = false → u.inWindows q (reqLen q) (reqPerm q) = true → u.inCalm = false →
        (u.spotWait q.addr = .go → Does (c p k) s (u.serveRequest (dieOf (p / 12)) q)) ∧
        (u.spotWait q.addr = .held → Does (c p k) s (u.holdPacket p q)) ∧
        (∀ w, u.spotWait q.addr = .wake w → Does (c p k) s ((u.wakeDie w).holdPacket p q)))) ∧
    (∀ q u, q = { k with ptype := 8 } → u = s.received p q.link (pktUnits2 q) → k.dst = u.selfId →
      Does (.packetResponse p k) s (u.endRequest k.srcDie k.reqId (k.arg.toNat % 256) k.payload)) ∧
    (knownType k.ptype = false → Does (.reservedPacket p k) s (t.bump (vroutePage (dieOf (p / 12))) 0x050 32 1)) ∧
    (knownType k.ptype = true → k.dst ≠ t.selfId →
      ((isRequest k.ptype && t.inCalm) = false → Does (.packetForward p k) s (t.forward (dieOf (p / 12)) k)) ∧
      ((isRequest k.ptype && t.inCalm) = true → Does (.packetForward p k) s ((t.wakeDie (dieOf (p / 12))).holdPacket p k))))

/-- R282 to R284, R292, R296, R302, R309: a packet that fails its check is asked for again, and what the partner asks for is
sent again; replays are counted, and sixteen in a millisecond retrain the port; the spare lane takes a failing lane's place,
and a second failure retrains onto four; partition 0 enables, disables and retrains a port and reserves its buffer, never
past 3,520 units; a signal starts training, which ends Up or Degraded or at an identity conflict; a retrain that does not
end, a lost signal and silence make a port that has been Up Dead (`portDead`); one in its first training is Down again
without a signal. -/
def Obligations.PortLinks : Prop :=
  ∀ (s : State) (p : Nat), p < 24 →
    (s.portLive p = true → Does (.linkReplay ⟨p, none⟩) s (s.wantReplay p) ∧ ∀ q, Does (.linkReplay ⟨p, some q⟩) s (s.resend p q)) ∧
    (∀ t x, t = s.bump (portPage p) 0x040 32 1 → x = s.port p →
      ((x.replays s.now).length < 16 → s.countReplay p = t.setPort p (x.setReplays (x.replays s.now))) ∧
      (16 ≤ (x.replays s.now).length → s.countReplay p = (t.setPort p (x.setReplays [])).retrain p)) ∧
    (∀ lane, lane ≤ 8 → s.portLive p = true → s.flag (portPage p + 0x104) 3 = false →
      Does (.laneSpareSwap p lane) s (s.useSpare p lane)) ∧
    (s.portState p = 2 → s.flag (portPage p + 0x104) 3 = true → Does (.portDegrade p) s (s.retrain p)) ∧
    (∀ who v, Who.root who = true → s.locked (portPage p) = false →
      (∀ o ∈ [0x100, 0x140], ∀ q < 16, s.regSleeps (portPage p + o + q * 4) = none) →
      Does (.vlRetrain who p v) s ((s.enablePort p (bit v.toNat 0)).retrain p) ∧
      (bit v.toNat 1 = false → Does (.vlEnableWrite who p v) s (s.enablePort p (bit v.toNat 0))) ∧
      (bit v.toNat 1 = true → Does (.vlEnableWrite who p v) s ((s.enablePort p (bit v.toNat 0)).retrain p)) ∧
      (∀ q, q < 16 → (s.gUnitsElse p q + v.toNat % 4096 ≤ 3520 → Does (.vlGUnitsWrite who p q v) s
          (((s.setReg (portPage p + 0x140 + q * 4) (w64 (v.toNat % 4096))).setFlag (portPage p + 0x104) 10 false).noteUnmodelled
            (some q))) ∧
        (3520 < s.gUnitsElse p q + v.toNat % 4096 → Does (.vlGUnitsWrite who p q v) s
          (s.setFlag (portPage p + 0x104) 10 true)))) ∧
    (∀ a, (s.port p).retrainAt = some a → Does (.retrainTimeout p) s ((s.carry (a + 500000)).portDead p 0)) ∧
    (s.portState p = 0 ∨ s.portState p = 4 → s.flag (portPage p + 0x100) 0 = true → s.flag (pwrstPg s.active + 0x114) 16 = true →
      Does (.partnerSignalDetect p) s (s.setPortState p 1)) ∧
    (∀ m mp st n, s.portState p = 1 → n = 8 ∨ n = 4 →
      (s.identityConflict p m st = false → Does (.portTrained p m mp st n) s (s.comeUp p m mp st n)) ∧
      (s.identityConflict p m st = true → Does (.portTrained p m mp st n) s
        (s.raise (portPage p) 0x0502 none m st.toNat false false))) ∧
    (∀ n, (s.portState p = 2 ∧ 5 ≤ n) ∨ (s.portState p = 3 ∧ 3 ≤ n) →
      Does (.portSignalLoss p n) s ((s.carry (s.now + 1000)).portDead p 1)) ∧
    (∀ n, s.portState p = 1 → (s.port p).retrainAt = none → 5 ≤ n → Does (.portSignalLoss p n) s (s.portDown p)) ∧
    (s.portLive p = true →
      Does (.portSilence p) s (((s.carry ((s.port p).lastRx + 40000)).bump (portPage p) 0x060 32 4).portDead p 2))

/-- R286, R290, R295, R297 to R304, R311: an idle port sends a BREEZE, and a BREEZE tells whether the partner is split; a
stalled channel is recorded; a request without an answer ends with status 8; a LOSS not seen before is acted on, and after
its grace the requests to the lost module end with status 7. A child asks its parent for the time each interval, a parent
answers, the answer sets the offset, and a parent that fails is replaced or held over; partition 0 writes TIME_CFG. -/
def Obligations.WatchesLossesAndTime : Prop :=
  ∀ (s : State) (p : Nat) (d : Die),
    (p < 24 → s.portLive p = true →
      (∀ t, s.mayBreeze p = true → t = s.carry ((s.port p).lastTx + 10000) →
        Does (.breezeIdleExpiry p) s ((t.enqueue p (t.breezePacket p)).drainPort p)) ∧
      (∀ l, s.inOrder p l = false → (∀ st b, Does (.breeze ⟨p, l⟩ st b) s (s.wantReplay p)) ∧
        (∀ st m r h, Does (.loss ⟨p, l⟩ st m r h) s (s.wantReplay p)) ∧ (∀ t1 m, Does (.timeReq ⟨p, l⟩ t1 m) s (s.wantReplay p)) ∧
        (∀ t1 t2 u n a, Does (.timeRsp ⟨p, l⟩ t1 t2 u n a) s (s.wantReplay p))) ∧
      ∀ l, s.inOrder p l = true →
      (∀ st b, Does (.breeze ⟨p, l⟩ st b) s ((s.received p l 1).setFlag (portPage p + 0x104) 9 b)) ∧
      (∀ st m r h t, t = s.received p l 1 →
        (m = t.selfId → Does (.loss ⟨p, l⟩ st m r h) s (t.bump (vroutePage (dieOf (p / 12))) 0x050 32 1)) ∧
        (m ≠ t.selfId → t.lossSeen.contains (m, st) = true → Does (.loss ⟨p, l⟩ st m r h) s t) ∧
        (m ≠ t.selfId → t.lossSeen.contains (m, st) = false → Does (.loss ⟨p, l⟩ st m r h) s (t.heedLoss p m st r h))) ∧
      (∀ t1 m t, t = s.received p l 1 → Does (.timeReq ⟨p, l⟩ t1 m) s
        (t.enqueue p (t.controlPacket 0x12 m (w64 t.now) (timeAnswer t1 (t.fld (timePg + 0x10C) 2 5))))) ∧
      (∀ t1 t2 u n a t off, t = s.received p l 3 → off = timeOffset t.now t1 t2 u ((t.port p).asym.getD a) → t.timeState ≠ 3 → p = t.timePort → t.portState p = 2 →
        t.time.t1 = some t1 → Does (.timeRsp ⟨p, l⟩ t1 t2 u n a) s (((((t.setPort p ((t.port p).measured a)).applyOffset off).setReg (timePg + 0x110)
          (w64 (shownOffset off))).setFld (timePg + 0x10C) 2 5 (Nat.min (n + 1) 31)).setTimeState 1))) ∧
    (∀ vc f, p < 24 → (s.port p).queue.any (fun k => k.vc == vc && k.falling == f) = true →
      Does (.vcStall p vc f) s (((s.setPort p ((s.port p).starveVc vc f)).setFlag (portPage p + 0x104) 8 true).raise (portPage p)
        0x0503 none (vc + boolNat f * 4) 0 false false)) ∧
    (∀ id r t, s.requests.find? (fun r => r.die == d && r.id == id) = some r →
      t = s.carry r.due →
      Does (.respTimeout d id) s ((t.endRequest d id 8 []).bump (vroutePage d) 0x04C 32 1)) ∧
    (∀ m e, s.lossGrace.find? (fun e => e.1 == m) = some e →
      Does (.lossGraceExpiry m) s ((s.carry (e.2 + 10000)).graceOver e.1 e.2)) ∧
    (∀ t, s.timeState ≠ 3 → s.timePorts ≠ [] →
      t = (s.slewBy s.timeIv).countMiss →
      Does .timeExchangeTick s (t.askTime t.askPort)) ∧
    (s.timeState ≠ 3 → s.timePorts ≠ [] → s.parentBad = true →
      (∀ q, s.nextParent = some q → Does .timeParentFailover s (s.usePort q (s.timePorts.idxOf q))) ∧
      (s.nextParent = none → s.timeState ≠ 2 → Does .timeParentFailover s s.holdover)) ∧
    (∀ who (v : Word) iv t, Who.root who = true → s.locked (pg d Blk.time 0) = false →
      iv = (if bits v.toNat 24 8 = 0 then bits (s.reg (timePg + 0x108)).toNat 24 8 else bits v.toNat 24 8) →
      t = s.setReg (timePg + 0x108) (w64 (v.toNat % 2 ^ 19 + iv * 2 ^ 24)) →
      (bit v.toNat 0 = true → Does (.timeCfgWrite who d v) s ((t.setTimeState 3).setFld (timePg + 0x10C) 2 5 0)) ∧
      (bit v.toNat 0 = false → Does (.timeCfgWrite who d v) s (t.toChild (s.reg (timePg + 0x108)).toNat v.toNat)))

/-- R293, R306 to R308, R310: partition 0 writes a routing entry; the SCC alone submits a shadow descriptor, which is checked,
sends its writes as requests are free, then its COUNT, and ends with its record; partition 0 cancels a partition's. -/
def Obligations.TablesAndShadows : Prop :=
  ∀ (s : State) (d : Die), (∀ o ∈ [0x108, 0x130, 0x13C], s.regSleeps (vroutePage d + o) = none) →
    (∀ who v, Who.root who = true → s.locked (vroutePage d) = false → Does (.vrouteRtDataWrite who d v) s
      { s with routes := mset 0 s.routes (s.fld (vroutePage d + 0x100) 0 9) (w64 (v.toNat % 2 ^ 25)) }) ∧
    (∀ v, ((s.shadow.get d).length < 64 →
        Does (.vrouteShadowSubmit .scc d v) s (s.setShadows d (s.shadow.get d ++ [s.newShadow v.toNat]))) ∧
      (64 ≤ (s.shadow.get d).length → Does (.vrouteShadowSubmit .scc d v) s s)) ∧
    (∀ who v, who ≠ .scc → Does (.vrouteShadowSubmit who d v) s s) ∧
    (∀ x l t b sd, s.shadow.get d = x :: l → x.cancelled = false → x.rejected = false → s.shadowReady d x = (t, b) →
      sd = shadowDesc (t.bytes x.pa 64) →
      (b = false → Does (.shadowDescriptorRun d) s (t.setShadowFront d x.reject)) ∧
      (b = true → x.sentAll = false → Does (.shadowDescriptorRun d) s (t.shadowPush d x sd)) ∧
      (b = true → x.sentAll = true → x.outstanding = [] → sd.peerCtr ≠ 0 → x.counted = false → x.remoteErr = none →
        Does (.shadowDescriptorRun d) s (t.shadowCount d x sd))) ∧
    (∀ x l sd, s.shadow.get d = x :: l → sd = shadowDesc (s.bytes x.pa 64) →
      (x.cancelled = true ∨ x.rejected = true ∨ x.waits sd = false) → Does (.shadowDescriptorDone d) s (s.endShadow d x sd)) ∧
    (∀ who v t, Who.root who = true → (∀ x ∈ s.shadow.get d, x.cancelled = false) →
      t = s.setReg (vroutePage d + 0x13C) (w64 (v.toNat % 16)) →
      (bit v.toNat 4 = true → Does (.vrouteShadowCancel who d v) s (t.cancelShadows d (v.toNat % 16))) ∧
      (bit v.toNat 4 = false → Does (.vrouteShadowCancel who d v) s t))

/-- R360 to R363: partition 0 arms a monitor, which then judges its counter, or releases it; an armed monitor judges its counter
anew at each change; at its deadline a counter below its target is missed, and max_late_ms later the miss is recorded as
abandoned. -/
def Obligations.DeadlineMonitors : Prop :=
  ∀ (s : State) (d : Die) (m : Nat), m < 64 →
    (∀ who (v : Word) x t, Who.root who = true → x = (v ||| 1).toNat → t = s.dlFields d m x →
      (t.dlArmed d m = false → Does (.faultDlArm who d m v) s (t.dlArm d m)) ∧
      (t.dlArmed d m = true → Does (.faultDlArm who d m v) s t)) ∧
    (∀ who (v : Word), Who.root who = true → Does (.faultDlDisarm who d m v) s
      ((s.dlFields d m (v &&& ~~~ (1 : Word)).toNat).dlRelease d m)) ∧
    (s.dlArmed d m = true → Does (.dlCounterChange d m) s (s.dlEvaluate d m)) ∧
    (s.dlArmed d m = true → s.dlMissed d m = false →
      (s.dlAt d m < s.now → Does (.dlDeadlinePass d m) s (s.dlMiss d m)) ∧
      (∀ t, s.now ≤ s.dlAt d m → t = s.dlEvaluate d m →
        (t.dlArmed d m = true → Does (.dlDeadlinePass d m) s ((t.carry (t.dlAt d m)).dlMiss d m)) ∧
        (t.dlArmed d m = false → Does (.dlDeadlinePass d m) s t))) ∧
    (s.dlArmed d m = true → s.dlMissed d m = true →
      Does (.dlMaxLateExpiry d m) s ((s.carry (s.dlAt d m + s.fld (dlBase d m + 0x18) 16 16 * 1000000)).dlRecord d m true))

/-! ### Housekeeping -/

/-- R37 to R40, R365 to R372, R375 to R381: a power-down commands rails off one by one, each once no such frame waits; a diode
at 115 °C trips the package; an AVSBus frame is answered, repeated, or recorded as failed; a raise steps the clock once its
voltage has settled; samples of a die's channels lower or free the limits, and a trip limit reached three times in a row
starts the power-down; the timers of the cap and of the throttle step the clocks; a scan round reads the sensors in order; a
lost lock of the housekeeping clock holds the cores at 1.2 GHz until it is regained. -/
def Obligations.SensorsAndClocks : Prop :=
  ∀ (s : State) (d : Die),
    ((s.hk.get d).downRails = none ∨ (s.hk.get d).downRails = some [] → Does (.railOffStep d) s s) ∧
    (∀ r l, (s.hk.get d).downRails = some (r :: l) →
      ((∀ q ∈ (s.hk.get d).avs, q.kind ≠ .off) → Does (.railOffStep d) s ((s.awaitOff d).askOff d r l)) ∧
      ((∃ q ∈ (s.hk.get d).avs, q.kind = .off) → Does (.railOffStep d) s s)) ∧
    (∀ k t, k < 9 → 115 * 16 ≤ t → s.flag (thermPg d + 0x100 + k * 4) 20 = false →
      Does (.tripCompare d k t) s ((s.noteTrip d k t).assertTrip.powerDown d) ∧ (s.noteTrip d k t).assertTrip.pins.thermTripN = false) ∧
    (∀ k t, t < 115 * 16 → Does (.tripCompare d k t) s s) ∧
    (∀ r, (s.hk.get d).nextAvs = some r → 
      (∀ v, Does (.avsTransaction d (.ok v)) s ((s.setHk d ((s.hk.get d).dropAvs r)).avsDone d r v)) ∧
      (∀ a, (∀ v, a ≠ .ok v) →
        (r.tries < 3 → Does (.avsTransaction d a) s ((s.setHk d ((s.hk.get d).retryAvs r)).bump (avsPg d) 0x040 32 1)) ∧
        (3 ≤ r.tries → Does (.avsTransaction d a) s ((s.setHk d ((s.hk.get d).dropAvs r)).failAvs d r)))) ∧
    (∀ c, (s.hk.get d).raiseTo = some c → (∀ r ∈ (s.hk.get d).avs, r.kind ≠ .setVolt) →
      Does (.voltageSettled d) s (((s.endRaise d).setClock d c).showTherm d)) ∧
    (∀ l v t, s.hkSleeps d = false →
      (s.takeSamples d l v = (t, true) → Does (.currentSample d l v) s ((t.sampled d).powerDown d)) ∧
      (s.takeSamples d l v = (t, false) → Does (.currentSample d l v) s (t.sampled d))) ∧
    (∀ a, s.cap.t0 = some a → Does .powerExcursionTimer s (s.carry (a + 8000000)).capLower) ∧
    (∀ a, s.cap.below2700 = some a →
      (s.cap.fresh = true → Does .clockRaiseTimer s
        ((({ s.carry (a + 50000000) with cap := { s.cap with fresh := false } } : State).capRaise .windward).capRaise .leeward)) ∧
      (s.cap.fresh = false → Does .clockRaiseTimer s s)) ∧
    (s.hkSleeps d = false → ((s.hk.get d).throttling || (s.hk.get d).rateOn) = true →
      ((s.hk.get d).rising = true → Does (.throttleStepTimer d) s ((s.throttleDown d (s.hk.get d).throttling).showTherm d)) ∧
      ((s.hk.get d).rising = false → Does (.throttleStepTimer d) s (s.showTherm d))) ∧
    (s.hkSleeps d = false → ((s.hk.get d).throttling || (s.hk.get d).rateOn) = false →
      Does (.throttleStepTimer d) s ((s.throttleUp d).showTherm d)) ∧
    (∀ f, s.hkSleeps d = false → Does (.scanRound d f) s
      (((((s.countLate d f.late).readDiodes d f).railVolts d f.railMv).checkStale d).endRound d f.eyeMargin)) ∧
    Does (.pllLockLoss d) s ((((((s.setFlag (hkPg d + 0x100) 0 false).setFlag (hkPg d + 0x100) 1 true).raise (hkPg d) 0x060B none
      0 0 false false).setHoldPll d true).applyLimits).showTherm d) ∧
    Does (.pllLockRegain d) s (((s.setFlag (hkPg d + 0x100) 0 true).setFlag (hkPg d + 0x100) 1 false).setHoldPll d false)

/-- R301, R313, R373, R382 to R385: the estimator takes a window and calibrates at the eighth quiet one or by a fit over 256
that is good enough; one too old is marked and recorded. A heartbeat is sent with the die's epoch and claim; one that
arrives settles a claim or ends a split; without one for 1 ms the half leads or enters the split state. A die without cap
commands holds 1.2 GHz; a die that answers no probe, or an SCC whose counter stands, wedges the package; a lapsed token
idles its ports. -/
def Obligations.EstimatorAndLeadership : Prop :=
  ∀ (s : State) (d : Die),
    (∀ m sp rs sps mv k h, s.hkSleeps d = false → k = Config.leak mv (s.hk.get d).diodeNow → h = (s.hk.get d).window m k rs (quietWindow sp sps) →
      (h.quietRun < 8 ∨ h.steady = false → Does (.estimatorWindow d m sp rs sps mv) s (s.setHk d h)) ∧
      (8 ≤ h.quietRun → h.steady = true → Does (.estimatorWindow d m sp rs sps mv) s
        (if k = 0 then s.setHk d h else (s.setHk d h).calibrated d (h.quietPoint k rs :: h.coeff.drop 1) 1))) ∧
    (∀ f, s.hkSleeps d = false → 256 ≤ (s.hk.get d).windows.length → f = Config.regressionFit (s.hk.get d).windows →
      Does (.estimatorRegression d) s
        (if s.fld (measPg d + 0x208) 12 8 ≤ f.1 ∧ (s.hk.get d).residualOk f.2 = true then s.calibrated d f.2 2 else s)) ∧
    (s.hkSleeps d = false → s.flag (measPg d + 0x204) 30 = false →
      Does (.estimatorStale d) s ((s.carry (s.staleAt d)).goStale d)) ∧
    (s.hkSleeps d = false → Does (.heartbeatSend d) s
      { s with out := s.out ++ [.heartbeat d (s.epoch d) (s.leads d) (Config.bootStamp s.host.boots)] }) ∧
    (∀ e c st h t, h = (s.hk.get d).heard s.now e st → t = s.setHk d h →
      (t.flag (leadPg d + 0x104) 1 = false → c = true → Does (.heartbeatRx d e c st) s (t.settleClaim d e)) ∧
      (t.flag (leadPg d + 0x104) 1 = false → c = false → Does (.heartbeatRx d e c st) s t) ∧
      (t.flag (leadPg d + 0x104) 1 = true → h.beatsSince.getD s.now + 1000000 ≤ s.now →
        Does (.heartbeatRx d e c st) s (t.endSplit d e)) ∧
      (t.flag (leadPg d + 0x104) 1 = true → s.now < h.beatsSince.getD s.now + 1000000 → Does (.heartbeatRx d e c st) s t)) ∧
    (s.hkSleeps d = false → Does (.capCommandTimeout d) s ((s.carry ((s.hk.get d).lastCap + 200000)).holdCaps d)) ∧
    (∀ a t, s.hkSleeps d = false → (s.hk.get d).lastBeat = some a → s.flag (leadPg d + 0x104) 1 = false → t = (s.carry (a + 1000000)).noBeat d →
      Does (.heartbeatLoss d true) s (t.takeLead d) ∧ Does (.heartbeatLoss d false) s (t.enterSplit d)) ∧
    (s.power d < 2 → Does (.wedgeProbe d true) s (s.setMisses d 0) ∧
      (∀ n, n = (s.hk.get d).probeMisses + 1 →
        (n < 3 → Does (.wedgeProbe d false) s (s.setMisses d n)) ∧
        (3 ≤ n → Does (.wedgeProbe d false) s ((s.setMisses d n).wedge d 1)))) ∧
    (s.power d < 2 → s.fld (hkPg d + 0x108) 0 32 ≠ (s.hk.get d).beatSeen → Does (.sccBeatTimeout d) s (s.sawBeat d)) ∧
    (s.power d < 2 → s.fld (hkPg d + 0x108) 0 32 = (s.hk.get d).beatSeen → s.quiley.reqs.any (fun r => r.stat.live) = true →
      Does (.sccBeatTimeout d) s
        ((s.carry ((s.hk.get d).beatAt + s.fld (hkPg d + 0x104) 8 16 * 1000000)).wedge d 2)) ∧
    Does (.aliveLapse d) s (s.withdraw d)

/-! ### Serving -/

/-- R316 to R321, R329, R332, R333, R337, R339, R340, R425: the host's write of a submission tail within the free entries is
taken, one past them stops the pair; a completion head frees entries for waiting events; a configuration that asks a pair to
run starts it anew, one that does not stops it. Quiley takes the next entry of a queue pair that may be read; the first of
the command's reasons that holds refuses it, a reserved opcode among them, and a command that none refuses runs: a SUBMIT or
RESUME that the Weir and a peer allow enters the table with its event, a CANCEL masks its request and kills its work, a
QUERY is answered with the request's state, an orphan or a registration is released, a model slot is filled or emptied, a
policy set. -/
def Obligations.ServingCommands : Prop :=
  (∀ (s : State) (f k : Nat) (v : Word), f ≤ 16 → k ≤ 3 →
    (s.pairRuns f k = true →
      ((v.toNat % 65536 + 65536 - s.sqTail f k) % 65536 + (s.sqTail f k + 65536 - s.sqHead f k) % 65536 ≤ 2 ^ s.sqLog2 f k →
        Does (.sccSqTailWrite f k v) s (s.setFld (s.qpBase f k + 0x18) 0 16 v.toNat)) ∧
      (2 ^ s.sqLog2 f k < (v.toNat % 65536 + 65536 - s.sqTail f k) % 65536 + (s.sqTail f k + 65536 - s.sqHead f k) % 65536 →
        Does (.sccSqTailWrite f k v) s
          ((s.setFlag (s.qpBase f k + 0x14) 1 true).setFlag (s.qpBase f k + 0x14) 0 false))) ∧
    (s.pairRuns f k = false → Does (.sccSqTailWrite f k v) s s) ∧
    Does (.sccCqHeadWrite f k v) s
      (State.drainCq f k ((s.pair f k).waiting.length + 1) (s.setFld (s.qpBase f k + 0x1C) 0 16 v.toNat)) ∧
    (∀ t, t = s.setQpCfg f k v.toNat →
      (s.flag (s.qpBase f k + 0x10) 8 = false → asksRun v.toNat = true → t.pairMay f = true →
        Does (.sccQpCfgWrite f k v) s (t.startPair f k)) ∧
      (s.flag (s.qpBase f k + 0x10) 8 = true → asksRun v.toNat = false → Does (.sccQpCfgWrite f k v) s (t.stopPair f k)) ∧
      (s.flag (s.qpBase f k + 0x10) 8 = false → t.pairMay f = false → Does (.sccQpCfgWrite f k v) s t) ∧
      (s.flag (s.qpBase f k + 0x10) 8 = asksRun v.toNat → Does (.sccQpCfgWrite f k v) s t))) ∧
  (∀ (s t : State) (f k : Nat) (b : List Byte) (e : SqEntry), s.takeEntry f k = some t → e = sqEntry f k b →
    (∀ (a : Bool × Bool) (p : ModelPackage) (op : Nat) (c : Instr) (l : SqEntry → State → List (Bool × Nat))
        (r : SqEntry → State → State) (w : List (Bool × Nat)), (op, c, l, r) ∈ [
          (0x01, Instr.submit ⟨f, k, b⟩ a, submitReasons, State.runSubmit a),
          (0x02, .cancel ⟨f, k, b⟩, cancelReasons, State.runCancel),
          (0x03, .resume ⟨f, k, b⟩ a, resumeReasons, State.runResume a),
          (0x04, .query ⟨f, k, b⟩, queryReasons, State.runQuery),
          (0x05, .releaseShadow ⟨f, k, b⟩, releaseReasons, State.runRelease),
          (0x10, .loadModel ⟨f, k, b⟩ p, loadReasons p, State.runLoad p),
          (0x11, .unloadModel ⟨f, k, b⟩, unloadReasons, State.runUnload)] →
        (sqOpcode b = op ∨ knownSq (sqOpcode b) = false) →
        w = (t.shutOut e, 8) :: (sqOpcode b != op, 1) :: l e t →
          (∀ n, verdict w = some n → Does c s (t.refuse e n 0)) ∧ (verdict w = none → Does c s (r e t))) ∧
    (∀ b0 pt dw dl g mx h c w, b = policyBytes b0 pt dw dl g mx h → c = Instr.setPolicy ⟨f, k, b0⟩ pt dw dl g mx h →
      (sqOpcode b = 0x20 ∨ knownSq (sqOpcode b) = false) →
      w = (t.shutOut e, 8) :: (sqOpcode b != 0x20, 1) :: policyReasons (policyPart b) (policyOf b) e t →
        (∀ n, verdict w = some n → Does c s (t.refuse e n 0)) ∧
        (verdict w = none → Does c s (State.runPolicy (policyPart b) (policyOf b) e t))) ∧
    (∀ a x, x = (t.newReq e).withPeer none → e.shadow = false → t.overRate x = none →
      State.runSubmit a e t = (((t.addReq x).tellPeer x).reqEvent x 0x01 0 0).startPrefill x.part) ∧
    (∀ a x us, x = (t.newReq e).withPeer none → e.shadow = false → t.overRate x = some us →
      State.runSubmit a e t = t.refuse e 4 us) ∧
    (∀ x y, t.byId f e.requestId = some x → y = { x with masked := true, sums := [], moves := [], fetches := 0 } →
      State.runCancel e t = (((t.setReq y).killWork y).finishLane y.slot).startPrefill y.part) ∧
    (∀ x, t.asked e = some x →
      State.runQuery e t = t.event f k e.requestId 0x0C x.stat.code x.committed 0 0))

/-- R314, R323, R325 to R330, R334 to R336, R340, R359: a prefill whose launches are done takes the gap's work, its prompt's
SUMMARISEs made first where they are not, and once every one is accepted the request is a lane with its first token; a step
that may be issued begins with its lanes, its ATTENDs and its layers, and is watched to its deadline or has its bound told;
one that may not be lets the gap's work go; a step of which nothing is left commits: the lengths, the step counter's
advance, each lane in turn, the shadows and the gap. An orphan whose hold has ended is released; a lane whose spare has not
come is held, and one whose pages are back waits no longer; the hold on a half ends once no slice stands there. -/
def Obligations.QueuesAndSteps : Prop :=
  ∀ (s : State),
    (∀ n r t, s.req n = some r → s.serving = true → r.stat = .prefill → r.masked = false → r.launches.any s.launchLeft = false →
      t = (if r.summed = true then s.gapWork r.part else s.sumPrompt r) →
      (∀ x, t.req n = some x → t.sumsLeft x = false →
        Does (.prefillDone n) s (((t.setReq x.prefilled).drawToken x.prefilled).startPrefill x.part)) ∧
      (∀ x, t.req n = some x → t.sumsLeft x = true → Does (.prefillDone n) s t) ∧
      (t.req n = none → Does (.prefillDone n) s t)) ∧
    (∀ p d m c h st t, h = (s.carry (mget 0 s.quiley.gapUntil p)).holdCold p →
      (h.mayStep p d m c = true → st = h.newStep p d m c → t = h.issueStep p st →
        (∀ dl, h.promise p = some dl → Does (.stepIssue p d m c) s (t.watchStep p st dl)) ∧
        (h.promise p = none → Does (.stepIssue p d m c) s (t.tellSlow (h.nextLanes p) (h.nextBound p)))) ∧
      (h.mayStep p d m c = false → s.serving = true → mget none s.quiley.steps p = none →
        Does (.stepIssue p d m c) s ((s.holdCold p).gapWork p))) ∧
    (∀ p st t, mget none s.quiley.steps p = some st → s.serving = true → s.stepDone p st = true →
      t = st.slots.foldl State.commitLane (((s.endStep p).writeLengths (s.stepLanes st)).countUp 0 st.counter) →
        Does (.stepCommit p) s ((((st.slots.foldl State.shadowLane t).beginGap p).gapWork p).startPrefill p)) ∧
    (∀ n r, s.req n = some r → r.stat = .orphaned → Does (.orphanHoldExpiry n) s
      (((s.carry (r.orphanAt + (s.policy r.part).holdS * 1000000000)).release r).dropReq n)) ∧
    (∀ n r a, s.req n = some r → r.spareWait = some a → r.stat.live = true → r.masked = false →
      (s.whole r = false → Does (.spareWaitExpiry n) s (((s.carry (a + 1000000)).holdLane r).gapWork r.part)) ∧
      (s.whole r = true → Does (.spareWaitExpiry n) s (s.setReq { r with spareWait := none }))) ∧
    (∀ n h, s.noSlice n (fun u => decide (u / 256 = h)) = true →
      Does (.repairHoldExpiry n h) s ((s.carry (s.holdEnds n h)).freeHalf (n * 2 + h)).quileyNote)

/-! ### The configuration store, the host, management, the test port and the register file -/

/-- R404, R405, R407, R409: a write of an area begins, or waits merged behind the one that runs, and never goes to a valid copy
in use; its operations run in order while the die is between 0 and 90 °C and are held otherwise, and they leave the other
copies of the area as they are; the commit done, a data copy is in use and a firmware copy waits for the boot, which begins
where it waited for the write. The fused security versions are raised by partition 0, under the same temperature rule, and
never lowered. -/
def Obligations.ConfigurationStore : Prop :=
  ∀ (s : State) (a : Nat) (w : StoreWrite) (who : Who) (v : Word),
    (s.store.writing = none → a ≤ 1 → Does (.cfgStoreWrite a) s (s.storeBegin a)) ∧
    (s.store.writing = some w → a ≤ 1 → Does (.cfgStoreWrite a) s (s.withStore (s.store.queueWrite a))) ∧
    (a ≤ 1 → (s.store.copy a (s.store.used a)).valid = true → s.store.target a ≠ s.store.used a) ∧
    (s.storeWarm = true → s.store.svnWaiting = true → Does .cfgStoreOp s (s.holdStore false).burnSvn) ∧
    (s.storeWarm = true → s.store.svnWaiting = false → s.store.writing = some w → w.ops < 4 → (w.ops = 3 → s.mayCommit w = true) →
      Does .cfgStoreOp s ((s.holdStore false).withStore (s.store.runOp w))) ∧
    (s.storeWarm = false → s.store.writing.isSome = true ∨ s.store.svnWaiting = true → Does .cfgStoreOp s (s.holdStore true)) ∧
    (w.area ≤ 1 → w.copy ≤ 1 → ∀ b c, b ≤ 1 → c ≤ 1 → ¬ (b = w.area ∧ c = w.copy) →
      (s.store.runOp w).copy b c = s.store.copy b c) ∧
    (s.store.writing = some w → 4 ≤ w.ops →
      Does .cfgStoreWriteDone s ((((s.withStore (s.store.written w)).bump s.cfgstPage 0x040 32 1).storeNext).bootNow)) ∧
    (who.root = true → bit v.toNat 0 = true →
      (s.storeWarm = true → Does (.cfgstSvnCommit who v) s s.burnSvn) ∧
      (s.storeWarm = false → Does (.cfgstSvnCommit who v) s
        ((s.withStore s.store.queueSvn).holdStore true))) ∧
    s.fuses.hkSvn ≤ s.burnSvn.fuses.hkSvn ∧ s.fuses.sccSvn ≤ s.burnSvn.fuses.sccSvn

/-- R34, R395, R411, R413 to R418: a host request to a function that no reset holds is performed, waits behind an earlier posted
write of its function, or waits while a sleeping domain wakes; what reads good bytes completes with them, and a location
that holds nothing with Unsupported Request. A DMA tail within the free entries is taken and one past them stops the
channel; the oldest descriptor moves its bytes with the host's answer, and ends in error when the host does not answer or
may not be reached. The host's reset takes every function and its link; the package trains anew when it ends; a reset of
function 0 takes every function, and of another that one. -/
def Obligations.HostRequestsAndResets : Prop :=
  ∀ (s t : State) (a n ch : Nat) (b : List Byte) (ep : Bool) (d : DmaDesc) (v : Nat) (who : Who),
    (s.host.linkUp = true → s.host.inReset.contains (hostFunction a) = false →
      (s.hostWait a n = .go → Does (.hostRead a n) s (s.hostReadGo a n)) ∧
      (s.hostWait a n = .held → Does (.hostRead a n) s (s.hold (.hostRead a n))) ∧
      (∀ w, s.hostWait a n = .wake w → Does (.hostRead a n) s ((s.wakeDie w).hold (.hostRead a n))) ∧
      (s.hostWait a b.length = .go → Does (.hostWrite a b ep) s (s.hostWriteGo a b ep)) ∧
      (s.hostWait a b.length = .held → Does (.hostWrite a b ep) s (s.hold (.hostWrite a b ep))) ∧
      (∀ w, s.hostWait a b.length = .wake w → Does (.hostWrite a b ep) s ((s.wakeDie w).hold (.hostWrite a b ep)))) ∧
    (s.hostPlace a n = .nothing → s.hostReadGo a n = (s.hostHole a).emit .cplUr) ∧
    (s.hostPlace a n = .addr a → s.spotRead .host (askedBy s.pciePage 3) 0 false a n = (t, 0, b) →
      s.hostReadGo a n = (t.countFar (spotDie a) t.active n).emit (.cplData b)) ∧
    (who.root = true → ch < 16 → s.dmaRuns ch = true → ∀ x, x = s.dmaBase ch → s.regSleeps (x + 0x14) = none →
      ((v % 65536 + 65536 - s.fld (x + 0x14) 0 16) % 65536 + (s.fld (x + 0x14) 0 16 + 65536 - s.fld (x + 0x10) 0 16) % 65536 ≤
          2 ^ s.fld (x + 8) 0 4 → Does (.dmaTailWrite who ch v) s (s.setFld (x + 0x14) 0 16 v)) ∧
      (2 ^ s.fld (x + 8) 0 4 <
          (v % 65536 + 65536 - s.fld (x + 0x14) 0 16) % 65536 + (s.fld (x + 0x14) 0 16 + 65536 - s.fld (x + 0x10) 0 16) % 65536 →
        Does (.dmaTailWrite who ch v) s (s.setFlag (x + 0x0C) 1 true))) ∧
    (∀ x, s.dmaWaits ch = true → s.homeRead (askedBy s.pciePage 0xFF) 0 (s.dmaAt ch) 32 = (t, 0, x) → d = dmaDesc x →
      (dmaDescOk d = true → t.dmaReach d = true → s.spotWait d.place = .go →
        (d.op = 0 → b.length = d.len → Does (.dmaDescriptorRun ch (.data b)) s (t.dmaIn ch d b)) ∧
        (d.op = 1 → Does (.dmaDescriptorRun ch .accepted) s (t.dmaOut ch d)) ∧
        (d.op = 0 → Does (.dmaHostReadTimeout ch) s (t.dmaEnd ch (some d) false))) ∧
      (dmaDescOk d = false ∨ t.dmaReach d = false → ∀ y, Does (.dmaDescriptorRun ch y) s (t.dmaEnd ch (some d) false))) ∧
    Does .perstAssert s ((s.setPerst false).resetFunctions.linkDown.setInReset (List.range 17)) ∧
    (∀ u, u = (s.setPerst true).setInReset [] → (u.mayTrain = true → Does .perstDeassert s u.trainLink) ∧
      (u.mayTrain = false → Does .perstDeassert s u)) ∧
    (s.host.linkUp = true → Does (.functionLevelReset 0) s s.resetFunctions ∧
      ∀ f, 1 ≤ f → f ≤ 16 → Does (.functionLevelReset f) s (s.resetFunction f))

/-- R386, R419 to R421, R423, R425: a management message is served, whatever the power state, while the housekeeping rail is up.
One agent updates at a time; a component is acceptable only with a good signature and at no version below the fused one; a
register outside the housekeeping domain answers not-available in a package that is off, in Calm or wedged; a failed
response to the Maintenance challenge is recorded and bars a challenge for 10 s, and a good one enters Maintenance mode. -/
def Obligations.Management : Prop :=
  ∀ (s t : State),
    (s.pins.rails.contains .hk = true → ∀ c r, (c, r) ∈ [
        (Instr.vendorPackageReset, MgmtReq.packageReset), (.maintenanceChallenge, .challenge)] ∨
        (∃ m, c = .mctpControl m ∧ r = .control m) ∨ (∃ x, c = .pldmSensorRead x ∧ r = .sensor x) ∨
        (∃ x, c = .pldmFirmwareUpdate x ∧ r = .update x) ∨ (∃ d i, c = .vendorFaultLogRead d i ∧ r = .faultLog d i) ∨
        (∃ a, c = .vendorRegisterRead a ∧ r = .register a) ∨ (∃ k g, c = .maintenanceResponse k g ∧ r = .response k g) →
      Does c s (s.serveMgmt none r)) ∧
    (∀ r a, t = s.bump (mgmtPg s.active) 0x040 32 1 →
      (r = .register a → t.mgmtReaches a = false → s.serveMgmt none r = t.emit .mgmtNotAvailable) ∧
      (∀ b, r = .update (.requestUpdate a) → t.host.agent = some b → b ≠ a → s.serveMgmt none r = t.emit (.mgmt [2])) ∧
      (∀ k g, r = .response k g → t.goodResponse k g = false → s.serveMgmt none r =
        ((t.noChallenge.raise (mgmtPg t.active) 0x0904 none 0 0 false false).barChallenge).emit (.mgmt [1])) ∧
      (∀ k g, r = .response k g → t.goodResponse k g = true → s.serveMgmt none r = t.noChallenge.enterMaint.emit (.mgmt [0])) ∧
      (r = .challenge → t.now < t.host.challengeNotBefore → s.serveMgmt none r = t.emit (.mgmt [1]))) ∧
    (∀ c v k image sig, s.acceptable c v k image sig = true →
      (if c = 1 then s.fuses.hkSvn else s.fuses.sccSvn) ≤ v ∧ Config.signatureValid k image sig = true) ∧
    (∀ k g, s.goodResponse k g = true → ∃ n, s.host.challenge = some n ∧ Config.signatureValid k (Config.nonce n) g = true)

/-- R424, R425: BYPASS shifts one zero; IDCODE gives stepping B0 and part 0x2416; the boundary scan drives pins only in reset or
in Maintenance mode, and the private operations run only in Maintenance mode: an instruction that is not available acts as
BYPASS and is noted. -/
def Obligations.TestPort : Prop :=
  ∀ (s : State) (op : JtagPrivate),
    Does .jtagBypass s (s.emit (.jtag 0 [0])) ∧
    Does .jtagIdcode s ((s.freeBytes 2).2.emit (.jtag 1 (leBytes 4 (idcode (leNat (s.freeBytes 2).1))))) ∧
    (∀ m, idcode m / 2 ^ 28 = 1 ∧ idcode m / 2 ^ 12 % 2 ^ 16 = 0x2416 ∧ idcode m % 2 = 1) ∧
    Does .jtagSamplePreload s (s.jtagFree 2 8) ∧
    (s.pins.pkgRstN = false ∨ s.maintMode = true → Does .jtagExtest s (s.jtagFree 3 8)) ∧
    (s.pins.pkgRstN = true → s.maintMode = false → Does .jtagExtest s s.jtagBlocked) ∧
    (s.maintMode = true → Does (.jtagPrivate op) s (s.jtagRun op)) ∧
    (s.maintMode = false → Does (.jtagPrivate op) s s.jtagBlocked) ∧
    (∀ d c, c < 96 → s.jtagRun (.coreHalt d c) = (s.setCore d c { s.core d c with jtagHalt := true }).emit (.jtag 4 []) ∧
      s.jtagRun (.coreStep d c) = (s.setCore d c { s.core d c with jtagStep := true }).emit (.jtag 4 []))

/-- R34, R430, R432, R435, R436, R441 to R443: a register write is performed where its domain runs, and waits while it wakes
otherwise; a write of another size or alignment, and one by management, changes nothing; a write to a block's header is
partition 0's: it locks the page for good once hold is set, freezes or clears its counters, and acknowledges its interrupt.
A block's oldest record enters its die's log; the read pointer moves forward only and never past the write pointer; a write
of the index copies the record it names, or marks one lost or not yet written as stale. -/
def Obligations.RegistersAndFaultLog : Prop :=
  ∀ (s : State) (who : Who) (a n page : Nat) (v : Word) (d : Die),
    (s.isOff = false → s.regSleeps a = none → Does (.registerWrite who a n v) s (writeAt who a n v s).1) ∧
    (s.isOff = false → ∀ w, s.regSleeps a = some w →
      Does (.registerWrite who a n v) s { s.wakeDie w with held := s.held ++ [.regWrite who a n v] }) ∧
    ((n ≠ 4 ∧ n ≠ 8) ∨ a % n ≠ 0 ∨ who = .mgmt ∨ s.pageOk a = false → writeAt who a n v s = denied s) ∧
    (who.root = true → s.pageHeader page = true → (∀ x ∈ [0x0C, 0x10, 0x18], s.regSleeps (page + x) = none) →
      (s.flag (page + 0x0C) 1 = true → bit v.toNat 2 = false → Does (.blkLockWrite who page v) s s) ∧
      (s.flag (page + 0x0C) 1 = false → bit v.toNat 2 = false →
        Does (.blkLockWrite who page v) s (s.setFld (page + 0x0C) 0 2 (v.toNat % 4))) ∧
      Does (.blkCtrlFreeze who page v) s (s.freeze page (bit v.toNat 0)) ∧
      Does (.blkCtrlClear who page v) s ((s.freeze page (bit v.toNat 0)).clearCounters page) ∧
      (regType page ≠ Blk.fault → bit v.toNat 0 = true →
        Does (.blkIrqClear who page v) s ((s.setFlag (page + 0x18) 0 false).setFld (page + 0x20) 20 2 0))) ∧
    (who.root = false → s.pageHeader page = true → (∀ x ∈ [0x0C, 0x10, 0x18], s.regSleeps (page + x) = none) → ∀ c ∈ [Instr.blkLockWrite who page v, .blkCtrlFreeze who page v,
      .blkCtrlClear who page v, .blkIrqClear who page v], Does c s (denied s).1) ∧
    (∀ r rest, mget [] s.recQueue page = r :: rest → d = regDie page → Does (.faultRecordWrite page) s
      (State.irqEdge (faultPage d) s ((((s.recTaken page rest).countDropped d (s.logFull d)).intoLog d r).flagLog d r)).tellMgmt) ∧
    (who.root = true → ∀ x, x = v.toNat % 2 ^ 32 → ∀ p, p = faultPage d →
      ((x + 2 ^ 32 - s.fld (p + 0x104) 0 32) % 2 ^ 32 ≤ (s.fld (p + 0x100) 0 32 + 2 ^ 32 - s.fld (p + 0x104) 0 32) % 2 ^ 32 →
        Does (.faultLogRdWrite who d v) s (s.setReg (p + 0x104) (w64 x))) ∧
      ((s.fld (p + 0x100) 0 32 + 2 ^ 32 - s.fld (p + 0x104) 0 32) % 2 ^ 32 < (x + 2 ^ 32 - s.fld (p + 0x104) 0 32) % 2 ^ 32 →
        Does (.faultLogRdWrite who d v) s s) ∧
      (∀ r, s.logRecord d x = some r → Does (.faultLogIdxWrite who d v) s
        { (s.setReg (p + 0x108) (w64 x)).setReg (p + 0x10C) 1 with logLatch := s.logLatch.set d (some r) }) ∧
      (s.logRecord d x = none → Does (.faultLogIdxWrite who d v) s
        { (s.setReg (p + 0x108) (w64 x)).setReg (p + 0x10C) 2 with logLatch := s.logLatch.set d none }))

/-! ### Rules stated whole, and what reset leaves -/

/-- R71: the END that would end the second stream, while an entry remains in a queue of the strand, halts the strand with reason
0x11. -/
def Obligations.QueueLeftAtEnd : Prop :=
  ∀ (s : State) (i : Sid) (str : Stream) (f : SF) (x : Strand), Issues s i str x →
    (str = .execute → x.endA = true) → (str = .access → x.endE = true) → (∃ e ∈ x.queues, e.2 ≠ []) →
    ∃ t y, Taken s i str x t y ∧
      Does (.endStream i str f) s ((t.setStrand i.key { y with endA := true, endE := true }).halt i str 0x11)

/-- R349: a launch whose watchdog exceeds its partition's cap, in ms, is rejected with status 2, and so is one above 50 µs of a
Guaranteed partition. -/
def Obligations.WatchdogCaps : Prop :=
  ∀ (s : State) (d : Die) (r : Nat) (u : State) (l : Launch), Reads s d r u l → s.doomed.contains l.key = false →
    (u.wdCapMs l.part * 1000 < l.wdUs ∨ (u.partG l.part = true ∧ 50 < l.wdUs)) → Does (.launchDescriptorCheck d r) s
      ((u.raise (schedPage d) 0x0201 (some (r / 4)) l.descPa (l.tag + r * 2 ^ 32) false false).abortLaunch l 2)

/-- R422: a MGMT packet for this package whose arg and source partition are zero is served by the housekeeping domain of the die
it arrived at; any other packet of its type is discarded and counted in VROUTE_BAD_PKT. -/
def Obligations.ManagementPackets : Prop :=
  ∀ (s t : State) (p : Nat) (k q : Packet) (r : MgmtReq), p < 24 → s.portLive p = true → q = { k with ptype := 0x20 } →
    s.inOrder p k.link = true → t = s.received p k.link (pktUnits2 q) → k.dst = t.selfId →
    (k.arg = 0 → k.part = 0 → Does (.mgmtPacket p k r) s (t.serveMgmt (some (p, q)) r)) ∧
    (k.arg ≠ 0 ∨ k.part ≠ 0 → Does (.mgmtPacket p k r) s (t.bump (vroutePage (dieOf (p / 12))) 0x050 32 1))

/-- R427: the page of instance i of block type t on die d starts at 0x3FF_0000_0000 + (d << 28) + (t << 20) + (i << 12), its
offsets run to 0xFFF, and each die's pages fill its own range. -/
def Obligations.PageAddresses : Prop :=
  ∀ (d : Die) (t i o a : Nat), t < 256 → i < 256 → o < 0x1000 → a = 0x3FF00000000 + d.idx <<< 28 + t <<< 20 + i <<< 12 + o →
    locOf a = .reg (pg d t i + o) ∧ regDie (pg d t i + o) = d ∧ regType (pg d t i + o) = t ∧ regInst (pg d t i + o) = i ∧
    regOff (pg d t i + o) = o ∧ (d = .windward → 0x3FF00000000 ≤ a ∧ a ≤ 0x3FF0FFFFFFF) ∧
    (d = .leeward → 0x3FF10000000 ≤ a ∧ a ≤ 0x3FF1FFFFFFF)

/-- R432: a write to a register changes, of one field, that field's bits alone: a read-only field keeps its value, a read-write
field takes the value written where its range admits it, a locked one keeps its value, and a write-one-to-clear field clears
the bits written 1. -/
def Obligations.FieldWrites : Prop :=
  ∀ (f : Field) (locked : Bool) (v x : Nat),
    (∀ j, j < f.lo ∨ f.lo + f.n ≤ j → (f.write locked v x).testBit j = x.testBit j) ∧
    (f.acc = .ro ∨ f.acc = .ros ∨ f.acc = .wo → f.write locked v x = x) ∧
    (f.acc = .rwl → locked = true → f.write locked v x = x) ∧
    (f.acc = .rw ∨ (f.acc = .rwl ∧ locked = false) →
      (f.admits v = false → f.write locked v x = x) ∧
      (f.admits v = true → bits (f.write locked v x) f.lo f.n = bits v f.lo f.n)) ∧
    (f.range = none → f.admits v = true) ∧
    (∀ a b, f.range = some (a, b) → (f.admits v = true ↔ a ≤ bits v f.lo f.n ∧ bits v f.lo f.n ≤ b)) ∧
    (f.acc = .rw1c → ∀ j, f.lo ≤ j → j < f.lo + f.n → (f.write locked v x).testBit j = (x.testBit j && !v.testBit j))

/-- R249, R212, R148, R50, R120, R347, R280, R310, R311, R387, R408, R426, R435: what the spec's register tables give at reset,
on both dies: the limits, thresholds, periods and versions; nothing runs, nothing is in flight, no strand holds a context
and no record is logged; memory has its canonical form and no write is left over. -/
def Obligations.ResetState : Prop :=
  Safe State.reset ∧ State.reset.pending = [] ∧ State.reset.strands = [] ∧ State.reset.launches = [] ∧
    State.reset.requests = [] ∧ State.reset.held = [] ∧ State.reset.faultLog = [] ∧ State.reset.ports = [] ∧
    State.reset.host.linkUp = false ∧
    ∀ d, ∀ e ∈ [(Blk.pool, 0x100, 0xFFFF), (Blk.layout, 0x108, 0x4444444444444444), (Blk.basin, 0x100, 0x1111111111111111),
        (Blk.sched, 0x108, 4), (Blk.sched, 0x900, 1000), (Blk.sched, 0xB00, 8), (Blk.sched, 0xB08, 0x1111111111111111),
        (Blk.stk, 0x110, 0x1111111111111111), (Blk.scrub, 0x100, 1440 + 2 ^ 16), (Blk.scrub, 0x108, 7 + 100 * 2 ^ 8),
        (Blk.rvr, 0x108, 4), (Blk.vl, 0x100, 1), (Blk.vroute, 0x120, 31 + 1000 * 2 ^ 16), (Blk.time, 0x108, 8 * 2 ^ 24),
        (Blk.mgmt, 0x100, 0x62), (Blk.hk, 0x104, 1 + 100 * 2 ^ 8), (Blk.therm, 0x140, 95 + 100 * 2 ^ 8 + 110 * 2 ^ 16),
        (Blk.therm, 0x144, 8 + 3 * 2 ^ 8), (Blk.meas, 0x208, 10 + 16 * 2 ^ 12), (Blk.pwrst, 0x100, 3),
        (Blk.pwrst, 0x104, 50 + 10 * 2 ^ 14), (Blk.pwrst, 0x10C, 100 + 2 ^ 10), (Blk.fault, 0x100, 0)],
      (State.reset.reg (pg d e.1 0 + e.2.1)).toNat = e.2.2

/-! ### Writes that meet a stopped domain; the array, conversions and copies -/

/-- R34, R395, R429, R432: a write of a register in a stopped domain wakes the domain and is held at the crossing, for every row
that names a register write: nothing else changes, and the write waits behind those already held. -/
def Obligations.WritesHeldAtCrossings : Prop :=
  ∀ (s : State) (who : Who) (d w : Die) (n p k : Nat) (v : Word) (c : Instr) (off size : Nat) (x : Word),
    s.regSleeps off = some w →
    ((c, off, size, x) ∈ [
        (Instr.schedLaunchKill who d v, schedPage d + 0x918, 8, v),
        (.schedMcastAllotWrite who d v, schedPage d + 0xB08, 8, v),
        (.layoutCancel who d v, layoutPage d + 0x104, 4, v),
        (.layoutQlimitWrite who d v, layoutPage d + 0x108, 8, v),
        (.stkModeWrite who n v, stackPage n + 0x100, 4, v),
        (.stkOwnDataWrite who n v, stackPage n + 0x108, 4, v),
        (.stkQlimitWrite who n v, stackPage n + 0x110, 8, v),
        (.stkKill who n p v, ctlPage n p + 0x00, 4, v),
        (.stkKillAll who n p v, ctlPage n p + 0x08, 4, v),
        (.stkRecRdWrite who n p v, ctlPage n p + 0x1C, 4, v),
        (.basinRsvRequest who d v, basinPage d + 0x110, 8, w64 (setBits v.toNat 41 1 0)),
        (.basinRsvCancel who d v, basinPage d + 0x110, 8, w64 (setBits v.toNat 41 1 1)),
        (.basinSlotAllotWrite who d v, basinPage d + 0x100, 8, v),
        (.poolWayMaskWrite who d p v, poolPage d + 0x100 + p * 4, 4, v),
        (.poolWayExclWrite who d v, poolPage d + 0x140, 4, v),
        (.coreRetire who d n v, pg d Blk.core n + 0x220, 4, v),
        (.scrubPeriodWrite who d n v, pg d Blk.scrub n + 0x100, 4, v),
        (.scrubFlipArm who d n v, pg d Blk.scrub n + 0x110, 4, v),
        (.coreFlipArm who d n v, pg d Blk.core n + 0x200, 4, v),
        (.vrouteRtDataWrite who d v, vroutePage d + 0x108, 8, v),
        (.vrouteShadowSubmit who d v, vroutePage d + 0x130, 8, v),
        (.vrouteShadowCancel who d v, vroutePage d + 0x13C, 4, v),
        (.dmaTailWrite who n k, s.dmaBase n + 0x14, 4, w64 k)] ∨
      (n < 64 ∧ (c, off, size, x) = (.schedRingTailWrite who d n k, schedPage d + 0x100 + n * 0x20 + 0x14, 4, w64 k)) ∨
      (k ≤ 1 ∧ (c, off, size, x) = (.schedTlbInval who d k v, schedPage d + 0x990 + 8 * k, 8, v)) ∨
      (p < 16 ∧ n ∈ [0x0, 0x4] ∧
        (c, off, size, x) = (.schedPartCfgWrite who d (0xC00 + p * 0x40 + n) k, schedPage d + (0xC00 + p * 0x40 + n), 4, w64 k)) ∨
      (n < 24 ∧ (c, off, size, x) ∈ [(.vlRetrain who n v, portPage n + 0x100, 4, v ||| 2),
        (.vlEnableWrite who n v, portPage n + 0x100, 4, v)]) ∨
      (n < 24 ∧ p < 16 ∧ (c, off, size, x) = (.vlGUnitsWrite who n p v, portPage n + 0x140 + p * 4, 4, v)) ∨
      (s.pageHeader n = true ∧ (c, off, size, x) ∈ [(.blkLockWrite who n v, n + 0x0C, 4, v),
        (.blkCtrlFreeze who n v, n + 0x10, 4, w64 (v.toNat % 2)), (.blkCtrlClear who n v, n + 0x10, 4, w64 (v.toNat % 2 + 2)),
        (.blkIrqClear who n v, n + 0x18, 4, v)])) →
    Does c s { s.wakeDie w with held := s.held ++ [.regWrite who off size x] }

/-- R86: XCOPY between two descriptors of equal width, the source's sizes agreeing with the destination's, completes: od holds
the elements of oa, broadcast to its sizes, bytes unchanged, and nothing else changes but the pc. R86, R113, R121, R134,
R135: VCVT between descriptors completes. Without scales each element is converted to fmt_d once; quantising, od takes the
values of blocks along dimension 0 and ob their scales; dequantising, each element is multiplied by its block's scale from
ob and converted to fmt_d. NaN results and overflows are counted, and nothing else changes but the pc. -/
def Obligations.ConversionsAndCopiesComplete : Prop :=
  (∀ (s : State) (i : Sid) (f : TF) (x : Strand) (d a : Desc), Issues s i .execute x → x.prog .execute = none →
    selReserved f = false → fmtReserved f.fmtB = false → f.shape.toNat ≤ 2 →
    d = x.named f.od → a = x.named f.oa → x.operandOk f.od 8 true → x.operandOk f.oa 8 false → s.sourceSound i a →
    spansMeet d.span a.span = false → d.esize = a.esize → broadcasts a.sizes d.sizes = true →
    Completes (.xcopy i .execute f) s i x (fun t => t.putElems i d (spread a.sizes d.sizes (s.elemsOf i a)))) ∧
  (∀ (s : State) (i : Sid) (f : TF) (x : Strand) (d a b : Desc) (len : Nat) (u : List Nat), Issues s i .execute x →
    x.prog .execute = none → tfReserved f true = false → d = x.named f.od → a = x.named f.oa → b = x.named f.ob →
    x.operandOk f.od 8 true → x.operandOk f.oa 8 false → s.sourceSound i a → spansMeet d.span a.span = false →
    d.esize = fmtEsize f.fmtD.toNat → a.esize = fmtEsize f.fmtA.toNat → broadcasts a.sizes d.sizes = true →
    u = s.elemsOf i a → len = blockLen f.sblk.toNat →
    (∀ r, f.sblk = 0 → r = convertAll f.fmtD.toNat f.rnd.toNat f.sat (tfSeed f) x.tiles
        ((spread a.sizes d.sizes u).map (decodeNum f.fmtA.toNat)) →
      Completes (.vcvt i .execute f) s i x (fun t => (t.countElems i r).putElems i d (r.map (·.bits)))) ∧
    (∀ v q r, f.sblk ≠ 0 → f.fmtA.toNat < 2 → 2 ≤ f.fmtD.toNat → f.fmtD.toNat ≤ 6 → x.operandOk f.ob 8 true →
      spansMeet b.span a.span = false → b.esize = 2 → b.sizes = scaleSizes len d.sizes →
      v = (spread a.sizes d.sizes u).map (decodeNum f.fmtA.toNat) →
      q = ((rowsOf (d.size 0) ((v.zip (List.range v.length)).map (fun e => (e.1, srBits (tfSeed f) x.tiles e.2)))).flatMap
        (rowsOf len)).map (quantBlock f.fmtD.toNat f.sfmt f.rnd.toNat f.sat) → r = q.flatMap (·.2) →
      Completes (.vcvt i .execute f) s i x
        (fun t => ((t.countElems i r).putElems i d (r.map (·.bits))).putElems i b (q.map (·.1)))) ∧
    (∀ n per sc v r, f.sblk ≠ 0 → f.fmtD.toNat < 2 → 2 ≤ f.fmtA.toNat → f.fmtA.toNat ≤ 6 → x.operandOk f.ob 8 false →
      s.sourceSound i b → spansMeet d.span b.span = false → b.esize = 2 → b.sizes = scaleSizes len a.sizes →
      a.size 0 = d.size 0 → n = a.size 0 → per = ceilDiv n len → sc = (s.elemsOf i b).map (decodeScale f.sfmt) →
      v = ((u.map (decodeNum f.fmtA.toNat)).zip (List.range u.length)).map (fun e =>
        e.1.mul (sc.getD (e.2 / n * per + e.2 % n / len) .nan)) →
      r = convertAll f.fmtD.toNat f.rnd.toNat f.sat (tfSeed f) x.tiles
        ((spread a.sizes d.sizes (List.range v.length)).map (fun k => v.getD k .nan)) →
      Completes (.vcvt i .execute f) s i x (fun t => (t.countElems i r).putElems i d (r.map (·.bits)))))

/-- R86, R87, R103, R105 to R108, R125: MLOAD from descriptors completes: the array is the strand's, in the shape named, the
strand's stationary block is the elements of oa with their scales from ob, and the array's busy cycles are counted. R86,
R87, R102, R103, R106 to R108, R110, R114, R125: MMA from descriptors completes: each result row is the product of a weight
row with the strand's stationary block, by blocks with their scales, added to oc where one is named, rounded once into
fmt_d. The array is the strand's again where another had loaded it, its busy cycles are counted, and so are NaN results and
overflows. -/
def Obligations.ArrayCompletes : Prop :=
  (∀ (s : State) (i : Sid) (f : TF) (x : Strand) (a b : Desc) (k n len : Nat) (u w : List Nat), Issues s i .execute x →
    x.prog .execute = none → tfReserved f true = false → a = x.named f.oa → b = x.named f.ob → x.operandOk f.oa 32 false →
    s.sourceSound i a → n = a.size 0 → k = a.size 1 → len = blockLen f.sblk.toNat →
    (arrayClass f.fmtA.toNat).isSome = true → a.esize = fmtEsize f.fmtA.toNat → scalesOk f.fmtA.toNat f.sblk.toNat = true →
    a.ndim ≤ 2 → n ≤ shapeN f.shape.toNat → k ≤ shapeK f.shape.toNat → u = s.elemsOf i a →
    (f.sblk = 0 → w = []) →
    (f.sblk ≠ 0 → x.operandOk f.ob 32 false ∧ s.sourceSound i b ∧ b.esize = 2 ∧ b.sizes = [n, ceilDiv k len, 1, 1] ∧
      w = s.elemsOf i b) →
    Completes (.mload i .execute f) s i x (fun t =>
      let v := t.ownArray i x f.shape.toNat
      let c := ceilDiv (ceilDiv (k * n * fmtBits f.fmtA.toNat) 8 + w.length) 256 + 8 +
        (if (t.core i.die i.core).arrShape = f.shape.toNat then 0 else 64)
      let m := v.bump (v.corePage i.die i.core) 0x040 64 c
      match m.strand i.key with
      | some y => m.setStrand i.key { y with shadow := some ⟨f.shape.toNat, f.fmtA.toNat, f.sblk.toNat, f.sfmt, k, n, u, w⟩ }
      | none => m)) ∧
  (∀ (s : State) (i : Sid) (f : TF) (x : Strand) (d a b c : Desc) (blk : Block) (n kb : Nat) (w : List Nat)
      (acc : Option (List Nat)) (r : List Elem), Issues s i .execute x → x.prog .execute = none →
    tfReserved f (selOf f.oc != .none) = false → x.shadow = some blk → d = x.named f.od → a = x.named f.oa →
    b = x.named f.ob → c = x.named f.oc → x.operandOk f.od 32 true → x.operandOk f.oa 32 false → s.sourceSound i a →
    spansMeet d.span a.span = false → n = d.rows → d.size 0 = blk.n → a.size 0 = blk.k → a.rows = n →
    f.shape.toNat = blk.shape → pairOk f.fmtA.toNat blk.fmt = true → scalesOk f.fmtA.toNat f.sblk.toNat = true →
    (if blk.fmt = 7 then f.fmtD = 8 else f.fmtD.toNat < 2) → d.esize = fmtEsize f.fmtD.toNat → a.esize = fmtEsize f.fmtA.toNat →
    kb = ceilDiv blk.k (blockLen f.sblk.toNat) → (f.sblk = 0 → w = []) →
    (f.sblk ≠ 0 → x.operandOk f.ob 32 false ∧ s.sourceSound i b ∧ spansMeet d.span b.span = false ∧ b.esize = 2 ∧
      b.size 0 = kb ∧ b.sizes.drop 1 = a.sizes.drop 1 ∧ b.rows = n ∧ w = s.elemsOf i b) →
    (selOf f.oc = .none → acc = none) →
    (selOf f.oc ≠ .none → x.operandOk f.oc 32 false ∧ s.sourceSound i c ∧ spansMeet d.span c.span = false ∧
      (if blk.fmt = 7 then f.fmtB = 8 else f.fmtB.toNat < 2) ∧ c.esize = fmtEsize f.fmtB.toNat ∧ c.size 0 = blk.n ∧
      c.rows = n ∧ acc = some (s.elemsOf i c)) →
    r = convertAll f.fmtD.toNat f.rnd.toNat f.sat (tfSeed f) x.tiles (mmaValues f blk n (s.elemsOf i a) w acc) →
    Completes (.mma i .execute f) s i x (fun t =>
      let mine := (t.core i.die i.core).arrOwner == some x.who
      let v := if mine then t else (t.bump (t.corePage i.die i.core) 0x04C 32 1).ownArray i x blk.shape
      let m := v.bump (t.corePage i.die i.core) 0x040 64
        (ceilDiv (pairCost2 f.fmtA.toNat blk.fmt * n) 2 + 20 + (if mine then 0 else 136))
      (m.countElems i r).putElems i d (r.map (·.bits))))
end

