-- ==== Sys2Proof/Laws/Map.lean ====
section
/-!
SUPPORT. The laws of the sparse tables: reading back a write, a write elsewhere, and the canonical form.
-/
namespace Sys2Proof.Machine

theorem mget_mdel_self {α : Type} (d : α) (m : Map α) (i : Nat) : mget d (mdel m i) i = d := by
  induction m with
  | nil => rfl
  | cons e r ih =>
    obtain ⟨k, v⟩ := e
    by_cases h : i = k <;> simp [mdel, mget, h] <;> simpa [h] using ih

theorem mget_mdel_ne {α : Type} (d : α) (m : Map α) {i j : Nat} (h : j ≠ i) : mget d (mdel m i) j = mget d m j := by
  induction m with
  | nil => rfl
  | cons e r ih =>
    obtain ⟨k, v⟩ := e
    by_cases h1 : i = k
    · subst h1; simp [mdel, mget, h, ih]
    · by_cases h2 : j = k <;> simp [mdel, mget, h1, h2]
      exact ih

theorem mget_mput_self {α : Type} (d : α) (m : Map α) (i : Nat) (x : α) : mget d (mput i x m) i = x := by
  induction m with
  | nil => simp [mput, mget]
  | cons e r ih =>
    obtain ⟨k, v⟩ := e
    simp only [mput]
    split
    · simp [mget]
    · split
      · simp [mget]
      · rename_i h; simp [mget, h, ih]

theorem mget_mput_ne {α : Type} (d : α) (m : Map α) (x : α) {i j : Nat} (h : j ≠ i) : mget d (mput i x m) j = mget d m j := by
  induction m with
  | nil => simp [mput, mget, h]
  | cons e r ih =>
    obtain ⟨k, v⟩ := e
    simp only [mput]
    split
    · simp [mget, h]
    · split
      · rename_i h2; subst h2; simp [mget, h]
      · simp [mget, ih]

/-- What is written is read back. -/
@[simp] theorem mget_mset_self {α : Type} [DecidableEq α] (d : α) (m : Map α) (i : Nat) (x : α) : mget d (mset d m i x) i = x := by
  unfold mset
  split
  · rename_i h; rw [mget_mdel_self, h]
  · exact mget_mput_self d m i x

/-- A read at another key, whatever either reads as where it is unlisted. -/
theorem mget_mset_other {α : Type} [DecidableEq α] (d e : α) (m : Map α) (x : α) {i j : Nat} (h : j ≠ i) :
    mget e (mset d m i x) j = mget e m j := by
  unfold mset; split
  · exact mget_mdel_ne e m h
  · exact mget_mput_ne e m x h

/-- A write leaves every other key alone. -/
theorem mget_mset_ne {α : Type} [DecidableEq α] (d : α) (m : Map α) (x : α) {i j : Nat} (h : j ≠ i) :
    mget d (mset d m i x) j = mget d m j := mget_mset_other d d m x h

@[simp] theorem mget_nil {α : Type} (d : α) (i : Nat) : mget d [] i = d := rfl

theorem mwfFrom_mono {α : Type} [DecidableEq α] (d : α) {b c : Nat} (m : Map α) (h : c ≤ b) (w : mwfFrom d b m = true) :
    mwfFrom d c m = true := by
  cases m with
  | nil => rfl
  | cons e r =>
    obtain ⟨k, v⟩ := e
    simp only [mwfFrom, Bool.and_eq_true, decide_eq_true_eq] at w ⊢
    exact ⟨⟨by omega, w.1.2⟩, w.2⟩

theorem mwfFrom_mdel {α : Type} [DecidableEq α] (d : α) (m : Map α) (i : Nat) : ∀ b, mwfFrom d b m = true → mwfFrom d b (mdel m i) = true := by
  induction m with
  | nil => intro b h; exact h
  | cons e r ih =>
    obtain ⟨k, v⟩ := e
    intro b h
    simp only [mwfFrom, Bool.and_eq_true, decide_eq_true_eq] at h
    simp only [mdel]
    split
    · exact mwfFrom_mono d _ (by omega) (ih (k + 1) h.2)
    · simp only [mwfFrom, Bool.and_eq_true, decide_eq_true_eq]
      exact ⟨h.1, ih (k + 1) h.2⟩

theorem mwfFrom_mput {α : Type} [DecidableEq α] (d : α) (m : Map α) (i : Nat) (x : α) (hx : x ≠ d) :
    ∀ b, b ≤ i → mwfFrom d b m = true → mwfFrom d b (mput i x m) = true := by
  induction m with
  | nil => intro b hb _; simp [mput, mwfFrom, hb, hx]
  | cons e r ih =>
    obtain ⟨k, v⟩ := e
    intro b hb h
    simp only [mwfFrom, Bool.and_eq_true, decide_eq_true_eq] at h
    simp only [mput]
    split
    · rename_i h1
      simp only [mwfFrom, Bool.and_eq_true, decide_eq_true_eq]
      exact ⟨⟨hb, hx⟩, ⟨by omega, h.1.2⟩, h.2⟩
    · split
      · rename_i h2
        subst h2
        simp only [mwfFrom, Bool.and_eq_true, decide_eq_true_eq]
        exact ⟨⟨hb, hx⟩, h.2⟩
      · simp only [mwfFrom, Bool.and_eq_true, decide_eq_true_eq]
        exact ⟨h.1, ih (k + 1) (by omega) h.2⟩

/-- A write keeps the canonical form of a table. -/
theorem mwf_mset {α : Type} [DecidableEq α] (d : α) (m : Map α) (i : Nat) (x : α) (h : mwf d m = true) : mwf d (mset d m i x) = true := by
  unfold mset mwf
  split
  · exact mwfFrom_mdel d m i 0 h
  · rename_i hx; exact mwfFrom_mput d m i x hx 0 (Nat.zero_le i) h

end Sys2Proof.Machine
end

