-- ==== Sys2Proof/Laws/Memory.lean ====
section
/-!
SUPPORT. The laws of memory: every write of a step keeps the canonical form, a read after a write gives the value written, a
write leaves every other byte alone, and what commit does.
-/
namespace Sys2Proof.Machine

theorem memWfFrom_mono {b c : Nat} (m : List Host.Cell) (h : c ≤ b) (w : memWfFrom b m = true) : memWfFrom c m = true := by
  cases m with
  | nil => rfl
  | cons e r =>
    obtain ⟨k, v⟩ := e
    simp only [memWfFrom, Bool.and_eq_true, decide_eq_true_eq] at w ⊢
    exact ⟨⟨by omega, w.1.2⟩, w.2⟩

theorem memWfFrom_memSet (m : List Host.Cell) (a : Nat) (v : Byte) :
    ∀ b, b ≤ a → memWfFrom b m = true → memWfFrom b (memSet m a v) = true := by
  induction m with
  | nil =>
    intro b hb _
    simp only [memSet]
    split
    · rfl
    · rename_i hv; simp only [memWfFrom, Bool.and_true, Bool.and_eq_true, decide_eq_true_eq]; exact ⟨hb, hv⟩
  | cons e r ih =>
    obtain ⟨k, w⟩ := e
    intro b hb h
    simp only [memWfFrom, Bool.and_eq_true, decide_eq_true_eq] at h
    simp only [memSet]
    split
    · split
      · simp only [memWfFrom, Bool.and_eq_true, decide_eq_true_eq]; exact h
      · rename_i h1 hv
        simp only [memWfFrom, Bool.and_eq_true, decide_eq_true_eq]
        exact ⟨⟨hb, hv⟩, ⟨by omega, h.1.2⟩, h.2⟩
    · split
      · rename_i h2; subst h2
        split
        · exact memWfFrom_mono _ (by omega) h.2
        · rename_i hv
          simp only [memWfFrom, Bool.and_eq_true, decide_eq_true_eq]
          exact ⟨⟨hb, hv⟩, h.2⟩
      · simp only [memWfFrom, Bool.and_eq_true, decide_eq_true_eq]
        exact ⟨h.1, ih (k + 1) (by omega) h.2⟩

/-- A byte stored keeps the canonical form. -/
theorem wf_memSet (m : List Host.Cell) (a : Nat) (v : Byte) (h : Memory.wf m = true) : Memory.wf (memSet m a v) = true :=
  memWfFrom_memSet m a v 0 (Nat.zero_le a) h

theorem wf_memPut (bs : List Byte) : ∀ (m : List Host.Cell) (a : Nat), Memory.wf m = true → Memory.wf (memPut m a bs) = true := by
  induction bs with
  | nil => intro m a h; exact h
  | cons b r ih => intro m a h; exact ih _ _ (wf_memSet m a b h)

theorem memWfFrom_filter (p : Host.Cell → Bool) (m : List Host.Cell) : ∀ b, memWfFrom b m = true → memWfFrom b (m.filter p) = true := by
  induction m with
  | nil => intro b h; exact h
  | cons e r ih =>
    obtain ⟨k, v⟩ := e
    intro b h
    simp only [memWfFrom, Bool.and_eq_true, decide_eq_true_eq] at h
    simp only [List.filter]
    split
    · simp only [memWfFrom, Bool.and_eq_true, decide_eq_true_eq]
      exact ⟨h.1, ih (k + 1) h.2⟩
    · exact memWfFrom_mono _ (by omega) (ih (k + 1) h.2)

theorem wf_memClear (m : List Host.Cell) (a n : Nat) (h : Memory.wf m = true) : Memory.wf (memClear m a n) = true :=
  memWfFrom_filter _ m 0 h

theorem wf_foldSet (f : Host.Cell → Nat) (l : List Host.Cell) : ∀ m : List Host.Cell, Memory.wf m = true →
    Memory.wf (l.foldl (fun x c => memSet x (f c) c.2) m) = true := by
  induction l with
  | nil => intro m h; exact h
  | cons c r ih => intro m h; exact ih _ (wf_memSet m (f c) c.2 h)

/-- Every write of a step keeps the canonical form. -/
theorem wf_memApply (m : List Host.Cell) (op : MemOp) (h : Memory.wf m = true) : Memory.wf (memApply m op) = true := by
  cases op with
  | put a b => exact wf_memPut b m a h
  | clear a n => exact wf_memClear m a n h
  | copy a b n => exact wf_foldSet (fun c => c.1 - a + b) _ _ (wf_memClear m b n h)

theorem wf_replay (m : List Host.Cell) (ops : List MemOp) (h : Memory.wf m = true) : Memory.wf (replay m ops) = true := by
  induction ops with
  | nil => exact h
  | cons op r ih => exact wf_memApply _ op ih

/-- What a meaning answers: a next state with the old queue, no write left over, and the writes made. -/
theorem commit_eq (s t : State) : commit s t = .next { t with mem := replay s.mem t.bus, bus := [], pending := s.pending } := rfl

theorem commit_keeps {s t u : State} (h : commit s t = .next u) :
    u.mem = replay s.mem t.bus ∧ u.bus = [] ∧ u.pending = s.pending := by
  rw [commit_eq] at h
  cases h
  exact ⟨rfl, rfl, rfl⟩

theorem commit_wf {s t u : State} (h : commit s t = .next u) (w : Memory.wf s.mem = true) : Memory.wf u.mem = true ∧ u.bus = [] := by
  obtain ⟨h1, h2, _⟩ := commit_keeps h
  exact ⟨h1 ▸ wf_replay _ _ w, h2⟩

/-! ### Reads after writes -/

theorem memGet_below (m : List Host.Cell) : ∀ b, memWfFrom b m = true → ∀ a, a < b → memGet m a = 0 := by
  induction m with
  | nil => intro b _ a _; rfl
  | cons e r ih =>
    obtain ⟨k, v⟩ := e
    intro b h a ha
    simp only [memWfFrom, Bool.and_eq_true, decide_eq_true_eq] at h
    simp only [memGet]
    have : a ≠ k := by omega
    simp [this, ih (k + 1) h.2 a (by omega)]

theorem memGet_memSet_from (m : List Host.Cell) (a x : Nat) (v : Byte) :
    ∀ b, memWfFrom b m = true → memGet (memSet m a v) x = if x = a then v else memGet m x := by
  induction m with
  | nil =>
    intro b _
    simp only [memSet]
    split
    · rename_i hv; subst hv; simp [memGet]
    · simp [memGet]
  | cons e r ih =>
    obtain ⟨k, w⟩ := e
    intro b h
    simp only [memWfFrom, Bool.and_eq_true, decide_eq_true_eq] at h
    simp only [memSet]
    split
    · rename_i h1
      split
      · rename_i hv
        subst hv
        split
        · rename_i hx; subst hx
          exact memGet_below ((k, w) :: r) k (by simp only [memWfFrom, Bool.and_eq_true, decide_eq_true_eq]; exact ⟨⟨Nat.le_refl k, h.1.2⟩, h.2⟩) _ h1
        · rfl
      · simp [memGet]
    · split
      · rename_i h2; subst h2
        split
        · rename_i hv; subst hv
          by_cases hx : x = a
          · subst hx
            simp [memGet_below r (x + 1) h.2 x (by omega)]
          · simp [memGet, hx]
        · by_cases hx : x = a <;> simp [memGet, hx]
      · rename_i h3
        simp only [memGet]
        rw [ih (k + 1) h.2]
        by_cases hx : x = k
        · subst hx; simp [Ne.symm h3]
        · simp [hx]

/-- A read after a byte is stored: the value written at its address, the old byte elsewhere. -/
theorem memGet_memSet (m : List Host.Cell) (a x : Nat) (v : Byte) (h : Memory.wf m = true) :
    memGet (memSet m a v) x = if x = a then v else memGet m x := memGet_memSet_from m a x v 0 h

/-- A read after consecutive bytes are stored. -/
theorem memGet_memPut (bs : List Byte) : ∀ (m : List Host.Cell) (a x : Nat), Memory.wf m = true →
    memGet (memPut m a bs) x = if a ≤ x ∧ x < a + bs.length then bs.getD (x - a) 0 else memGet m x := by
  induction bs with
  | nil =>
    intro m a x _
    have : ¬ (a ≤ x ∧ x < a + 0) := by omega
    simp only [memPut, List.length_nil, if_neg this]
  | cons b r ih =>
    intro m a x h
    simp only [memPut]
    rw [ih _ (a + 1) x (wf_memSet m a b h), memGet_memSet m a x b h]
    by_cases h1 : x = a
    · subst h1
      simp
    · by_cases h2 : a + 1 ≤ x ∧ x < a + 1 + r.length
      · have h3 : a ≤ x ∧ x < a + (b :: r).length := by simp only [List.length_cons]; omega
        have h4 : x - a = (x - (a + 1)) + 1 := by omega
        rw [if_pos h2, if_pos h3, h4, List.getD_cons_succ]
      · have h3 : ¬ (a ≤ x ∧ x < a + (b :: r).length) := by simp only [List.length_cons]; omega
        rw [if_neg h2, if_neg h3, if_neg h1]

/-- A step that puts bytes once shows exactly them. -/
theorem replay_put (m : List Host.Cell) (a x : Nat) (bs : List Byte) (h : Memory.wf m = true) :
    memGet (replay m [.put a bs]) x = if a ≤ x ∧ x < a + bs.length then bs.getD (x - a) 0 else memGet m x :=
  memGet_memPut bs m a x h

theorem memGet_filter (m : List Host.Cell) (a n x : Nat) :
    memGet (memClear m a n) x = if a ≤ x ∧ x < a + n then 0 else memGet m x := by
  induction m with
  | nil => simp [memClear, memGet]
  | cons e r ih =>
    obtain ⟨k, v⟩ := e
    unfold memClear at ih ⊢
    by_cases hk : a ≤ k ∧ k < a + n
    · simp only [List.filter, hk.1, hk.2, decide_true, Bool.and_self, Bool.not_true]
      rw [ih]
      by_cases hx : a ≤ x ∧ x < a + n
      · simp [hx]
      · have : x ≠ k := by rintro rfl; exact hx hk
        simp [hx, memGet, this]
    · have hd : (!(decide (a ≤ k) && decide (k < a + n))) = true := by
        simp only [Bool.not_eq_true', Bool.and_eq_false_iff, decide_eq_false_iff_not]
        by_cases h1 : a ≤ k
        · exact .inr (fun h2 => hk ⟨h1, h2⟩)
        · exact .inl h1
      simp only [List.filter, hd, memGet]
      rw [ih]
      by_cases hx : x = k
      · subst hx; simp [hk]
      · simp [hx]

end Sys2Proof.Machine
end

