-- ==== Sys2Proof/Laws/Ops.lean ====
section
/-!
SUPPORT. What each shared operation can do, once: counters, records, stores.
-/
namespace Sys2Proof.Machine

/-- Counting changes registers only. -/
theorem State.bump_only (s : State) (p o w k : Nat) : s.bump p o w k = { s with regs := (s.bump p o w k).regs } := (rfl)

/-- A register stored reads as stored (R432). -/
@[simp] theorem State.reg_setReg (s : State) (a : Nat) (v : Word) : (s.setReg a v).reg a = v := mget_mset_self _ _ _ _

/-- Storing a register leaves every other as it was. -/
theorem State.reg_setReg_ne (s : State) {a b : Nat} (v : Word) (h : b ≠ a) : (s.setReg a v).reg b = s.reg b :=
  mget_mset_other _ _ _ _ h

end Sys2Proof.Machine
end

