-- ==== Sys2Proof/Laws/State.lean ====
section
/-!
SUPPORT. What each update of the state leaves alone: one lemma for each field and each update, true by definition.
-/
namespace Sys2Proof.Machine

/-! setReg -/

@[simp] theorem State.setReg_pending (s : State) (a : Nat) (v : Word) : (s.setReg a v).pending = s.pending := (rfl)
@[simp] theorem State.setReg_fuses (s : State) (a : Nat) (v : Word) : (s.setReg a v).fuses = s.fuses := (rfl)
@[simp] theorem State.setReg_pins (s : State) (a : Nat) (v : Word) : (s.setReg a v).pins = s.pins := (rfl)
@[simp] theorem State.setReg_now (s : State) (a : Nat) (v : Word) : (s.setReg a v).now = s.now := (rfl)
@[simp] theorem State.setReg_issue8 (s : State) (a : Nat) (v : Word) : (s.setReg a v).issue8 = s.issue8 := (rfl)
@[simp] theorem State.setReg_cycle8 (s : State) (a : Nat) (v : Word) : (s.setReg a v).cycle8 = s.cycle8 := (rfl)
@[simp] theorem State.setReg_snap (s : State) (a : Nat) (v : Word) : (s.setReg a v).snap = s.snap := (rfl)
@[simp] theorem State.setReg_mem (s : State) (a : Nat) (v : Word) : (s.setReg a v).mem = s.mem := (rfl)
@[simp] theorem State.setReg_bus (s : State) (a : Nat) (v : Word) : (s.setReg a v).bus = s.bus := (rfl)
@[simp] theorem State.setReg_units (s : State) (a : Nat) (v : Word) : (s.setReg a v).units = s.units := (rfl)
@[simp] theorem State.setReg_strands (s : State) (a : Nat) (v : Word) : (s.setReg a v).strands = s.strands := (rfl)
@[simp] theorem State.setReg_cores (s : State) (a : Nat) (v : Word) : (s.setReg a v).cores = s.cores := (rfl)
@[simp] theorem State.setReg_roles (s : State) (a : Nat) (v : Word) : (s.setReg a v).roles = s.roles := (rfl)
@[simp] theorem State.setReg_launches (s : State) (a : Nat) (v : Word) : (s.setReg a v).launches = s.launches := (rfl)
@[simp] theorem State.setReg_doomed (s : State) (a : Nat) (v : Word) : (s.setReg a v).doomed = s.doomed := (rfl)
@[simp] theorem State.setReg_mcast (s : State) (a : Nat) (v : Word) : (s.setReg a v).mcast = s.mcast := (rfl)
@[simp] theorem State.setReg_nextMcast (s : State) (a : Nat) (v : Word) : (s.setReg a v).nextMcast = s.nextMcast := (rfl)
@[simp] theorem State.setReg_tlb (s : State) (a : Nat) (v : Word) : (s.setReg a v).tlb = s.tlb := (rfl)
@[simp] theorem State.setReg_inval (s : State) (a : Nat) (v : Word) : (s.setReg a v).inval = s.inval := (rfl)
@[simp] theorem State.setReg_parkSeq (s : State) (a : Nat) (v : Word) : (s.setReg a v).parkSeq = s.parkSeq := (rfl)
@[simp] theorem State.setReg_layout (s : State) (a : Nat) (v : Word) : (s.setReg a v).layout = s.layout := (rfl)
@[simp] theorem State.setReg_stk (s : State) (a : Nat) (v : Word) : (s.setReg a v).stk = s.stk := (rfl)
@[simp] theorem State.setReg_basin (s : State) (a : Nat) (v : Word) : (s.setReg a v).basin = s.basin := (rfl)
@[simp] theorem State.setReg_pool (s : State) (a : Nat) (v : Word) : (s.setReg a v).pool = s.pool := (rfl)
@[simp] theorem State.setReg_scrub (s : State) (a : Nat) (v : Word) : (s.setReg a v).scrub = s.scrub := (rfl)
@[simp] theorem State.setReg_sramErrs (s : State) (a : Nat) (v : Word) : (s.setReg a v).sramErrs = s.sramErrs := (rfl)
@[simp] theorem State.setReg_maint (s : State) (a : Nat) (v : Word) : (s.setReg a v).maint = s.maint := (rfl)
@[simp] theorem State.setReg_rvrInit (s : State) (a : Nat) (v : Word) : (s.setReg a v).rvrInit = s.rvrInit := (rfl)
@[simp] theorem State.setReg_rvrNormal (s : State) (a : Nat) (v : Word) : (s.setReg a v).rvrNormal = s.rvrNormal := (rfl)
@[simp] theorem State.setReg_ports (s : State) (a : Nat) (v : Word) : (s.setReg a v).ports = s.ports := (rfl)
@[simp] theorem State.setReg_requests (s : State) (a : Nat) (v : Word) : (s.setReg a v).requests = s.requests := (rfl)
@[simp] theorem State.setReg_reqWait (s : State) (a : Nat) (v : Word) : (s.setReg a v).reqWait = s.reqWait := (rfl)
@[simp] theorem State.setReg_nextReq (s : State) (a : Nat) (v : Word) : (s.setReg a v).nextReq = s.nextReq := (rfl)
@[simp] theorem State.setReg_windows (s : State) (a : Nat) (v : Word) : (s.setReg a v).windows = s.windows := (rfl)
@[simp] theorem State.setReg_transitHalf (s : State) (a : Nat) (v : Word) : (s.setReg a v).transitHalf = s.transitHalf := (rfl)
@[simp] theorem State.setReg_routes (s : State) (a : Nat) (v : Word) : (s.setReg a v).routes = s.routes := (rfl)
@[simp] theorem State.setReg_lossSeen (s : State) (a : Nat) (v : Word) : (s.setReg a v).lossSeen = s.lossSeen := (rfl)
@[simp] theorem State.setReg_lossGrace (s : State) (a : Nat) (v : Word) : (s.setReg a v).lossGrace = s.lossGrace := (rfl)
@[simp] theorem State.setReg_shadow (s : State) (a : Nat) (v : Word) : (s.setReg a v).shadow = s.shadow := (rfl)
@[simp] theorem State.setReg_time (s : State) (a : Nat) (v : Word) : (s.setReg a v).time = s.time := (rfl)
@[simp] theorem State.setReg_quiley (s : State) (a : Nat) (v : Word) : (s.setReg a v).quiley = s.quiley := (rfl)
@[simp] theorem State.setReg_hk (s : State) (a : Nat) (v : Word) : (s.setReg a v).hk = s.hk := (rfl)
@[simp] theorem State.setReg_lullFrom (s : State) (a : Nat) (v : Word) : (s.setReg a v).lullFrom = s.lullFrom := (rfl)
@[simp] theorem State.setReg_calmFrom (s : State) (a : Nat) (v : Word) : (s.setReg a v).calmFrom = s.calmFrom := (rfl)
@[simp] theorem State.setReg_bootWaits (s : State) (a : Nat) (v : Word) : (s.setReg a v).bootWaits = s.bootWaits := (rfl)
@[simp] theorem State.setReg_cap (s : State) (a : Nat) (v : Word) : (s.setReg a v).cap = s.cap := (rfl)
@[simp] theorem State.setReg_store (s : State) (a : Nat) (v : Word) : (s.setReg a v).store = s.store := (rfl)
@[simp] theorem State.setReg_monitors (s : State) (a : Nat) (v : Word) : (s.setReg a v).monitors = s.monitors := (rfl)
@[simp] theorem State.setReg_recQueue (s : State) (a : Nat) (v : Word) : (s.setReg a v).recQueue = s.recQueue := (rfl)
@[simp] theorem State.setReg_faultLog (s : State) (a : Nat) (v : Word) : (s.setReg a v).faultLog = s.faultLog := (rfl)
@[simp] theorem State.setReg_logLatch (s : State) (a : Nat) (v : Word) : (s.setReg a v).logLatch = s.logLatch := (rfl)
@[simp] theorem State.setReg_host (s : State) (a : Nat) (v : Word) : (s.setReg a v).host = s.host := (rfl)
@[simp] theorem State.setReg_held (s : State) (a : Nat) (v : Word) : (s.setReg a v).held = s.held := (rfl)
@[simp] theorem State.setReg_out (s : State) (a : Nat) (v : Word) : (s.setReg a v).out = s.out := (rfl)
@[simp] theorem State.setReg_fresh (s : State) (a : Nat) (v : Word) : (s.setReg a v).fresh = s.fresh := (rfl)

/-! setFld -/

@[simp] theorem State.setFld_pending (s : State) (a lo n v : Nat) : (s.setFld a lo n v).pending = s.pending := (rfl)
@[simp] theorem State.setFld_fuses (s : State) (a lo n v : Nat) : (s.setFld a lo n v).fuses = s.fuses := (rfl)
@[simp] theorem State.setFld_pins (s : State) (a lo n v : Nat) : (s.setFld a lo n v).pins = s.pins := (rfl)
@[simp] theorem State.setFld_now (s : State) (a lo n v : Nat) : (s.setFld a lo n v).now = s.now := (rfl)
@[simp] theorem State.setFld_issue8 (s : State) (a lo n v : Nat) : (s.setFld a lo n v).issue8 = s.issue8 := (rfl)
@[simp] theorem State.setFld_cycle8 (s : State) (a lo n v : Nat) : (s.setFld a lo n v).cycle8 = s.cycle8 := (rfl)
@[simp] theorem State.setFld_snap (s : State) (a lo n v : Nat) : (s.setFld a lo n v).snap = s.snap := (rfl)
@[simp] theorem State.setFld_mem (s : State) (a lo n v : Nat) : (s.setFld a lo n v).mem = s.mem := (rfl)
@[simp] theorem State.setFld_bus (s : State) (a lo n v : Nat) : (s.setFld a lo n v).bus = s.bus := (rfl)
@[simp] theorem State.setFld_units (s : State) (a lo n v : Nat) : (s.setFld a lo n v).units = s.units := (rfl)
@[simp] theorem State.setFld_strands (s : State) (a lo n v : Nat) : (s.setFld a lo n v).strands = s.strands := (rfl)
@[simp] theorem State.setFld_cores (s : State) (a lo n v : Nat) : (s.setFld a lo n v).cores = s.cores := (rfl)
@[simp] theorem State.setFld_roles (s : State) (a lo n v : Nat) : (s.setFld a lo n v).roles = s.roles := (rfl)
@[simp] theorem State.setFld_launches (s : State) (a lo n v : Nat) : (s.setFld a lo n v).launches = s.launches := (rfl)
@[simp] theorem State.setFld_doomed (s : State) (a lo n v : Nat) : (s.setFld a lo n v).doomed = s.doomed := (rfl)
@[simp] theorem State.setFld_mcast (s : State) (a lo n v : Nat) : (s.setFld a lo n v).mcast = s.mcast := (rfl)
@[simp] theorem State.setFld_nextMcast (s : State) (a lo n v : Nat) : (s.setFld a lo n v).nextMcast = s.nextMcast := (rfl)
@[simp] theorem State.setFld_tlb (s : State) (a lo n v : Nat) : (s.setFld a lo n v).tlb = s.tlb := (rfl)
@[simp] theorem State.setFld_inval (s : State) (a lo n v : Nat) : (s.setFld a lo n v).inval = s.inval := (rfl)
@[simp] theorem State.setFld_parkSeq (s : State) (a lo n v : Nat) : (s.setFld a lo n v).parkSeq = s.parkSeq := (rfl)
@[simp] theorem State.setFld_layout (s : State) (a lo n v : Nat) : (s.setFld a lo n v).layout = s.layout := (rfl)
@[simp] theorem State.setFld_stk (s : State) (a lo n v : Nat) : (s.setFld a lo n v).stk = s.stk := (rfl)
@[simp] theorem State.setFld_basin (s : State) (a lo n v : Nat) : (s.setFld a lo n v).basin = s.basin := (rfl)
@[simp] theorem State.setFld_pool (s : State) (a lo n v : Nat) : (s.setFld a lo n v).pool = s.pool := (rfl)
@[simp] theorem State.setFld_scrub (s : State) (a lo n v : Nat) : (s.setFld a lo n v).scrub = s.scrub := (rfl)
@[simp] theorem State.setFld_sramErrs (s : State) (a lo n v : Nat) : (s.setFld a lo n v).sramErrs = s.sramErrs := (rfl)
@[simp] theorem State.setFld_maint (s : State) (a lo n v : Nat) : (s.setFld a lo n v).maint = s.maint := (rfl)
@[simp] theorem State.setFld_rvrInit (s : State) (a lo n v : Nat) : (s.setFld a lo n v).rvrInit = s.rvrInit := (rfl)
@[simp] theorem State.setFld_rvrNormal (s : State) (a lo n v : Nat) : (s.setFld a lo n v).rvrNormal = s.rvrNormal := (rfl)
@[simp] theorem State.setFld_ports (s : State) (a lo n v : Nat) : (s.setFld a lo n v).ports = s.ports := (rfl)
@[simp] theorem State.setFld_requests (s : State) (a lo n v : Nat) : (s.setFld a lo n v).requests = s.requests := (rfl)
@[simp] theorem State.setFld_reqWait (s : State) (a lo n v : Nat) : (s.setFld a lo n v).reqWait = s.reqWait := (rfl)
@[simp] theorem State.setFld_nextReq (s : State) (a lo n v : Nat) : (s.setFld a lo n v).nextReq = s.nextReq := (rfl)
@[simp] theorem State.setFld_windows (s : State) (a lo n v : Nat) : (s.setFld a lo n v).windows = s.windows := (rfl)
@[simp] theorem State.setFld_transitHalf (s : State) (a lo n v : Nat) : (s.setFld a lo n v).transitHalf = s.transitHalf := (rfl)
@[simp] theorem State.setFld_routes (s : State) (a lo n v : Nat) : (s.setFld a lo n v).routes = s.routes := (rfl)
@[simp] theorem State.setFld_lossSeen (s : State) (a lo n v : Nat) : (s.setFld a lo n v).lossSeen = s.lossSeen := (rfl)
@[simp] theorem State.setFld_lossGrace (s : State) (a lo n v : Nat) : (s.setFld a lo n v).lossGrace = s.lossGrace := (rfl)
@[simp] theorem State.setFld_shadow (s : State) (a lo n v : Nat) : (s.setFld a lo n v).shadow = s.shadow := (rfl)
@[simp] theorem State.setFld_time (s : State) (a lo n v : Nat) : (s.setFld a lo n v).time = s.time := (rfl)
@[simp] theorem State.setFld_quiley (s : State) (a lo n v : Nat) : (s.setFld a lo n v).quiley = s.quiley := (rfl)
@[simp] theorem State.setFld_hk (s : State) (a lo n v : Nat) : (s.setFld a lo n v).hk = s.hk := (rfl)
@[simp] theorem State.setFld_lullFrom (s : State) (a lo n v : Nat) : (s.setFld a lo n v).lullFrom = s.lullFrom := (rfl)
@[simp] theorem State.setFld_calmFrom (s : State) (a lo n v : Nat) : (s.setFld a lo n v).calmFrom = s.calmFrom := (rfl)
@[simp] theorem State.setFld_bootWaits (s : State) (a lo n v : Nat) : (s.setFld a lo n v).bootWaits = s.bootWaits := (rfl)
@[simp] theorem State.setFld_cap (s : State) (a lo n v : Nat) : (s.setFld a lo n v).cap = s.cap := (rfl)
@[simp] theorem State.setFld_store (s : State) (a lo n v : Nat) : (s.setFld a lo n v).store = s.store := (rfl)
@[simp] theorem State.setFld_monitors (s : State) (a lo n v : Nat) : (s.setFld a lo n v).monitors = s.monitors := (rfl)
@[simp] theorem State.setFld_recQueue (s : State) (a lo n v : Nat) : (s.setFld a lo n v).recQueue = s.recQueue := (rfl)
@[simp] theorem State.setFld_faultLog (s : State) (a lo n v : Nat) : (s.setFld a lo n v).faultLog = s.faultLog := (rfl)
@[simp] theorem State.setFld_logLatch (s : State) (a lo n v : Nat) : (s.setFld a lo n v).logLatch = s.logLatch := (rfl)
@[simp] theorem State.setFld_host (s : State) (a lo n v : Nat) : (s.setFld a lo n v).host = s.host := (rfl)
@[simp] theorem State.setFld_held (s : State) (a lo n v : Nat) : (s.setFld a lo n v).held = s.held := (rfl)
@[simp] theorem State.setFld_out (s : State) (a lo n v : Nat) : (s.setFld a lo n v).out = s.out := (rfl)
@[simp] theorem State.setFld_fresh (s : State) (a lo n v : Nat) : (s.setFld a lo n v).fresh = s.fresh := (rfl)

/-! setFlag -/

@[simp] theorem State.setFlag_pending (s : State) (a lo : Nat) (b : Bool) : (s.setFlag a lo b).pending = s.pending := (rfl)
@[simp] theorem State.setFlag_fuses (s : State) (a lo : Nat) (b : Bool) : (s.setFlag a lo b).fuses = s.fuses := (rfl)
@[simp] theorem State.setFlag_pins (s : State) (a lo : Nat) (b : Bool) : (s.setFlag a lo b).pins = s.pins := (rfl)
@[simp] theorem State.setFlag_now (s : State) (a lo : Nat) (b : Bool) : (s.setFlag a lo b).now = s.now := (rfl)
@[simp] theorem State.setFlag_issue8 (s : State) (a lo : Nat) (b : Bool) : (s.setFlag a lo b).issue8 = s.issue8 := (rfl)
@[simp] theorem State.setFlag_cycle8 (s : State) (a lo : Nat) (b : Bool) : (s.setFlag a lo b).cycle8 = s.cycle8 := (rfl)
@[simp] theorem State.setFlag_snap (s : State) (a lo : Nat) (b : Bool) : (s.setFlag a lo b).snap = s.snap := (rfl)
@[simp] theorem State.setFlag_mem (s : State) (a lo : Nat) (b : Bool) : (s.setFlag a lo b).mem = s.mem := (rfl)
@[simp] theorem State.setFlag_bus (s : State) (a lo : Nat) (b : Bool) : (s.setFlag a lo b).bus = s.bus := (rfl)
@[simp] theorem State.setFlag_units (s : State) (a lo : Nat) (b : Bool) : (s.setFlag a lo b).units = s.units := (rfl)
@[simp] theorem State.setFlag_strands (s : State) (a lo : Nat) (b : Bool) : (s.setFlag a lo b).strands = s.strands := (rfl)
@[simp] theorem State.setFlag_cores (s : State) (a lo : Nat) (b : Bool) : (s.setFlag a lo b).cores = s.cores := (rfl)
@[simp] theorem State.setFlag_roles (s : State) (a lo : Nat) (b : Bool) : (s.setFlag a lo b).roles = s.roles := (rfl)
@[simp] theorem State.setFlag_launches (s : State) (a lo : Nat) (b : Bool) : (s.setFlag a lo b).launches = s.launches := (rfl)
@[simp] theorem State.setFlag_doomed (s : State) (a lo : Nat) (b : Bool) : (s.setFlag a lo b).doomed = s.doomed := (rfl)
@[simp] theorem State.setFlag_mcast (s : State) (a lo : Nat) (b : Bool) : (s.setFlag a lo b).mcast = s.mcast := (rfl)
@[simp] theorem State.setFlag_nextMcast (s : State) (a lo : Nat) (b : Bool) : (s.setFlag a lo b).nextMcast = s.nextMcast := (rfl)
@[simp] theorem State.setFlag_tlb (s : State) (a lo : Nat) (b : Bool) : (s.setFlag a lo b).tlb = s.tlb := (rfl)
@[simp] theorem State.setFlag_inval (s : State) (a lo : Nat) (b : Bool) : (s.setFlag a lo b).inval = s.inval := (rfl)
@[simp] theorem State.setFlag_parkSeq (s : State) (a lo : Nat) (b : Bool) : (s.setFlag a lo b).parkSeq = s.parkSeq := (rfl)
@[simp] theorem State.setFlag_layout (s : State) (a lo : Nat) (b : Bool) : (s.setFlag a lo b).layout = s.layout := (rfl)
@[simp] theorem State.setFlag_stk (s : State) (a lo : Nat) (b : Bool) : (s.setFlag a lo b).stk = s.stk := (rfl)
@[simp] theorem State.setFlag_basin (s : State) (a lo : Nat) (b : Bool) : (s.setFlag a lo b).basin = s.basin := (rfl)
@[simp] theorem State.setFlag_pool (s : State) (a lo : Nat) (b : Bool) : (s.setFlag a lo b).pool = s.pool := (rfl)
@[simp] theorem State.setFlag_scrub (s : State) (a lo : Nat) (b : Bool) : (s.setFlag a lo b).scrub = s.scrub := (rfl)
@[simp] theorem State.setFlag_sramErrs (s : State) (a lo : Nat) (b : Bool) : (s.setFlag a lo b).sramErrs = s.sramErrs := (rfl)
@[simp] theorem State.setFlag_maint (s : State) (a lo : Nat) (b : Bool) : (s.setFlag a lo b).maint = s.maint := (rfl)
@[simp] theorem State.setFlag_rvrInit (s : State) (a lo : Nat) (b : Bool) : (s.setFlag a lo b).rvrInit = s.rvrInit := (rfl)
@[simp] theorem State.setFlag_rvrNormal (s : State) (a lo : Nat) (b : Bool) : (s.setFlag a lo b).rvrNormal = s.rvrNormal := (rfl)
@[simp] theorem State.setFlag_ports (s : State) (a lo : Nat) (b : Bool) : (s.setFlag a lo b).ports = s.ports := (rfl)
@[simp] theorem State.setFlag_requests (s : State) (a lo : Nat) (b : Bool) : (s.setFlag a lo b).requests = s.requests := (rfl)
@[simp] theorem State.setFlag_reqWait (s : State) (a lo : Nat) (b : Bool) : (s.setFlag a lo b).reqWait = s.reqWait := (rfl)
@[simp] theorem State.setFlag_nextReq (s : State) (a lo : Nat) (b : Bool) : (s.setFlag a lo b).nextReq = s.nextReq := (rfl)
@[simp] theorem State.setFlag_windows (s : State) (a lo : Nat) (b : Bool) : (s.setFlag a lo b).windows = s.windows := (rfl)
@[simp] theorem State.setFlag_transitHalf (s : State) (a lo : Nat) (b : Bool) : (s.setFlag a lo b).transitHalf = s.transitHalf := (rfl)
@[simp] theorem State.setFlag_routes (s : State) (a lo : Nat) (b : Bool) : (s.setFlag a lo b).routes = s.routes := (rfl)
@[simp] theorem State.setFlag_lossSeen (s : State) (a lo : Nat) (b : Bool) : (s.setFlag a lo b).lossSeen = s.lossSeen := (rfl)
@[simp] theorem State.setFlag_lossGrace (s : State) (a lo : Nat) (b : Bool) : (s.setFlag a lo b).lossGrace = s.lossGrace := (rfl)
@[simp] theorem State.setFlag_shadow (s : State) (a lo : Nat) (b : Bool) : (s.setFlag a lo b).shadow = s.shadow := (rfl)
@[simp] theorem State.setFlag_time (s : State) (a lo : Nat) (b : Bool) : (s.setFlag a lo b).time = s.time := (rfl)
@[simp] theorem State.setFlag_quiley (s : State) (a lo : Nat) (b : Bool) : (s.setFlag a lo b).quiley = s.quiley := (rfl)
@[simp] theorem State.setFlag_hk (s : State) (a lo : Nat) (b : Bool) : (s.setFlag a lo b).hk = s.hk := (rfl)
@[simp] theorem State.setFlag_lullFrom (s : State) (a lo : Nat) (b : Bool) : (s.setFlag a lo b).lullFrom = s.lullFrom := (rfl)
@[simp] theorem State.setFlag_calmFrom (s : State) (a lo : Nat) (b : Bool) : (s.setFlag a lo b).calmFrom = s.calmFrom := (rfl)
@[simp] theorem State.setFlag_bootWaits (s : State) (a lo : Nat) (b : Bool) : (s.setFlag a lo b).bootWaits = s.bootWaits := (rfl)
@[simp] theorem State.setFlag_cap (s : State) (a lo : Nat) (b : Bool) : (s.setFlag a lo b).cap = s.cap := (rfl)
@[simp] theorem State.setFlag_store (s : State) (a lo : Nat) (b : Bool) : (s.setFlag a lo b).store = s.store := (rfl)
@[simp] theorem State.setFlag_monitors (s : State) (a lo : Nat) (b : Bool) : (s.setFlag a lo b).monitors = s.monitors := (rfl)
@[simp] theorem State.setFlag_recQueue (s : State) (a lo : Nat) (b : Bool) : (s.setFlag a lo b).recQueue = s.recQueue := (rfl)
@[simp] theorem State.setFlag_faultLog (s : State) (a lo : Nat) (b : Bool) : (s.setFlag a lo b).faultLog = s.faultLog := (rfl)
@[simp] theorem State.setFlag_logLatch (s : State) (a lo : Nat) (b : Bool) : (s.setFlag a lo b).logLatch = s.logLatch := (rfl)
@[simp] theorem State.setFlag_host (s : State) (a lo : Nat) (b : Bool) : (s.setFlag a lo b).host = s.host := (rfl)
@[simp] theorem State.setFlag_held (s : State) (a lo : Nat) (b : Bool) : (s.setFlag a lo b).held = s.held := (rfl)
@[simp] theorem State.setFlag_out (s : State) (a lo : Nat) (b : Bool) : (s.setFlag a lo b).out = s.out := (rfl)
@[simp] theorem State.setFlag_fresh (s : State) (a lo : Nat) (b : Bool) : (s.setFlag a lo b).fresh = s.fresh := (rfl)

/-! bump -/

@[simp] theorem State.bump_pending (s : State) (p o w k : Nat) : (s.bump p o w k).pending = s.pending := (rfl)
@[simp] theorem State.bump_fuses (s : State) (p o w k : Nat) : (s.bump p o w k).fuses = s.fuses := (rfl)
@[simp] theorem State.bump_pins (s : State) (p o w k : Nat) : (s.bump p o w k).pins = s.pins := (rfl)
@[simp] theorem State.bump_now (s : State) (p o w k : Nat) : (s.bump p o w k).now = s.now := (rfl)
@[simp] theorem State.bump_issue8 (s : State) (p o w k : Nat) : (s.bump p o w k).issue8 = s.issue8 := (rfl)
@[simp] theorem State.bump_cycle8 (s : State) (p o w k : Nat) : (s.bump p o w k).cycle8 = s.cycle8 := (rfl)
@[simp] theorem State.bump_snap (s : State) (p o w k : Nat) : (s.bump p o w k).snap = s.snap := (rfl)
@[simp] theorem State.bump_mem (s : State) (p o w k : Nat) : (s.bump p o w k).mem = s.mem := (rfl)
@[simp] theorem State.bump_bus (s : State) (p o w k : Nat) : (s.bump p o w k).bus = s.bus := (rfl)
@[simp] theorem State.bump_units (s : State) (p o w k : Nat) : (s.bump p o w k).units = s.units := (rfl)
@[simp] theorem State.bump_strands (s : State) (p o w k : Nat) : (s.bump p o w k).strands = s.strands := (rfl)
@[simp] theorem State.bump_cores (s : State) (p o w k : Nat) : (s.bump p o w k).cores = s.cores := (rfl)
@[simp] theorem State.bump_roles (s : State) (p o w k : Nat) : (s.bump p o w k).roles = s.roles := (rfl)
@[simp] theorem State.bump_launches (s : State) (p o w k : Nat) : (s.bump p o w k).launches = s.launches := (rfl)
@[simp] theorem State.bump_doomed (s : State) (p o w k : Nat) : (s.bump p o w k).doomed = s.doomed := (rfl)
@[simp] theorem State.bump_mcast (s : State) (p o w k : Nat) : (s.bump p o w k).mcast = s.mcast := (rfl)
@[simp] theorem State.bump_nextMcast (s : State) (p o w k : Nat) : (s.bump p o w k).nextMcast = s.nextMcast := (rfl)
@[simp] theorem State.bump_tlb (s : State) (p o w k : Nat) : (s.bump p o w k).tlb = s.tlb := (rfl)
@[simp] theorem State.bump_inval (s : State) (p o w k : Nat) : (s.bump p o w k).inval = s.inval := (rfl)
@[simp] theorem State.bump_parkSeq (s : State) (p o w k : Nat) : (s.bump p o w k).parkSeq = s.parkSeq := (rfl)
@[simp] theorem State.bump_layout (s : State) (p o w k : Nat) : (s.bump p o w k).layout = s.layout := (rfl)
@[simp] theorem State.bump_stk (s : State) (p o w k : Nat) : (s.bump p o w k).stk = s.stk := (rfl)
@[simp] theorem State.bump_basin (s : State) (p o w k : Nat) : (s.bump p o w k).basin = s.basin := (rfl)
@[simp] theorem State.bump_pool (s : State) (p o w k : Nat) : (s.bump p o w k).pool = s.pool := (rfl)
@[simp] theorem State.bump_scrub (s : State) (p o w k : Nat) : (s.bump p o w k).scrub = s.scrub := (rfl)
@[simp] theorem State.bump_sramErrs (s : State) (p o w k : Nat) : (s.bump p o w k).sramErrs = s.sramErrs := (rfl)
@[simp] theorem State.bump_maint (s : State) (p o w k : Nat) : (s.bump p o w k).maint = s.maint := (rfl)
@[simp] theorem State.bump_rvrInit (s : State) (p o w k : Nat) : (s.bump p o w k).rvrInit = s.rvrInit := (rfl)
@[simp] theorem State.bump_rvrNormal (s : State) (p o w k : Nat) : (s.bump p o w k).rvrNormal = s.rvrNormal := (rfl)
@[simp] theorem State.bump_ports (s : State) (p o w k : Nat) : (s.bump p o w k).ports = s.ports := (rfl)
@[simp] theorem State.bump_requests (s : State) (p o w k : Nat) : (s.bump p o w k).requests = s.requests := (rfl)
@[simp] theorem State.bump_reqWait (s : State) (p o w k : Nat) : (s.bump p o w k).reqWait = s.reqWait := (rfl)
@[simp] theorem State.bump_nextReq (s : State) (p o w k : Nat) : (s.bump p o w k).nextReq = s.nextReq := (rfl)
@[simp] theorem State.bump_windows (s : State) (p o w k : Nat) : (s.bump p o w k).windows = s.windows := (rfl)
@[simp] theorem State.bump_transitHalf (s : State) (p o w k : Nat) : (s.bump p o w k).transitHalf = s.transitHalf := (rfl)
@[simp] theorem State.bump_routes (s : State) (p o w k : Nat) : (s.bump p o w k).routes = s.routes := (rfl)
@[simp] theorem State.bump_lossSeen (s : State) (p o w k : Nat) : (s.bump p o w k).lossSeen = s.lossSeen := (rfl)
@[simp] theorem State.bump_lossGrace (s : State) (p o w k : Nat) : (s.bump p o w k).lossGrace = s.lossGrace := (rfl)
@[simp] theorem State.bump_shadow (s : State) (p o w k : Nat) : (s.bump p o w k).shadow = s.shadow := (rfl)
@[simp] theorem State.bump_time (s : State) (p o w k : Nat) : (s.bump p o w k).time = s.time := (rfl)
@[simp] theorem State.bump_quiley (s : State) (p o w k : Nat) : (s.bump p o w k).quiley = s.quiley := (rfl)
@[simp] theorem State.bump_hk (s : State) (p o w k : Nat) : (s.bump p o w k).hk = s.hk := (rfl)
@[simp] theorem State.bump_lullFrom (s : State) (p o w k : Nat) : (s.bump p o w k).lullFrom = s.lullFrom := (rfl)
@[simp] theorem State.bump_calmFrom (s : State) (p o w k : Nat) : (s.bump p o w k).calmFrom = s.calmFrom := (rfl)
@[simp] theorem State.bump_bootWaits (s : State) (p o w k : Nat) : (s.bump p o w k).bootWaits = s.bootWaits := (rfl)
@[simp] theorem State.bump_cap (s : State) (p o w k : Nat) : (s.bump p o w k).cap = s.cap := (rfl)
@[simp] theorem State.bump_store (s : State) (p o w k : Nat) : (s.bump p o w k).store = s.store := (rfl)
@[simp] theorem State.bump_monitors (s : State) (p o w k : Nat) : (s.bump p o w k).monitors = s.monitors := (rfl)
@[simp] theorem State.bump_recQueue (s : State) (p o w k : Nat) : (s.bump p o w k).recQueue = s.recQueue := (rfl)
@[simp] theorem State.bump_faultLog (s : State) (p o w k : Nat) : (s.bump p o w k).faultLog = s.faultLog := (rfl)
@[simp] theorem State.bump_logLatch (s : State) (p o w k : Nat) : (s.bump p o w k).logLatch = s.logLatch := (rfl)
@[simp] theorem State.bump_host (s : State) (p o w k : Nat) : (s.bump p o w k).host = s.host := (rfl)
@[simp] theorem State.bump_held (s : State) (p o w k : Nat) : (s.bump p o w k).held = s.held := (rfl)
@[simp] theorem State.bump_out (s : State) (p o w k : Nat) : (s.bump p o w k).out = s.out := (rfl)
@[simp] theorem State.bump_fresh (s : State) (p o w k : Nat) : (s.bump p o w k).fresh = s.fresh := (rfl)

/-! setStrand -/

@[simp] theorem State.setStrand_pending (s : State) (k : Nat) (x : Strand) : (s.setStrand k x).pending = s.pending := (rfl)
@[simp] theorem State.setStrand_fuses (s : State) (k : Nat) (x : Strand) : (s.setStrand k x).fuses = s.fuses := (rfl)
@[simp] theorem State.setStrand_pins (s : State) (k : Nat) (x : Strand) : (s.setStrand k x).pins = s.pins := (rfl)
@[simp] theorem State.setStrand_now (s : State) (k : Nat) (x : Strand) : (s.setStrand k x).now = s.now := (rfl)
@[simp] theorem State.setStrand_issue8 (s : State) (k : Nat) (x : Strand) : (s.setStrand k x).issue8 = s.issue8 := (rfl)
@[simp] theorem State.setStrand_cycle8 (s : State) (k : Nat) (x : Strand) : (s.setStrand k x).cycle8 = s.cycle8 := (rfl)
@[simp] theorem State.setStrand_regs (s : State) (k : Nat) (x : Strand) : (s.setStrand k x).regs = s.regs := (rfl)
@[simp] theorem State.setStrand_snap (s : State) (k : Nat) (x : Strand) : (s.setStrand k x).snap = s.snap := (rfl)
@[simp] theorem State.setStrand_mem (s : State) (k : Nat) (x : Strand) : (s.setStrand k x).mem = s.mem := (rfl)
@[simp] theorem State.setStrand_bus (s : State) (k : Nat) (x : Strand) : (s.setStrand k x).bus = s.bus := (rfl)
@[simp] theorem State.setStrand_units (s : State) (k : Nat) (x : Strand) : (s.setStrand k x).units = s.units := (rfl)
@[simp] theorem State.setStrand_cores (s : State) (k : Nat) (x : Strand) : (s.setStrand k x).cores = s.cores := (rfl)
@[simp] theorem State.setStrand_roles (s : State) (k : Nat) (x : Strand) : (s.setStrand k x).roles = s.roles := (rfl)
@[simp] theorem State.setStrand_launches (s : State) (k : Nat) (x : Strand) : (s.setStrand k x).launches = s.launches := (rfl)
@[simp] theorem State.setStrand_doomed (s : State) (k : Nat) (x : Strand) : (s.setStrand k x).doomed = s.doomed := (rfl)
@[simp] theorem State.setStrand_mcast (s : State) (k : Nat) (x : Strand) : (s.setStrand k x).mcast = s.mcast := (rfl)
@[simp] theorem State.setStrand_nextMcast (s : State) (k : Nat) (x : Strand) : (s.setStrand k x).nextMcast = s.nextMcast := (rfl)
@[simp] theorem State.setStrand_tlb (s : State) (k : Nat) (x : Strand) : (s.setStrand k x).tlb = s.tlb := (rfl)
@[simp] theorem State.setStrand_inval (s : State) (k : Nat) (x : Strand) : (s.setStrand k x).inval = s.inval := (rfl)
@[simp] theorem State.setStrand_parkSeq (s : State) (k : Nat) (x : Strand) : (s.setStrand k x).parkSeq = s.parkSeq := (rfl)
@[simp] theorem State.setStrand_layout (s : State) (k : Nat) (x : Strand) : (s.setStrand k x).layout = s.layout := (rfl)
@[simp] theorem State.setStrand_stk (s : State) (k : Nat) (x : Strand) : (s.setStrand k x).stk = s.stk := (rfl)
@[simp] theorem State.setStrand_basin (s : State) (k : Nat) (x : Strand) : (s.setStrand k x).basin = s.basin := (rfl)
@[simp] theorem State.setStrand_pool (s : State) (k : Nat) (x : Strand) : (s.setStrand k x).pool = s.pool := (rfl)
@[simp] theorem State.setStrand_scrub (s : State) (k : Nat) (x : Strand) : (s.setStrand k x).scrub = s.scrub := (rfl)
@[simp] theorem State.setStrand_sramErrs (s : State) (k : Nat) (x : Strand) : (s.setStrand k x).sramErrs = s.sramErrs := (rfl)
@[simp] theorem State.setStrand_maint (s : State) (k : Nat) (x : Strand) : (s.setStrand k x).maint = s.maint := (rfl)
@[simp] theorem State.setStrand_rvrInit (s : State) (k : Nat) (x : Strand) : (s.setStrand k x).rvrInit = s.rvrInit := (rfl)
@[simp] theorem State.setStrand_rvrNormal (s : State) (k : Nat) (x : Strand) : (s.setStrand k x).rvrNormal = s.rvrNormal := (rfl)
@[simp] theorem State.setStrand_ports (s : State) (k : Nat) (x : Strand) : (s.setStrand k x).ports = s.ports := (rfl)
@[simp] theorem State.setStrand_requests (s : State) (k : Nat) (x : Strand) : (s.setStrand k x).requests = s.requests := (rfl)
@[simp] theorem State.setStrand_reqWait (s : State) (k : Nat) (x : Strand) : (s.setStrand k x).reqWait = s.reqWait := (rfl)
@[simp] theorem State.setStrand_nextReq (s : State) (k : Nat) (x : Strand) : (s.setStrand k x).nextReq = s.nextReq := (rfl)
@[simp] theorem State.setStrand_windows (s : State) (k : Nat) (x : Strand) : (s.setStrand k x).windows = s.windows := (rfl)
@[simp] theorem State.setStrand_transitHalf (s : State) (k : Nat) (x : Strand) : (s.setStrand k x).transitHalf = s.transitHalf := (rfl)
@[simp] theorem State.setStrand_routes (s : State) (k : Nat) (x : Strand) : (s.setStrand k x).routes = s.routes := (rfl)
@[simp] theorem State.setStrand_lossSeen (s : State) (k : Nat) (x : Strand) : (s.setStrand k x).lossSeen = s.lossSeen := (rfl)
@[simp] theorem State.setStrand_lossGrace (s : State) (k : Nat) (x : Strand) : (s.setStrand k x).lossGrace = s.lossGrace := (rfl)
@[simp] theorem State.setStrand_shadow (s : State) (k : Nat) (x : Strand) : (s.setStrand k x).shadow = s.shadow := (rfl)
@[simp] theorem State.setStrand_time (s : State) (k : Nat) (x : Strand) : (s.setStrand k x).time = s.time := (rfl)
@[simp] theorem State.setStrand_quiley (s : State) (k : Nat) (x : Strand) : (s.setStrand k x).quiley = s.quiley := (rfl)
@[simp] theorem State.setStrand_hk (s : State) (k : Nat) (x : Strand) : (s.setStrand k x).hk = s.hk := (rfl)
@[simp] theorem State.setStrand_lullFrom (s : State) (k : Nat) (x : Strand) : (s.setStrand k x).lullFrom = s.lullFrom := (rfl)
@[simp] theorem State.setStrand_calmFrom (s : State) (k : Nat) (x : Strand) : (s.setStrand k x).calmFrom = s.calmFrom := (rfl)
@[simp] theorem State.setStrand_bootWaits (s : State) (k : Nat) (x : Strand) : (s.setStrand k x).bootWaits = s.bootWaits := (rfl)
@[simp] theorem State.setStrand_cap (s : State) (k : Nat) (x : Strand) : (s.setStrand k x).cap = s.cap := (rfl)
@[simp] theorem State.setStrand_store (s : State) (k : Nat) (x : Strand) : (s.setStrand k x).store = s.store := (rfl)
@[simp] theorem State.setStrand_monitors (s : State) (k : Nat) (x : Strand) : (s.setStrand k x).monitors = s.monitors := (rfl)
@[simp] theorem State.setStrand_recQueue (s : State) (k : Nat) (x : Strand) : (s.setStrand k x).recQueue = s.recQueue := (rfl)
@[simp] theorem State.setStrand_faultLog (s : State) (k : Nat) (x : Strand) : (s.setStrand k x).faultLog = s.faultLog := (rfl)
@[simp] theorem State.setStrand_logLatch (s : State) (k : Nat) (x : Strand) : (s.setStrand k x).logLatch = s.logLatch := (rfl)
@[simp] theorem State.setStrand_host (s : State) (k : Nat) (x : Strand) : (s.setStrand k x).host = s.host := (rfl)
@[simp] theorem State.setStrand_held (s : State) (k : Nat) (x : Strand) : (s.setStrand k x).held = s.held := (rfl)
@[simp] theorem State.setStrand_out (s : State) (k : Nat) (x : Strand) : (s.setStrand k x).out = s.out := (rfl)
@[simp] theorem State.setStrand_fresh (s : State) (k : Nat) (x : Strand) : (s.setStrand k x).fresh = s.fresh := (rfl)

/-! setCore -/

@[simp] theorem State.setCore_pending (s : State) (d : Die) (n : Nat) (c : Core) : (s.setCore d n c).pending = s.pending := (rfl)
@[simp] theorem State.setCore_fuses (s : State) (d : Die) (n : Nat) (c : Core) : (s.setCore d n c).fuses = s.fuses := (rfl)
@[simp] theorem State.setCore_pins (s : State) (d : Die) (n : Nat) (c : Core) : (s.setCore d n c).pins = s.pins := (rfl)
@[simp] theorem State.setCore_now (s : State) (d : Die) (n : Nat) (c : Core) : (s.setCore d n c).now = s.now := (rfl)
@[simp] theorem State.setCore_issue8 (s : State) (d : Die) (n : Nat) (c : Core) : (s.setCore d n c).issue8 = s.issue8 := (rfl)
@[simp] theorem State.setCore_cycle8 (s : State) (d : Die) (n : Nat) (c : Core) : (s.setCore d n c).cycle8 = s.cycle8 := (rfl)
@[simp] theorem State.setCore_regs (s : State) (d : Die) (n : Nat) (c : Core) : (s.setCore d n c).regs = s.regs := (rfl)
@[simp] theorem State.setCore_snap (s : State) (d : Die) (n : Nat) (c : Core) : (s.setCore d n c).snap = s.snap := (rfl)
@[simp] theorem State.setCore_mem (s : State) (d : Die) (n : Nat) (c : Core) : (s.setCore d n c).mem = s.mem := (rfl)
@[simp] theorem State.setCore_bus (s : State) (d : Die) (n : Nat) (c : Core) : (s.setCore d n c).bus = s.bus := (rfl)
@[simp] theorem State.setCore_units (s : State) (d : Die) (n : Nat) (c : Core) : (s.setCore d n c).units = s.units := (rfl)
@[simp] theorem State.setCore_strands (s : State) (d : Die) (n : Nat) (c : Core) : (s.setCore d n c).strands = s.strands := (rfl)
@[simp] theorem State.setCore_roles (s : State) (d : Die) (n : Nat) (c : Core) : (s.setCore d n c).roles = s.roles := (rfl)
@[simp] theorem State.setCore_launches (s : State) (d : Die) (n : Nat) (c : Core) : (s.setCore d n c).launches = s.launches := (rfl)
@[simp] theorem State.setCore_doomed (s : State) (d : Die) (n : Nat) (c : Core) : (s.setCore d n c).doomed = s.doomed := (rfl)
@[simp] theorem State.setCore_mcast (s : State) (d : Die) (n : Nat) (c : Core) : (s.setCore d n c).mcast = s.mcast := (rfl)
@[simp] theorem State.setCore_nextMcast (s : State) (d : Die) (n : Nat) (c : Core) : (s.setCore d n c).nextMcast = s.nextMcast := (rfl)
@[simp] theorem State.setCore_tlb (s : State) (d : Die) (n : Nat) (c : Core) : (s.setCore d n c).tlb = s.tlb := (rfl)
@[simp] theorem State.setCore_inval (s : State) (d : Die) (n : Nat) (c : Core) : (s.setCore d n c).inval = s.inval := (rfl)
@[simp] theorem State.setCore_parkSeq (s : State) (d : Die) (n : Nat) (c : Core) : (s.setCore d n c).parkSeq = s.parkSeq := (rfl)
@[simp] theorem State.setCore_layout (s : State) (d : Die) (n : Nat) (c : Core) : (s.setCore d n c).layout = s.layout := (rfl)
@[simp] theorem State.setCore_stk (s : State) (d : Die) (n : Nat) (c : Core) : (s.setCore d n c).stk = s.stk := (rfl)
@[simp] theorem State.setCore_basin (s : State) (d : Die) (n : Nat) (c : Core) : (s.setCore d n c).basin = s.basin := (rfl)
@[simp] theorem State.setCore_pool (s : State) (d : Die) (n : Nat) (c : Core) : (s.setCore d n c).pool = s.pool := (rfl)
@[simp] theorem State.setCore_scrub (s : State) (d : Die) (n : Nat) (c : Core) : (s.setCore d n c).scrub = s.scrub := (rfl)
@[simp] theorem State.setCore_sramErrs (s : State) (d : Die) (n : Nat) (c : Core) : (s.setCore d n c).sramErrs = s.sramErrs := (rfl)
@[simp] theorem State.setCore_maint (s : State) (d : Die) (n : Nat) (c : Core) : (s.setCore d n c).maint = s.maint := (rfl)
@[simp] theorem State.setCore_rvrInit (s : State) (d : Die) (n : Nat) (c : Core) : (s.setCore d n c).rvrInit = s.rvrInit := (rfl)
@[simp] theorem State.setCore_rvrNormal (s : State) (d : Die) (n : Nat) (c : Core) : (s.setCore d n c).rvrNormal = s.rvrNormal := (rfl)
@[simp] theorem State.setCore_ports (s : State) (d : Die) (n : Nat) (c : Core) : (s.setCore d n c).ports = s.ports := (rfl)
@[simp] theorem State.setCore_requests (s : State) (d : Die) (n : Nat) (c : Core) : (s.setCore d n c).requests = s.requests := (rfl)
@[simp] theorem State.setCore_reqWait (s : State) (d : Die) (n : Nat) (c : Core) : (s.setCore d n c).reqWait = s.reqWait := (rfl)
@[simp] theorem State.setCore_nextReq (s : State) (d : Die) (n : Nat) (c : Core) : (s.setCore d n c).nextReq = s.nextReq := (rfl)
@[simp] theorem State.setCore_windows (s : State) (d : Die) (n : Nat) (c : Core) : (s.setCore d n c).windows = s.windows := (rfl)
@[simp] theorem State.setCore_transitHalf (s : State) (d : Die) (n : Nat) (c : Core) : (s.setCore d n c).transitHalf = s.transitHalf := (rfl)
@[simp] theorem State.setCore_routes (s : State) (d : Die) (n : Nat) (c : Core) : (s.setCore d n c).routes = s.routes := (rfl)
@[simp] theorem State.setCore_lossSeen (s : State) (d : Die) (n : Nat) (c : Core) : (s.setCore d n c).lossSeen = s.lossSeen := (rfl)
@[simp] theorem State.setCore_lossGrace (s : State) (d : Die) (n : Nat) (c : Core) : (s.setCore d n c).lossGrace = s.lossGrace := (rfl)
@[simp] theorem State.setCore_shadow (s : State) (d : Die) (n : Nat) (c : Core) : (s.setCore d n c).shadow = s.shadow := (rfl)
@[simp] theorem State.setCore_time (s : State) (d : Die) (n : Nat) (c : Core) : (s.setCore d n c).time = s.time := (rfl)
@[simp] theorem State.setCore_quiley (s : State) (d : Die) (n : Nat) (c : Core) : (s.setCore d n c).quiley = s.quiley := (rfl)
@[simp] theorem State.setCore_hk (s : State) (d : Die) (n : Nat) (c : Core) : (s.setCore d n c).hk = s.hk := (rfl)
@[simp] theorem State.setCore_lullFrom (s : State) (d : Die) (n : Nat) (c : Core) : (s.setCore d n c).lullFrom = s.lullFrom := (rfl)
@[simp] theorem State.setCore_calmFrom (s : State) (d : Die) (n : Nat) (c : Core) : (s.setCore d n c).calmFrom = s.calmFrom := (rfl)
@[simp] theorem State.setCore_bootWaits (s : State) (d : Die) (n : Nat) (c : Core) : (s.setCore d n c).bootWaits = s.bootWaits := (rfl)
@[simp] theorem State.setCore_cap (s : State) (d : Die) (n : Nat) (c : Core) : (s.setCore d n c).cap = s.cap := (rfl)
@[simp] theorem State.setCore_store (s : State) (d : Die) (n : Nat) (c : Core) : (s.setCore d n c).store = s.store := (rfl)
@[simp] theorem State.setCore_monitors (s : State) (d : Die) (n : Nat) (c : Core) : (s.setCore d n c).monitors = s.monitors := (rfl)
@[simp] theorem State.setCore_recQueue (s : State) (d : Die) (n : Nat) (c : Core) : (s.setCore d n c).recQueue = s.recQueue := (rfl)
@[simp] theorem State.setCore_faultLog (s : State) (d : Die) (n : Nat) (c : Core) : (s.setCore d n c).faultLog = s.faultLog := (rfl)
@[simp] theorem State.setCore_logLatch (s : State) (d : Die) (n : Nat) (c : Core) : (s.setCore d n c).logLatch = s.logLatch := (rfl)
@[simp] theorem State.setCore_host (s : State) (d : Die) (n : Nat) (c : Core) : (s.setCore d n c).host = s.host := (rfl)
@[simp] theorem State.setCore_held (s : State) (d : Die) (n : Nat) (c : Core) : (s.setCore d n c).held = s.held := (rfl)
@[simp] theorem State.setCore_out (s : State) (d : Die) (n : Nat) (c : Core) : (s.setCore d n c).out = s.out := (rfl)
@[simp] theorem State.setCore_fresh (s : State) (d : Die) (n : Nat) (c : Core) : (s.setCore d n c).fresh = s.fresh := (rfl)

/-! setStack -/

@[simp] theorem State.setStack_pending (s : State) (n : Nat) (k : Stack) : (s.setStack n k).pending = s.pending := (rfl)
@[simp] theorem State.setStack_fuses (s : State) (n : Nat) (k : Stack) : (s.setStack n k).fuses = s.fuses := (rfl)
@[simp] theorem State.setStack_pins (s : State) (n : Nat) (k : Stack) : (s.setStack n k).pins = s.pins := (rfl)
@[simp] theorem State.setStack_now (s : State) (n : Nat) (k : Stack) : (s.setStack n k).now = s.now := (rfl)
@[simp] theorem State.setStack_issue8 (s : State) (n : Nat) (k : Stack) : (s.setStack n k).issue8 = s.issue8 := (rfl)
@[simp] theorem State.setStack_cycle8 (s : State) (n : Nat) (k : Stack) : (s.setStack n k).cycle8 = s.cycle8 := (rfl)
@[simp] theorem State.setStack_regs (s : State) (n : Nat) (k : Stack) : (s.setStack n k).regs = s.regs := (rfl)
@[simp] theorem State.setStack_snap (s : State) (n : Nat) (k : Stack) : (s.setStack n k).snap = s.snap := (rfl)
@[simp] theorem State.setStack_mem (s : State) (n : Nat) (k : Stack) : (s.setStack n k).mem = s.mem := (rfl)
@[simp] theorem State.setStack_bus (s : State) (n : Nat) (k : Stack) : (s.setStack n k).bus = s.bus := (rfl)
@[simp] theorem State.setStack_units (s : State) (n : Nat) (k : Stack) : (s.setStack n k).units = s.units := (rfl)
@[simp] theorem State.setStack_strands (s : State) (n : Nat) (k : Stack) : (s.setStack n k).strands = s.strands := (rfl)
@[simp] theorem State.setStack_cores (s : State) (n : Nat) (k : Stack) : (s.setStack n k).cores = s.cores := (rfl)
@[simp] theorem State.setStack_roles (s : State) (n : Nat) (k : Stack) : (s.setStack n k).roles = s.roles := (rfl)
@[simp] theorem State.setStack_launches (s : State) (n : Nat) (k : Stack) : (s.setStack n k).launches = s.launches := (rfl)
@[simp] theorem State.setStack_doomed (s : State) (n : Nat) (k : Stack) : (s.setStack n k).doomed = s.doomed := (rfl)
@[simp] theorem State.setStack_mcast (s : State) (n : Nat) (k : Stack) : (s.setStack n k).mcast = s.mcast := (rfl)
@[simp] theorem State.setStack_nextMcast (s : State) (n : Nat) (k : Stack) : (s.setStack n k).nextMcast = s.nextMcast := (rfl)
@[simp] theorem State.setStack_tlb (s : State) (n : Nat) (k : Stack) : (s.setStack n k).tlb = s.tlb := (rfl)
@[simp] theorem State.setStack_inval (s : State) (n : Nat) (k : Stack) : (s.setStack n k).inval = s.inval := (rfl)
@[simp] theorem State.setStack_parkSeq (s : State) (n : Nat) (k : Stack) : (s.setStack n k).parkSeq = s.parkSeq := (rfl)
@[simp] theorem State.setStack_layout (s : State) (n : Nat) (k : Stack) : (s.setStack n k).layout = s.layout := (rfl)
@[simp] theorem State.setStack_basin (s : State) (n : Nat) (k : Stack) : (s.setStack n k).basin = s.basin := (rfl)
@[simp] theorem State.setStack_pool (s : State) (n : Nat) (k : Stack) : (s.setStack n k).pool = s.pool := (rfl)
@[simp] theorem State.setStack_scrub (s : State) (n : Nat) (k : Stack) : (s.setStack n k).scrub = s.scrub := (rfl)
@[simp] theorem State.setStack_sramErrs (s : State) (n : Nat) (k : Stack) : (s.setStack n k).sramErrs = s.sramErrs := (rfl)
@[simp] theorem State.setStack_maint (s : State) (n : Nat) (k : Stack) : (s.setStack n k).maint = s.maint := (rfl)
@[simp] theorem State.setStack_rvrInit (s : State) (n : Nat) (k : Stack) : (s.setStack n k).rvrInit = s.rvrInit := (rfl)
@[simp] theorem State.setStack_rvrNormal (s : State) (n : Nat) (k : Stack) : (s.setStack n k).rvrNormal = s.rvrNormal := (rfl)
@[simp] theorem State.setStack_ports (s : State) (n : Nat) (k : Stack) : (s.setStack n k).ports = s.ports := (rfl)
@[simp] theorem State.setStack_requests (s : State) (n : Nat) (k : Stack) : (s.setStack n k).requests = s.requests := (rfl)
@[simp] theorem State.setStack_reqWait (s : State) (n : Nat) (k : Stack) : (s.setStack n k).reqWait = s.reqWait := (rfl)
@[simp] theorem State.setStack_nextReq (s : State) (n : Nat) (k : Stack) : (s.setStack n k).nextReq = s.nextReq := (rfl)
@[simp] theorem State.setStack_windows (s : State) (n : Nat) (k : Stack) : (s.setStack n k).windows = s.windows := (rfl)
@[simp] theorem State.setStack_transitHalf (s : State) (n : Nat) (k : Stack) : (s.setStack n k).transitHalf = s.transitHalf := (rfl)
@[simp] theorem State.setStack_routes (s : State) (n : Nat) (k : Stack) : (s.setStack n k).routes = s.routes := (rfl)
@[simp] theorem State.setStack_lossSeen (s : State) (n : Nat) (k : Stack) : (s.setStack n k).lossSeen = s.lossSeen := (rfl)
@[simp] theorem State.setStack_lossGrace (s : State) (n : Nat) (k : Stack) : (s.setStack n k).lossGrace = s.lossGrace := (rfl)
@[simp] theorem State.setStack_shadow (s : State) (n : Nat) (k : Stack) : (s.setStack n k).shadow = s.shadow := (rfl)
@[simp] theorem State.setStack_time (s : State) (n : Nat) (k : Stack) : (s.setStack n k).time = s.time := (rfl)
@[simp] theorem State.setStack_quiley (s : State) (n : Nat) (k : Stack) : (s.setStack n k).quiley = s.quiley := (rfl)
@[simp] theorem State.setStack_hk (s : State) (n : Nat) (k : Stack) : (s.setStack n k).hk = s.hk := (rfl)
@[simp] theorem State.setStack_lullFrom (s : State) (n : Nat) (k : Stack) : (s.setStack n k).lullFrom = s.lullFrom := (rfl)
@[simp] theorem State.setStack_calmFrom (s : State) (n : Nat) (k : Stack) : (s.setStack n k).calmFrom = s.calmFrom := (rfl)
@[simp] theorem State.setStack_bootWaits (s : State) (n : Nat) (k : Stack) : (s.setStack n k).bootWaits = s.bootWaits := (rfl)
@[simp] theorem State.setStack_cap (s : State) (n : Nat) (k : Stack) : (s.setStack n k).cap = s.cap := (rfl)
@[simp] theorem State.setStack_store (s : State) (n : Nat) (k : Stack) : (s.setStack n k).store = s.store := (rfl)
@[simp] theorem State.setStack_monitors (s : State) (n : Nat) (k : Stack) : (s.setStack n k).monitors = s.monitors := (rfl)
@[simp] theorem State.setStack_recQueue (s : State) (n : Nat) (k : Stack) : (s.setStack n k).recQueue = s.recQueue := (rfl)
@[simp] theorem State.setStack_faultLog (s : State) (n : Nat) (k : Stack) : (s.setStack n k).faultLog = s.faultLog := (rfl)
@[simp] theorem State.setStack_logLatch (s : State) (n : Nat) (k : Stack) : (s.setStack n k).logLatch = s.logLatch := (rfl)
@[simp] theorem State.setStack_host (s : State) (n : Nat) (k : Stack) : (s.setStack n k).host = s.host := (rfl)
@[simp] theorem State.setStack_held (s : State) (n : Nat) (k : Stack) : (s.setStack n k).held = s.held := (rfl)
@[simp] theorem State.setStack_out (s : State) (n : Nat) (k : Stack) : (s.setStack n k).out = s.out := (rfl)
@[simp] theorem State.setStack_fresh (s : State) (n : Nat) (k : Stack) : (s.setStack n k).fresh = s.fresh := (rfl)

/-! setUnit -/

@[simp] theorem State.setUnit_pending (s : State) (a : Nat) (u : UnitState) : (s.setUnit a u).pending = s.pending := (rfl)
@[simp] theorem State.setUnit_fuses (s : State) (a : Nat) (u : UnitState) : (s.setUnit a u).fuses = s.fuses := (rfl)
@[simp] theorem State.setUnit_pins (s : State) (a : Nat) (u : UnitState) : (s.setUnit a u).pins = s.pins := (rfl)
@[simp] theorem State.setUnit_now (s : State) (a : Nat) (u : UnitState) : (s.setUnit a u).now = s.now := (rfl)
@[simp] theorem State.setUnit_issue8 (s : State) (a : Nat) (u : UnitState) : (s.setUnit a u).issue8 = s.issue8 := (rfl)
@[simp] theorem State.setUnit_cycle8 (s : State) (a : Nat) (u : UnitState) : (s.setUnit a u).cycle8 = s.cycle8 := (rfl)
@[simp] theorem State.setUnit_regs (s : State) (a : Nat) (u : UnitState) : (s.setUnit a u).regs = s.regs := (rfl)
@[simp] theorem State.setUnit_snap (s : State) (a : Nat) (u : UnitState) : (s.setUnit a u).snap = s.snap := (rfl)
@[simp] theorem State.setUnit_mem (s : State) (a : Nat) (u : UnitState) : (s.setUnit a u).mem = s.mem := (rfl)
@[simp] theorem State.setUnit_bus (s : State) (a : Nat) (u : UnitState) : (s.setUnit a u).bus = s.bus := (rfl)
@[simp] theorem State.setUnit_strands (s : State) (a : Nat) (u : UnitState) : (s.setUnit a u).strands = s.strands := (rfl)
@[simp] theorem State.setUnit_cores (s : State) (a : Nat) (u : UnitState) : (s.setUnit a u).cores = s.cores := (rfl)
@[simp] theorem State.setUnit_roles (s : State) (a : Nat) (u : UnitState) : (s.setUnit a u).roles = s.roles := (rfl)
@[simp] theorem State.setUnit_launches (s : State) (a : Nat) (u : UnitState) : (s.setUnit a u).launches = s.launches := (rfl)
@[simp] theorem State.setUnit_doomed (s : State) (a : Nat) (u : UnitState) : (s.setUnit a u).doomed = s.doomed := (rfl)
@[simp] theorem State.setUnit_mcast (s : State) (a : Nat) (u : UnitState) : (s.setUnit a u).mcast = s.mcast := (rfl)
@[simp] theorem State.setUnit_nextMcast (s : State) (a : Nat) (u : UnitState) : (s.setUnit a u).nextMcast = s.nextMcast := (rfl)
@[simp] theorem State.setUnit_tlb (s : State) (a : Nat) (u : UnitState) : (s.setUnit a u).tlb = s.tlb := (rfl)
@[simp] theorem State.setUnit_inval (s : State) (a : Nat) (u : UnitState) : (s.setUnit a u).inval = s.inval := (rfl)
@[simp] theorem State.setUnit_parkSeq (s : State) (a : Nat) (u : UnitState) : (s.setUnit a u).parkSeq = s.parkSeq := (rfl)
@[simp] theorem State.setUnit_layout (s : State) (a : Nat) (u : UnitState) : (s.setUnit a u).layout = s.layout := (rfl)
@[simp] theorem State.setUnit_stk (s : State) (a : Nat) (u : UnitState) : (s.setUnit a u).stk = s.stk := (rfl)
@[simp] theorem State.setUnit_basin (s : State) (a : Nat) (u : UnitState) : (s.setUnit a u).basin = s.basin := (rfl)
@[simp] theorem State.setUnit_pool (s : State) (a : Nat) (u : UnitState) : (s.setUnit a u).pool = s.pool := (rfl)
@[simp] theorem State.setUnit_scrub (s : State) (a : Nat) (u : UnitState) : (s.setUnit a u).scrub = s.scrub := (rfl)
@[simp] theorem State.setUnit_sramErrs (s : State) (a : Nat) (u : UnitState) : (s.setUnit a u).sramErrs = s.sramErrs := (rfl)
@[simp] theorem State.setUnit_maint (s : State) (a : Nat) (u : UnitState) : (s.setUnit a u).maint = s.maint := (rfl)
@[simp] theorem State.setUnit_rvrInit (s : State) (a : Nat) (u : UnitState) : (s.setUnit a u).rvrInit = s.rvrInit := (rfl)
@[simp] theorem State.setUnit_rvrNormal (s : State) (a : Nat) (u : UnitState) : (s.setUnit a u).rvrNormal = s.rvrNormal := (rfl)
@[simp] theorem State.setUnit_ports (s : State) (a : Nat) (u : UnitState) : (s.setUnit a u).ports = s.ports := (rfl)
@[simp] theorem State.setUnit_requests (s : State) (a : Nat) (u : UnitState) : (s.setUnit a u).requests = s.requests := (rfl)
@[simp] theorem State.setUnit_reqWait (s : State) (a : Nat) (u : UnitState) : (s.setUnit a u).reqWait = s.reqWait := (rfl)
@[simp] theorem State.setUnit_nextReq (s : State) (a : Nat) (u : UnitState) : (s.setUnit a u).nextReq = s.nextReq := (rfl)
@[simp] theorem State.setUnit_windows (s : State) (a : Nat) (u : UnitState) : (s.setUnit a u).windows = s.windows := (rfl)
@[simp] theorem State.setUnit_transitHalf (s : State) (a : Nat) (u : UnitState) : (s.setUnit a u).transitHalf = s.transitHalf := (rfl)
@[simp] theorem State.setUnit_routes (s : State) (a : Nat) (u : UnitState) : (s.setUnit a u).routes = s.routes := (rfl)
@[simp] theorem State.setUnit_lossSeen (s : State) (a : Nat) (u : UnitState) : (s.setUnit a u).lossSeen = s.lossSeen := (rfl)
@[simp] theorem State.setUnit_lossGrace (s : State) (a : Nat) (u : UnitState) : (s.setUnit a u).lossGrace = s.lossGrace := (rfl)
@[simp] theorem State.setUnit_shadow (s : State) (a : Nat) (u : UnitState) : (s.setUnit a u).shadow = s.shadow := (rfl)
@[simp] theorem State.setUnit_time (s : State) (a : Nat) (u : UnitState) : (s.setUnit a u).time = s.time := (rfl)
@[simp] theorem State.setUnit_quiley (s : State) (a : Nat) (u : UnitState) : (s.setUnit a u).quiley = s.quiley := (rfl)
@[simp] theorem State.setUnit_hk (s : State) (a : Nat) (u : UnitState) : (s.setUnit a u).hk = s.hk := (rfl)
@[simp] theorem State.setUnit_lullFrom (s : State) (a : Nat) (u : UnitState) : (s.setUnit a u).lullFrom = s.lullFrom := (rfl)
@[simp] theorem State.setUnit_calmFrom (s : State) (a : Nat) (u : UnitState) : (s.setUnit a u).calmFrom = s.calmFrom := (rfl)
@[simp] theorem State.setUnit_bootWaits (s : State) (a : Nat) (u : UnitState) : (s.setUnit a u).bootWaits = s.bootWaits := (rfl)
@[simp] theorem State.setUnit_cap (s : State) (a : Nat) (u : UnitState) : (s.setUnit a u).cap = s.cap := (rfl)
@[simp] theorem State.setUnit_store (s : State) (a : Nat) (u : UnitState) : (s.setUnit a u).store = s.store := (rfl)
@[simp] theorem State.setUnit_monitors (s : State) (a : Nat) (u : UnitState) : (s.setUnit a u).monitors = s.monitors := (rfl)
@[simp] theorem State.setUnit_recQueue (s : State) (a : Nat) (u : UnitState) : (s.setUnit a u).recQueue = s.recQueue := (rfl)
@[simp] theorem State.setUnit_faultLog (s : State) (a : Nat) (u : UnitState) : (s.setUnit a u).faultLog = s.faultLog := (rfl)
@[simp] theorem State.setUnit_logLatch (s : State) (a : Nat) (u : UnitState) : (s.setUnit a u).logLatch = s.logLatch := (rfl)
@[simp] theorem State.setUnit_host (s : State) (a : Nat) (u : UnitState) : (s.setUnit a u).host = s.host := (rfl)
@[simp] theorem State.setUnit_held (s : State) (a : Nat) (u : UnitState) : (s.setUnit a u).held = s.held := (rfl)
@[simp] theorem State.setUnit_out (s : State) (a : Nat) (u : UnitState) : (s.setUnit a u).out = s.out := (rfl)
@[simp] theorem State.setUnit_fresh (s : State) (a : Nat) (u : UnitState) : (s.setUnit a u).fresh = s.fresh := (rfl)

/-! setHk -/

@[simp] theorem State.setHk_pending (s : State) (d : Die) (h : Hk) : (s.setHk d h).pending = s.pending := (rfl)
@[simp] theorem State.setHk_fuses (s : State) (d : Die) (h : Hk) : (s.setHk d h).fuses = s.fuses := (rfl)
@[simp] theorem State.setHk_pins (s : State) (d : Die) (h : Hk) : (s.setHk d h).pins = s.pins := (rfl)
@[simp] theorem State.setHk_now (s : State) (d : Die) (h : Hk) : (s.setHk d h).now = s.now := (rfl)
@[simp] theorem State.setHk_issue8 (s : State) (d : Die) (h : Hk) : (s.setHk d h).issue8 = s.issue8 := (rfl)
@[simp] theorem State.setHk_cycle8 (s : State) (d : Die) (h : Hk) : (s.setHk d h).cycle8 = s.cycle8 := (rfl)
@[simp] theorem State.setHk_regs (s : State) (d : Die) (h : Hk) : (s.setHk d h).regs = s.regs := (rfl)
@[simp] theorem State.setHk_snap (s : State) (d : Die) (h : Hk) : (s.setHk d h).snap = s.snap := (rfl)
@[simp] theorem State.setHk_mem (s : State) (d : Die) (h : Hk) : (s.setHk d h).mem = s.mem := (rfl)
@[simp] theorem State.setHk_bus (s : State) (d : Die) (h : Hk) : (s.setHk d h).bus = s.bus := (rfl)
@[simp] theorem State.setHk_units (s : State) (d : Die) (h : Hk) : (s.setHk d h).units = s.units := (rfl)
@[simp] theorem State.setHk_strands (s : State) (d : Die) (h : Hk) : (s.setHk d h).strands = s.strands := (rfl)
@[simp] theorem State.setHk_cores (s : State) (d : Die) (h : Hk) : (s.setHk d h).cores = s.cores := (rfl)
@[simp] theorem State.setHk_roles (s : State) (d : Die) (h : Hk) : (s.setHk d h).roles = s.roles := (rfl)
@[simp] theorem State.setHk_launches (s : State) (d : Die) (h : Hk) : (s.setHk d h).launches = s.launches := (rfl)
@[simp] theorem State.setHk_doomed (s : State) (d : Die) (h : Hk) : (s.setHk d h).doomed = s.doomed := (rfl)
@[simp] theorem State.setHk_mcast (s : State) (d : Die) (h : Hk) : (s.setHk d h).mcast = s.mcast := (rfl)
@[simp] theorem State.setHk_nextMcast (s : State) (d : Die) (h : Hk) : (s.setHk d h).nextMcast = s.nextMcast := (rfl)
@[simp] theorem State.setHk_tlb (s : State) (d : Die) (h : Hk) : (s.setHk d h).tlb = s.tlb := (rfl)
@[simp] theorem State.setHk_inval (s : State) (d : Die) (h : Hk) : (s.setHk d h).inval = s.inval := (rfl)
@[simp] theorem State.setHk_parkSeq (s : State) (d : Die) (h : Hk) : (s.setHk d h).parkSeq = s.parkSeq := (rfl)
@[simp] theorem State.setHk_layout (s : State) (d : Die) (h : Hk) : (s.setHk d h).layout = s.layout := (rfl)
@[simp] theorem State.setHk_stk (s : State) (d : Die) (h : Hk) : (s.setHk d h).stk = s.stk := (rfl)
@[simp] theorem State.setHk_basin (s : State) (d : Die) (h : Hk) : (s.setHk d h).basin = s.basin := (rfl)
@[simp] theorem State.setHk_pool (s : State) (d : Die) (h : Hk) : (s.setHk d h).pool = s.pool := (rfl)
@[simp] theorem State.setHk_scrub (s : State) (d : Die) (h : Hk) : (s.setHk d h).scrub = s.scrub := (rfl)
@[simp] theorem State.setHk_sramErrs (s : State) (d : Die) (h : Hk) : (s.setHk d h).sramErrs = s.sramErrs := (rfl)
@[simp] theorem State.setHk_maint (s : State) (d : Die) (h : Hk) : (s.setHk d h).maint = s.maint := (rfl)
@[simp] theorem State.setHk_rvrInit (s : State) (d : Die) (h : Hk) : (s.setHk d h).rvrInit = s.rvrInit := (rfl)
@[simp] theorem State.setHk_rvrNormal (s : State) (d : Die) (h : Hk) : (s.setHk d h).rvrNormal = s.rvrNormal := (rfl)
@[simp] theorem State.setHk_ports (s : State) (d : Die) (h : Hk) : (s.setHk d h).ports = s.ports := (rfl)
@[simp] theorem State.setHk_requests (s : State) (d : Die) (h : Hk) : (s.setHk d h).requests = s.requests := (rfl)
@[simp] theorem State.setHk_reqWait (s : State) (d : Die) (h : Hk) : (s.setHk d h).reqWait = s.reqWait := (rfl)
@[simp] theorem State.setHk_nextReq (s : State) (d : Die) (h : Hk) : (s.setHk d h).nextReq = s.nextReq := (rfl)
@[simp] theorem State.setHk_windows (s : State) (d : Die) (h : Hk) : (s.setHk d h).windows = s.windows := (rfl)
@[simp] theorem State.setHk_transitHalf (s : State) (d : Die) (h : Hk) : (s.setHk d h).transitHalf = s.transitHalf := (rfl)
@[simp] theorem State.setHk_routes (s : State) (d : Die) (h : Hk) : (s.setHk d h).routes = s.routes := (rfl)
@[simp] theorem State.setHk_lossSeen (s : State) (d : Die) (h : Hk) : (s.setHk d h).lossSeen = s.lossSeen := (rfl)
@[simp] theorem State.setHk_lossGrace (s : State) (d : Die) (h : Hk) : (s.setHk d h).lossGrace = s.lossGrace := (rfl)
@[simp] theorem State.setHk_shadow (s : State) (d : Die) (h : Hk) : (s.setHk d h).shadow = s.shadow := (rfl)
@[simp] theorem State.setHk_time (s : State) (d : Die) (h : Hk) : (s.setHk d h).time = s.time := (rfl)
@[simp] theorem State.setHk_quiley (s : State) (d : Die) (h : Hk) : (s.setHk d h).quiley = s.quiley := (rfl)
@[simp] theorem State.setHk_lullFrom (s : State) (d : Die) (h : Hk) : (s.setHk d h).lullFrom = s.lullFrom := (rfl)
@[simp] theorem State.setHk_calmFrom (s : State) (d : Die) (h : Hk) : (s.setHk d h).calmFrom = s.calmFrom := (rfl)
@[simp] theorem State.setHk_bootWaits (s : State) (d : Die) (h : Hk) : (s.setHk d h).bootWaits = s.bootWaits := (rfl)
@[simp] theorem State.setHk_cap (s : State) (d : Die) (h : Hk) : (s.setHk d h).cap = s.cap := (rfl)
@[simp] theorem State.setHk_store (s : State) (d : Die) (h : Hk) : (s.setHk d h).store = s.store := (rfl)
@[simp] theorem State.setHk_monitors (s : State) (d : Die) (h : Hk) : (s.setHk d h).monitors = s.monitors := (rfl)
@[simp] theorem State.setHk_recQueue (s : State) (d : Die) (h : Hk) : (s.setHk d h).recQueue = s.recQueue := (rfl)
@[simp] theorem State.setHk_faultLog (s : State) (d : Die) (h : Hk) : (s.setHk d h).faultLog = s.faultLog := (rfl)
@[simp] theorem State.setHk_logLatch (s : State) (d : Die) (h : Hk) : (s.setHk d h).logLatch = s.logLatch := (rfl)
@[simp] theorem State.setHk_host (s : State) (d : Die) (h : Hk) : (s.setHk d h).host = s.host := (rfl)
@[simp] theorem State.setHk_held (s : State) (d : Die) (h : Hk) : (s.setHk d h).held = s.held := (rfl)
@[simp] theorem State.setHk_out (s : State) (d : Die) (h : Hk) : (s.setHk d h).out = s.out := (rfl)
@[simp] theorem State.setHk_fresh (s : State) (d : Die) (h : Hk) : (s.setHk d h).fresh = s.fresh := (rfl)

/-! setPort -/

@[simp] theorem State.setPort_pending (s : State) (p : Nat) (x : Port) : (s.setPort p x).pending = s.pending := (rfl)
@[simp] theorem State.setPort_fuses (s : State) (p : Nat) (x : Port) : (s.setPort p x).fuses = s.fuses := (rfl)
@[simp] theorem State.setPort_pins (s : State) (p : Nat) (x : Port) : (s.setPort p x).pins = s.pins := (rfl)
@[simp] theorem State.setPort_now (s : State) (p : Nat) (x : Port) : (s.setPort p x).now = s.now := (rfl)
@[simp] theorem State.setPort_issue8 (s : State) (p : Nat) (x : Port) : (s.setPort p x).issue8 = s.issue8 := (rfl)
@[simp] theorem State.setPort_cycle8 (s : State) (p : Nat) (x : Port) : (s.setPort p x).cycle8 = s.cycle8 := (rfl)
@[simp] theorem State.setPort_regs (s : State) (p : Nat) (x : Port) : (s.setPort p x).regs = s.regs := (rfl)
@[simp] theorem State.setPort_snap (s : State) (p : Nat) (x : Port) : (s.setPort p x).snap = s.snap := (rfl)
@[simp] theorem State.setPort_mem (s : State) (p : Nat) (x : Port) : (s.setPort p x).mem = s.mem := (rfl)
@[simp] theorem State.setPort_bus (s : State) (p : Nat) (x : Port) : (s.setPort p x).bus = s.bus := (rfl)
@[simp] theorem State.setPort_units (s : State) (p : Nat) (x : Port) : (s.setPort p x).units = s.units := (rfl)
@[simp] theorem State.setPort_strands (s : State) (p : Nat) (x : Port) : (s.setPort p x).strands = s.strands := (rfl)
@[simp] theorem State.setPort_cores (s : State) (p : Nat) (x : Port) : (s.setPort p x).cores = s.cores := (rfl)
@[simp] theorem State.setPort_roles (s : State) (p : Nat) (x : Port) : (s.setPort p x).roles = s.roles := (rfl)
@[simp] theorem State.setPort_launches (s : State) (p : Nat) (x : Port) : (s.setPort p x).launches = s.launches := (rfl)
@[simp] theorem State.setPort_doomed (s : State) (p : Nat) (x : Port) : (s.setPort p x).doomed = s.doomed := (rfl)
@[simp] theorem State.setPort_mcast (s : State) (p : Nat) (x : Port) : (s.setPort p x).mcast = s.mcast := (rfl)
@[simp] theorem State.setPort_nextMcast (s : State) (p : Nat) (x : Port) : (s.setPort p x).nextMcast = s.nextMcast := (rfl)
@[simp] theorem State.setPort_tlb (s : State) (p : Nat) (x : Port) : (s.setPort p x).tlb = s.tlb := (rfl)
@[simp] theorem State.setPort_inval (s : State) (p : Nat) (x : Port) : (s.setPort p x).inval = s.inval := (rfl)
@[simp] theorem State.setPort_parkSeq (s : State) (p : Nat) (x : Port) : (s.setPort p x).parkSeq = s.parkSeq := (rfl)
@[simp] theorem State.setPort_layout (s : State) (p : Nat) (x : Port) : (s.setPort p x).layout = s.layout := (rfl)
@[simp] theorem State.setPort_stk (s : State) (p : Nat) (x : Port) : (s.setPort p x).stk = s.stk := (rfl)
@[simp] theorem State.setPort_basin (s : State) (p : Nat) (x : Port) : (s.setPort p x).basin = s.basin := (rfl)
@[simp] theorem State.setPort_pool (s : State) (p : Nat) (x : Port) : (s.setPort p x).pool = s.pool := (rfl)
@[simp] theorem State.setPort_scrub (s : State) (p : Nat) (x : Port) : (s.setPort p x).scrub = s.scrub := (rfl)
@[simp] theorem State.setPort_sramErrs (s : State) (p : Nat) (x : Port) : (s.setPort p x).sramErrs = s.sramErrs := (rfl)
@[simp] theorem State.setPort_maint (s : State) (p : Nat) (x : Port) : (s.setPort p x).maint = s.maint := (rfl)
@[simp] theorem State.setPort_rvrInit (s : State) (p : Nat) (x : Port) : (s.setPort p x).rvrInit = s.rvrInit := (rfl)
@[simp] theorem State.setPort_rvrNormal (s : State) (p : Nat) (x : Port) : (s.setPort p x).rvrNormal = s.rvrNormal := (rfl)
@[simp] theorem State.setPort_requests (s : State) (p : Nat) (x : Port) : (s.setPort p x).requests = s.requests := (rfl)
@[simp] theorem State.setPort_reqWait (s : State) (p : Nat) (x : Port) : (s.setPort p x).reqWait = s.reqWait := (rfl)
@[simp] theorem State.setPort_nextReq (s : State) (p : Nat) (x : Port) : (s.setPort p x).nextReq = s.nextReq := (rfl)
@[simp] theorem State.setPort_windows (s : State) (p : Nat) (x : Port) : (s.setPort p x).windows = s.windows := (rfl)
@[simp] theorem State.setPort_transitHalf (s : State) (p : Nat) (x : Port) : (s.setPort p x).transitHalf = s.transitHalf := (rfl)
@[simp] theorem State.setPort_routes (s : State) (p : Nat) (x : Port) : (s.setPort p x).routes = s.routes := (rfl)
@[simp] theorem State.setPort_lossSeen (s : State) (p : Nat) (x : Port) : (s.setPort p x).lossSeen = s.lossSeen := (rfl)
@[simp] theorem State.setPort_lossGrace (s : State) (p : Nat) (x : Port) : (s.setPort p x).lossGrace = s.lossGrace := (rfl)
@[simp] theorem State.setPort_shadow (s : State) (p : Nat) (x : Port) : (s.setPort p x).shadow = s.shadow := (rfl)
@[simp] theorem State.setPort_time (s : State) (p : Nat) (x : Port) : (s.setPort p x).time = s.time := (rfl)
@[simp] theorem State.setPort_quiley (s : State) (p : Nat) (x : Port) : (s.setPort p x).quiley = s.quiley := (rfl)
@[simp] theorem State.setPort_hk (s : State) (p : Nat) (x : Port) : (s.setPort p x).hk = s.hk := (rfl)
@[simp] theorem State.setPort_lullFrom (s : State) (p : Nat) (x : Port) : (s.setPort p x).lullFrom = s.lullFrom := (rfl)
@[simp] theorem State.setPort_calmFrom (s : State) (p : Nat) (x : Port) : (s.setPort p x).calmFrom = s.calmFrom := (rfl)
@[simp] theorem State.setPort_bootWaits (s : State) (p : Nat) (x : Port) : (s.setPort p x).bootWaits = s.bootWaits := (rfl)
@[simp] theorem State.setPort_cap (s : State) (p : Nat) (x : Port) : (s.setPort p x).cap = s.cap := (rfl)
@[simp] theorem State.setPort_store (s : State) (p : Nat) (x : Port) : (s.setPort p x).store = s.store := (rfl)
@[simp] theorem State.setPort_monitors (s : State) (p : Nat) (x : Port) : (s.setPort p x).monitors = s.monitors := (rfl)
@[simp] theorem State.setPort_recQueue (s : State) (p : Nat) (x : Port) : (s.setPort p x).recQueue = s.recQueue := (rfl)
@[simp] theorem State.setPort_faultLog (s : State) (p : Nat) (x : Port) : (s.setPort p x).faultLog = s.faultLog := (rfl)
@[simp] theorem State.setPort_logLatch (s : State) (p : Nat) (x : Port) : (s.setPort p x).logLatch = s.logLatch := (rfl)
@[simp] theorem State.setPort_host (s : State) (p : Nat) (x : Port) : (s.setPort p x).host = s.host := (rfl)
@[simp] theorem State.setPort_held (s : State) (p : Nat) (x : Port) : (s.setPort p x).held = s.held := (rfl)
@[simp] theorem State.setPort_out (s : State) (p : Nat) (x : Port) : (s.setPort p x).out = s.out := (rfl)
@[simp] theorem State.setPort_fresh (s : State) (p : Nat) (x : Port) : (s.setPort p x).fresh = s.fresh := (rfl)

/-! setReq -/

@[simp] theorem State.setReq_pending (s : State) (r : Serve) : (s.setReq r).pending = s.pending := (rfl)
@[simp] theorem State.setReq_fuses (s : State) (r : Serve) : (s.setReq r).fuses = s.fuses := (rfl)
@[simp] theorem State.setReq_pins (s : State) (r : Serve) : (s.setReq r).pins = s.pins := (rfl)
@[simp] theorem State.setReq_now (s : State) (r : Serve) : (s.setReq r).now = s.now := (rfl)
@[simp] theorem State.setReq_issue8 (s : State) (r : Serve) : (s.setReq r).issue8 = s.issue8 := (rfl)
@[simp] theorem State.setReq_cycle8 (s : State) (r : Serve) : (s.setReq r).cycle8 = s.cycle8 := (rfl)
@[simp] theorem State.setReq_regs (s : State) (r : Serve) : (s.setReq r).regs = s.regs := (rfl)
@[simp] theorem State.setReq_snap (s : State) (r : Serve) : (s.setReq r).snap = s.snap := (rfl)
@[simp] theorem State.setReq_mem (s : State) (r : Serve) : (s.setReq r).mem = s.mem := (rfl)
@[simp] theorem State.setReq_bus (s : State) (r : Serve) : (s.setReq r).bus = s.bus := (rfl)
@[simp] theorem State.setReq_units (s : State) (r : Serve) : (s.setReq r).units = s.units := (rfl)
@[simp] theorem State.setReq_strands (s : State) (r : Serve) : (s.setReq r).strands = s.strands := (rfl)
@[simp] theorem State.setReq_cores (s : State) (r : Serve) : (s.setReq r).cores = s.cores := (rfl)
@[simp] theorem State.setReq_roles (s : State) (r : Serve) : (s.setReq r).roles = s.roles := (rfl)
@[simp] theorem State.setReq_launches (s : State) (r : Serve) : (s.setReq r).launches = s.launches := (rfl)
@[simp] theorem State.setReq_doomed (s : State) (r : Serve) : (s.setReq r).doomed = s.doomed := (rfl)
@[simp] theorem State.setReq_mcast (s : State) (r : Serve) : (s.setReq r).mcast = s.mcast := (rfl)
@[simp] theorem State.setReq_nextMcast (s : State) (r : Serve) : (s.setReq r).nextMcast = s.nextMcast := (rfl)
@[simp] theorem State.setReq_tlb (s : State) (r : Serve) : (s.setReq r).tlb = s.tlb := (rfl)
@[simp] theorem State.setReq_inval (s : State) (r : Serve) : (s.setReq r).inval = s.inval := (rfl)
@[simp] theorem State.setReq_parkSeq (s : State) (r : Serve) : (s.setReq r).parkSeq = s.parkSeq := (rfl)
@[simp] theorem State.setReq_layout (s : State) (r : Serve) : (s.setReq r).layout = s.layout := (rfl)
@[simp] theorem State.setReq_stk (s : State) (r : Serve) : (s.setReq r).stk = s.stk := (rfl)
@[simp] theorem State.setReq_basin (s : State) (r : Serve) : (s.setReq r).basin = s.basin := (rfl)
@[simp] theorem State.setReq_pool (s : State) (r : Serve) : (s.setReq r).pool = s.pool := (rfl)
@[simp] theorem State.setReq_scrub (s : State) (r : Serve) : (s.setReq r).scrub = s.scrub := (rfl)
@[simp] theorem State.setReq_sramErrs (s : State) (r : Serve) : (s.setReq r).sramErrs = s.sramErrs := (rfl)
@[simp] theorem State.setReq_maint (s : State) (r : Serve) : (s.setReq r).maint = s.maint := (rfl)
@[simp] theorem State.setReq_rvrInit (s : State) (r : Serve) : (s.setReq r).rvrInit = s.rvrInit := (rfl)
@[simp] theorem State.setReq_rvrNormal (s : State) (r : Serve) : (s.setReq r).rvrNormal = s.rvrNormal := (rfl)
@[simp] theorem State.setReq_ports (s : State) (r : Serve) : (s.setReq r).ports = s.ports := (rfl)
@[simp] theorem State.setReq_requests (s : State) (r : Serve) : (s.setReq r).requests = s.requests := (rfl)
@[simp] theorem State.setReq_reqWait (s : State) (r : Serve) : (s.setReq r).reqWait = s.reqWait := (rfl)
@[simp] theorem State.setReq_nextReq (s : State) (r : Serve) : (s.setReq r).nextReq = s.nextReq := (rfl)
@[simp] theorem State.setReq_windows (s : State) (r : Serve) : (s.setReq r).windows = s.windows := (rfl)
@[simp] theorem State.setReq_transitHalf (s : State) (r : Serve) : (s.setReq r).transitHalf = s.transitHalf := (rfl)
@[simp] theorem State.setReq_routes (s : State) (r : Serve) : (s.setReq r).routes = s.routes := (rfl)
@[simp] theorem State.setReq_lossSeen (s : State) (r : Serve) : (s.setReq r).lossSeen = s.lossSeen := (rfl)
@[simp] theorem State.setReq_lossGrace (s : State) (r : Serve) : (s.setReq r).lossGrace = s.lossGrace := (rfl)
@[simp] theorem State.setReq_shadow (s : State) (r : Serve) : (s.setReq r).shadow = s.shadow := (rfl)
@[simp] theorem State.setReq_time (s : State) (r : Serve) : (s.setReq r).time = s.time := (rfl)
@[simp] theorem State.setReq_hk (s : State) (r : Serve) : (s.setReq r).hk = s.hk := (rfl)
@[simp] theorem State.setReq_lullFrom (s : State) (r : Serve) : (s.setReq r).lullFrom = s.lullFrom := (rfl)
@[simp] theorem State.setReq_calmFrom (s : State) (r : Serve) : (s.setReq r).calmFrom = s.calmFrom := (rfl)
@[simp] theorem State.setReq_bootWaits (s : State) (r : Serve) : (s.setReq r).bootWaits = s.bootWaits := (rfl)
@[simp] theorem State.setReq_cap (s : State) (r : Serve) : (s.setReq r).cap = s.cap := (rfl)
@[simp] theorem State.setReq_store (s : State) (r : Serve) : (s.setReq r).store = s.store := (rfl)
@[simp] theorem State.setReq_monitors (s : State) (r : Serve) : (s.setReq r).monitors = s.monitors := (rfl)
@[simp] theorem State.setReq_recQueue (s : State) (r : Serve) : (s.setReq r).recQueue = s.recQueue := (rfl)
@[simp] theorem State.setReq_faultLog (s : State) (r : Serve) : (s.setReq r).faultLog = s.faultLog := (rfl)
@[simp] theorem State.setReq_logLatch (s : State) (r : Serve) : (s.setReq r).logLatch = s.logLatch := (rfl)
@[simp] theorem State.setReq_host (s : State) (r : Serve) : (s.setReq r).host = s.host := (rfl)
@[simp] theorem State.setReq_held (s : State) (r : Serve) : (s.setReq r).held = s.held := (rfl)
@[simp] theorem State.setReq_out (s : State) (r : Serve) : (s.setReq r).out = s.out := (rfl)
@[simp] theorem State.setReq_fresh (s : State) (r : Serve) : (s.setReq r).fresh = s.fresh := (rfl)

/-! emit -/

@[simp] theorem State.emit_pending (s : State) (o : Out) : (s.emit o).pending = s.pending := (rfl)
@[simp] theorem State.emit_fuses (s : State) (o : Out) : (s.emit o).fuses = s.fuses := (rfl)
@[simp] theorem State.emit_pins (s : State) (o : Out) : (s.emit o).pins = s.pins := (rfl)
@[simp] theorem State.emit_now (s : State) (o : Out) : (s.emit o).now = s.now := (rfl)
@[simp] theorem State.emit_issue8 (s : State) (o : Out) : (s.emit o).issue8 = s.issue8 := (rfl)
@[simp] theorem State.emit_cycle8 (s : State) (o : Out) : (s.emit o).cycle8 = s.cycle8 := (rfl)
@[simp] theorem State.emit_regs (s : State) (o : Out) : (s.emit o).regs = s.regs := (rfl)
@[simp] theorem State.emit_snap (s : State) (o : Out) : (s.emit o).snap = s.snap := (rfl)
@[simp] theorem State.emit_mem (s : State) (o : Out) : (s.emit o).mem = s.mem := (rfl)
@[simp] theorem State.emit_bus (s : State) (o : Out) : (s.emit o).bus = s.bus := (rfl)
@[simp] theorem State.emit_units (s : State) (o : Out) : (s.emit o).units = s.units := (rfl)
@[simp] theorem State.emit_strands (s : State) (o : Out) : (s.emit o).strands = s.strands := (rfl)
@[simp] theorem State.emit_cores (s : State) (o : Out) : (s.emit o).cores = s.cores := (rfl)
@[simp] theorem State.emit_roles (s : State) (o : Out) : (s.emit o).roles = s.roles := (rfl)
@[simp] theorem State.emit_launches (s : State) (o : Out) : (s.emit o).launches = s.launches := (rfl)
@[simp] theorem State.emit_doomed (s : State) (o : Out) : (s.emit o).doomed = s.doomed := (rfl)
@[simp] theorem State.emit_mcast (s : State) (o : Out) : (s.emit o).mcast = s.mcast := (rfl)
@[simp] theorem State.emit_nextMcast (s : State) (o : Out) : (s.emit o).nextMcast = s.nextMcast := (rfl)
@[simp] theorem State.emit_tlb (s : State) (o : Out) : (s.emit o).tlb = s.tlb := (rfl)
@[simp] theorem State.emit_inval (s : State) (o : Out) : (s.emit o).inval = s.inval := (rfl)
@[simp] theorem State.emit_parkSeq (s : State) (o : Out) : (s.emit o).parkSeq = s.parkSeq := (rfl)
@[simp] theorem State.emit_layout (s : State) (o : Out) : (s.emit o).layout = s.layout := (rfl)
@[simp] theorem State.emit_stk (s : State) (o : Out) : (s.emit o).stk = s.stk := (rfl)
@[simp] theorem State.emit_basin (s : State) (o : Out) : (s.emit o).basin = s.basin := (rfl)
@[simp] theorem State.emit_pool (s : State) (o : Out) : (s.emit o).pool = s.pool := (rfl)
@[simp] theorem State.emit_scrub (s : State) (o : Out) : (s.emit o).scrub = s.scrub := (rfl)
@[simp] theorem State.emit_sramErrs (s : State) (o : Out) : (s.emit o).sramErrs = s.sramErrs := (rfl)
@[simp] theorem State.emit_maint (s : State) (o : Out) : (s.emit o).maint = s.maint := (rfl)
@[simp] theorem State.emit_rvrInit (s : State) (o : Out) : (s.emit o).rvrInit = s.rvrInit := (rfl)
@[simp] theorem State.emit_rvrNormal (s : State) (o : Out) : (s.emit o).rvrNormal = s.rvrNormal := (rfl)
@[simp] theorem State.emit_ports (s : State) (o : Out) : (s.emit o).ports = s.ports := (rfl)
@[simp] theorem State.emit_requests (s : State) (o : Out) : (s.emit o).requests = s.requests := (rfl)
@[simp] theorem State.emit_reqWait (s : State) (o : Out) : (s.emit o).reqWait = s.reqWait := (rfl)
@[simp] theorem State.emit_nextReq (s : State) (o : Out) : (s.emit o).nextReq = s.nextReq := (rfl)
@[simp] theorem State.emit_windows (s : State) (o : Out) : (s.emit o).windows = s.windows := (rfl)
@[simp] theorem State.emit_transitHalf (s : State) (o : Out) : (s.emit o).transitHalf = s.transitHalf := (rfl)
@[simp] theorem State.emit_routes (s : State) (o : Out) : (s.emit o).routes = s.routes := (rfl)
@[simp] theorem State.emit_lossSeen (s : State) (o : Out) : (s.emit o).lossSeen = s.lossSeen := (rfl)
@[simp] theorem State.emit_lossGrace (s : State) (o : Out) : (s.emit o).lossGrace = s.lossGrace := (rfl)
@[simp] theorem State.emit_shadow (s : State) (o : Out) : (s.emit o).shadow = s.shadow := (rfl)
@[simp] theorem State.emit_time (s : State) (o : Out) : (s.emit o).time = s.time := (rfl)
@[simp] theorem State.emit_quiley (s : State) (o : Out) : (s.emit o).quiley = s.quiley := (rfl)
@[simp] theorem State.emit_hk (s : State) (o : Out) : (s.emit o).hk = s.hk := (rfl)
@[simp] theorem State.emit_lullFrom (s : State) (o : Out) : (s.emit o).lullFrom = s.lullFrom := (rfl)
@[simp] theorem State.emit_calmFrom (s : State) (o : Out) : (s.emit o).calmFrom = s.calmFrom := (rfl)
@[simp] theorem State.emit_bootWaits (s : State) (o : Out) : (s.emit o).bootWaits = s.bootWaits := (rfl)
@[simp] theorem State.emit_cap (s : State) (o : Out) : (s.emit o).cap = s.cap := (rfl)
@[simp] theorem State.emit_store (s : State) (o : Out) : (s.emit o).store = s.store := (rfl)
@[simp] theorem State.emit_monitors (s : State) (o : Out) : (s.emit o).monitors = s.monitors := (rfl)
@[simp] theorem State.emit_recQueue (s : State) (o : Out) : (s.emit o).recQueue = s.recQueue := (rfl)
@[simp] theorem State.emit_faultLog (s : State) (o : Out) : (s.emit o).faultLog = s.faultLog := (rfl)
@[simp] theorem State.emit_logLatch (s : State) (o : Out) : (s.emit o).logLatch = s.logLatch := (rfl)
@[simp] theorem State.emit_host (s : State) (o : Out) : (s.emit o).host = s.host := (rfl)
@[simp] theorem State.emit_held (s : State) (o : Out) : (s.emit o).held = s.held := (rfl)
@[simp] theorem State.emit_fresh (s : State) (o : Out) : (s.emit o).fresh = s.fresh := (rfl)

end Sys2Proof.Machine
end

