-- ==== Sys2Proof/Laws/Strand.lean ====
section
/-!
SUPPORT. What taking up an instruction does: a stream is given to a strand, and the rest of the state stays.
-/
namespace Sys2Proof.Machine

@[simp] theorem State.strand_setStrand (s : State) (k : Nat) (x : Strand) : (s.setStrand k x).strand k = some x := by
  simp [State.strand, State.setStrand]

theorem State.strand_setStrand_ne (s : State) {k j : Nat} (x : Strand) (h : j ≠ k) : (s.setStrand k x).strand j = s.strand j := by
  simp [State.strand, State.setStrand, mget_mset_ne _ _ _ h]

@[simp] theorem State.strand_setCore (s : State) (d : Die) (n k : Nat) (c : Core) : (s.setCore d n c).strand k = s.strand k := rfl

@[simp] theorem State.core_setCore (s : State) (d : Die) (n : Nat) (c : Core) : (s.setCore d n c).core d n = c := by
  simp [State.core, State.setCore]

theorem State.core_setCore_ne (s : State) {d e : Die} {n m : Nat} (c : Core) (h : coreKey e m ≠ coreKey d n) :
    (s.setCore d n c).core e m = s.core e m := by
  simp [State.core, State.setCore, mget_mset_ne _ _ _ h]

@[simp] theorem State.core_setStrand (s : State) (d : Die) (n k : Nat) (x : Strand) : (s.setStrand k x).core d n = s.core d n := rfl

/-- Giving a strand its status changes nothing but the status and when it last had nothing to wait for. -/
theorem Strand.restat_only (x : Strand) (c : Core) (ctx now : Nat) :
    x.restat c ctx now = { x with stat := (x.restat c ctx now).stat, lastRun := (x.restat c ctx now).lastRun } := by
  unfold Strand.restat
  split <;> rfl

theorem Strand.still_restat (x : Strand) (c : Core) (ctx now : Nat) : (x.restat c ctx now).still = x.still := by
  rw [Strand.restat_only]; rfl

/-- What restatCore can do: strands differ at most in their status and in when they began to wait. -/
theorem State.restatCore_cases (s : State) (d : Die) (core : Nat) :
    s.restatCore d core = { s with strands := (s.restatCore d core).strands } ∧
    ∀ k, ((s.restatCore d core).strand k).map Strand.still = (s.strand k).map Strand.still := by
  unfold State.restatCore
  generalize List.range 8 = l
  generalize s.core d core = c
  suffices h : ∀ (l : List Nat) (t : State), t = { s with strands := t.strands } →
      (∀ k, (t.strand k).map Strand.still = (s.strand k).map Strand.still) →
      (l.foldl (fun (t : State) i => match t.strand (strandKey d core i) with
        | some x => if x.restat c i s.now = x then t else t.setStrand (strandKey d core i) (x.restat c i s.now)
        | none => t) t = { s with strands := (l.foldl (fun (t : State) i => match t.strand (strandKey d core i) with
        | some x => if x.restat c i s.now = x then t else t.setStrand (strandKey d core i) (x.restat c i s.now)
        | none => t) t).strands } ∧
      ∀ k, ((l.foldl (fun (t : State) i => match t.strand (strandKey d core i) with
        | some x => if x.restat c i s.now = x then t else t.setStrand (strandKey d core i) (x.restat c i s.now)
        | none => t) t).strand k).map Strand.still = (s.strand k).map Strand.still) from h l s rfl (fun _ => rfl)
  intro l
  induction l with
  | nil => intro t h1 h2; exact ⟨h1, h2⟩
  | cons a r ih =>
    intro t h1 h2
    simp only [List.foldl_cons]
    apply ih
    · split
      · split
        · exact h1
        · rw [h1]; rfl
      · exact h1
    · intro k
      split
      · rename_i x hx
        split
        · exact h2 k
        · by_cases hk : k = strandKey d core a
          · subst hk
            rw [State.strand_setStrand, Option.map_some, Strand.still_restat, ← h2, hx]; rfl
          · rw [State.strand_setStrand_ne _ _ hk]; exact h2 k
      · exact h2 k

theorem State.strand_restatCore (s : State) (d : Die) (core k : Nat) {x : Strand} (h : s.strand k = some x) :
    ∃ y, (s.restatCore d core).strand k = some y ∧ y = { x with stat := y.stat, lastRun := y.lastRun } := by
  have := (s.restatCore_cases d core).2 k
  rw [h] at this
  cases hy : (s.restatCore d core).strand k with
  | none => rw [hy] at this; cases this
  | some y =>
    rw [hy] at this
    simp only [Option.map_some, Option.some.injEq] at this
    refine ⟨y, rfl, ?_⟩
    obtain ⟨⟩ := y
    obtain ⟨⟩ := x
    simp only [Strand.still, Strand.mk.injEq] at this ⊢
    simp [this]

theorem Core.hold_setHold (c : Core) (str : Stream) (h : Option Nat) (t : Nat) : (c.setHold str h t).hold str = h := by
  cases str <;> rfl

theorem Core.hold_jtagStep (c : Core) (str : Stream) (b : Bool) : ({ c with jtagStep := b } : Core).hold str = c.hold str := by
  cases str <;> rfl

theorem State.core_congr {s t : State} (h : t.cores = s.cores) (d : Die) (n : Nat) : t.core d n = s.core d n := by
  unfold State.core; rw [h]

theorem State.strand_congr {s t : State} (h : t.strands = s.strands) (k : Nat) : t.strand k = s.strand k := by
  unfold State.strand; rw [h]

theorem State.core_restatCore (s : State) (d e : Die) (n m : Nat) : (s.restatCore d n).core e m = s.core e m :=
  State.core_congr (by rw [(s.restatCore_cases d n).1]) e m

theorem Core.hold_taken (c : Core) (str : Stream) (ctx t : Nat) : (c.taken str ctx t).hold str = some ctx := by
  unfold Core.taken
  rw [Core.hold_jtagStep]
  split
  · assumption
  · exact Core.hold_setHold _ _ _ _

theorem State.putCore_only (s : State) (d : Die) (n : Nat) (c : Core) : s.putCore d n c = { s with cores := (s.putCore d n c).cores } := by
  unfold State.putCore; split <;> rfl

@[simp] theorem State.core_putCore (s : State) (d : Die) (n : Nat) (c : Core) : (s.putCore d n c).core d n = c := by
  unfold State.putCore; split
  · rename_i h; exact h.symm
  · simp

theorem State.core_putCore_ne (s : State) {d e : Die} {n m : Nat} (c : Core) (h : coreKey e m ≠ coreKey d n) :
    (s.putCore d n c).core e m = s.core e m := by
  unfold State.putCore; split
  · rfl
  · exact State.core_setCore_ne _ _ h

/-- What taking a stream does. -/
theorem State.takeStream_taken (s : State) (i : Sid) (str : Stream) (x : Strand) :
    ∃ y, Taken s i str x (s.takeStream i str x) y := by
  have hs : s.takeStream i str x = ((s.putCore i.die i.core ((s.core i.die i.core).taken str i.ctx (s.time8 i.die))).setStrand
    i.key (x.takes str)).restatCore i.die i.core := rfl
  generalize hc : (s.core i.die i.core).taken str i.ctx (s.time8 i.die) = c at hs
  have hs1 := s.putCore_only i.die i.core c
  have hr := ((s.putCore i.die i.core c).setStrand i.key (x.takes str)).restatCore_cases i.die i.core
  obtain ⟨y, hy, hy2⟩ := ((s.putCore i.die i.core c).setStrand i.key (x.takes str)).strand_restatCore i.die i.core i.key
    (x := x.takes str) (by simp)
  have hcs : ∀ d n, (s.takeStream i str x).core d n = (s.putCore i.die i.core c).core d n := fun d n => by
    rw [hs, State.core_restatCore, State.core_setStrand]
  refine ⟨y, ?_, hs ▸ hy, hy2, ?_, ?_, ?_, ?_⟩
  · rw [hs]
    generalize ((s.putCore i.die i.core c).setStrand i.key (x.takes str)).restatCore i.die i.core = t at hr
    rw [hr.1]; simp only [State.setStrand]; generalize t.strands = m; rw [hs1]
  · intro k hk
    rw [hs, hr.2 k, State.strand_setStrand_ne _ _ hk, State.strand_congr (s := s) (by rw [hs1])]
  · rw [hcs, State.core_putCore, ← hc]; exact Core.hold_taken _ _ _ _
  · rw [hcs, State.core_putCore, ← hc]
  · intro d n hd
    rw [hcs, State.core_putCore_ne _ _ hd]

theorem Taken.bus {s t : State} {i : Sid} {str : Stream} {x y : Strand} (h : Taken s i str x t y) : t.bus = s.bus := by
  rw [h.rest]
theorem Taken.mem {s t : State} {i : Sid} {str : Stream} {x y : Strand} (h : Taken s i str x t y) : t.mem = s.mem := by
  rw [h.rest]
theorem Taken.pending {s t : State} {i : Sid} {str : Stream} {x y : Strand} (h : Taken s i str x t y) : t.pending = s.pending := by
  rw [h.rest]

theorem Strand.takes_only (x : Strand) (str : Stream) :
    x.takes str = { x with blockA := (x.takes str).blockA, blockE := (x.takes str).blockE, atMark := (x.takes str).atMark } := by
  cases str <;> rfl

theorem Taken.only {s t : State} {i : Sid} {str : Stream} {x y : Strand} (h : Taken s i str x t y) :
    y = { x with stat := y.stat, lastRun := y.lastRun, blockA := y.blockA, blockE := y.blockE, atMark := y.atMark } := by
  rw [h.same, Strand.takes_only]

theorem Taken.sreg {s t : State} {i : Sid} {str : Stream} {x y : Strand} (h : Taken s i str x t y) (a : Stream) (r : BitVec 4) :
    y.sreg a r = x.sreg a r := by
  rw [h.only]; rfl
theorem Taken.dreg {s t : State} {i : Sid} {str : Stream} {x y : Strand} (h : Taken s i str x t y) (a : Stream) (n : Nat) :
    y.dreg a n = x.dreg a n := by
  rw [h.only]; rfl
theorem Taken.isBusy {s t : State} {i : Sid} {str : Stream} {x y : Strand} (h : Taken s i str x t y) (a : Stream) (l : List (BitVec 4)) :
    y.isBusy a l = x.isBusy a l := by
  rw [h.only]; rfl
theorem Taken.spanBusy {s t : State} {i : Sid} {str : Stream} {x y : Strand} (h : Taken s i str x t y) (a : Stream) (p : Int × Int) (b : Bool) :
    y.spanBusy a p b = x.spanBusy a p b := by
  rw [h.only]; rfl
theorem Taken.pc {s t : State} {i : Sid} {str : Stream} {x y : Strand} (h : Taken s i str x t y) (a : Stream) :
    y.pc a = x.pc a := by
  rw [h.only]; cases a <;> rfl
theorem Taken.prog {s t : State} {i : Sid} {str : Stream} {x y : Strand} (h : Taken s i str x t y) (a : Stream) :
    y.prog a = x.prog a := by
  rw [h.only]; cases a <;> rfl
theorem Taken.ended {s t : State} {i : Sid} {str : Stream} {x y : Strand} (h : Taken s i str x t y) (a : Stream) :
    y.ended a = x.ended a := by
  rw [h.only]; cases a <;> rfl
theorem Taken.ctrWait {s t : State} {i : Sid} {str : Stream} {x y : Strand} (h : Taken s i str x t y) (a : Stream) :
    y.ctrWait a = x.ctrWait a := by
  rw [h.only]; cases a <;> rfl
theorem Taken.saved {s t : State} {i : Sid} {str : Stream} {x y : Strand} (h : Taken s i str x t y) (a : Stream) :
    y.saved a = x.saved a := by
  rw [h.only]; cases a <;> rfl
theorem Taken.inflight {s t : State} {i : Sid} {str : Stream} {x y : Strand} (h : Taken s i str x t y) : y.inflight = x.inflight := by
  rw [h.only]
theorem Taken.queues {s t : State} {i : Sid} {str : Stream} {x y : Strand} (h : Taken s i str x t y) : y.queues = x.queues := by
  rw [h.only]
theorem Taken.endA {s t : State} {i : Sid} {str : Stream} {x y : Strand} (h : Taken s i str x t y) : y.endA = x.endA := by
  rw [h.only]
theorem Taken.endE {s t : State} {i : Sid} {str : Stream} {x y : Strand} (h : Taken s i str x t y) : y.endE = x.endE := by
  rw [h.only]
theorem Taken.prio {s t : State} {i : Sid} {str : Stream} {x y : Strand} (h : Taken s i str x t y) : y.prio = x.prio := by
  rw [h.only]
theorem Taken.part {s t : State} {i : Sid} {str : Stream} {x y : Strand} (h : Taken s i str x t y) : y.part = x.part := by
  rw [h.only]
theorem Taken.imageLen {s t : State} {i : Sid} {str : Stream} {x y : Strand} (h : Taken s i str x t y) : y.imageLen = x.imageLen := by
  rw [h.only]
theorem Taken.kernelVa {s t : State} {i : Sid} {str : Stream} {x y : Strand} (h : Taken s i str x t y) : y.kernelVa = x.kernelVa := by
  rw [h.only]
theorem Taken.tiles {s t : State} {i : Sid} {str : Stream} {x y : Strand} (h : Taken s i str x t y) : y.tiles = x.tiles := by
  rw [h.only]
theorem Taken.index {s t : State} {i : Sid} {str : Stream} {x y : Strand} (h : Taken s i str x t y) : y.index = x.index := by
  rw [h.only]
theorem Taken.argVa {s t : State} {i : Sid} {str : Stream} {x y : Strand} (h : Taken s i str x t y) : y.argVa = x.argVa := by
  rw [h.only]
theorem Taken.cycles {s t : State} {i : Sid} {str : Stream} {x y : Strand} (h : Taken s i str x t y) : y.cycles = x.cycles := by
  rw [h.only]
theorem Taken.cycSince {s t : State} {i : Sid} {str : Stream} {x y : Strand} (h : Taken s i str x t y) : y.cycSince = x.cycSince := by
  rw [h.only]
theorem Taken.queueMask {s t : State} {i : Sid} {str : Stream} {x y : Strand} (h : Taken s i str x t y) : y.queueMask = x.queueMask := by
  rw [h.only]
theorem Taken.launch {s t : State} {i : Sid} {str : Stream} {x y : Strand} (h : Taken s i str x t y) : y.launch = x.launch := by
  rw [h.only]
theorem Taken.tag {s t : State} {i : Sid} {str : Stream} {x y : Strand} (h : Taken s i str x t y) : y.tag = x.tag := by
  rw [h.only]
theorem Taken.cmds {s t : State} {i : Sid} {str : Stream} {x y : Strand} (h : Taken s i str x t y) : y.cmds = x.cmds := by
  rw [h.only]
theorem Taken.badCmd {s t : State} {i : Sid} {str : Stream} {x y : Strand} (h : Taken s i str x t y) : y.badCmd = x.badCmd := by
  rw [h.only]
theorem Taken.groups {s t : State} {i : Sid} {str : Stream} {x y : Strand} (h : Taken s i str x t y) : y.groups = x.groups := by
  rw [h.only]
theorem Taken.shadow {s t : State} {i : Sid} {str : Stream} {x y : Strand} (h : Taken s i str x t y) : y.shadow = x.shadow := by
  rw [h.only]
theorem Taken.desc {s t : State} {i : Sid} {str : Stream} {x y : Strand} (h : Taken s i str x t y) : y.desc = x.desc := by
  rw [h.only]
theorem Taken.scal {s t : State} {i : Sid} {str : Stream} {x y : Strand} (h : Taken s i str x t y) : y.scal = x.scal := by
  rw [h.only]
theorem Taken.nextId {s t : State} {i : Sid} {str : Stream} {x y : Strand} (h : Taken s i str x t y) : y.nextId = x.nextId := by
  rw [h.only]
theorem Taken.qmap {s t : State} {i : Sid} {str : Stream} {x y : Strand} (h : Taken s i str x t y) : y.qmap = x.qmap := by
  rw [h.only]
theorem Taken.wdUs {s t : State} {i : Sid} {str : Stream} {x y : Strand} (h : Taken s i str x t y) : y.wdUs = x.wdUs := by
  rw [h.only]
theorem Taken.busy {s t : State} {i : Sid} {str : Stream} {x y : Strand} (h : Taken s i str x t y) : y.busy = x.busy := by
  rw [h.only]
theorem Taken.now {s t : State} {i : Sid} {str : Stream} {x y : Strand} (h : Taken s i str x t y) : t.now = s.now := by
  rw [h.rest]
theorem Taken.issue8 {s t : State} {i : Sid} {str : Stream} {x y : Strand} (h : Taken s i str x t y) : t.issue8 = s.issue8 := by
  rw [h.rest]
theorem Taken.cycle8 {s t : State} {i : Sid} {str : Stream} {x y : Strand} (h : Taken s i str x t y) : t.cycle8 = s.cycle8 := by
  rw [h.rest]
theorem Taken.units {s t : State} {i : Sid} {str : Stream} {x y : Strand} (h : Taken s i str x t y) : t.units = s.units := by
  rw [h.rest]
theorem Taken.regs {s t : State} {i : Sid} {str : Stream} {x y : Strand} (h : Taken s i str x t y) : t.regs = s.regs := by
  rw [h.rest]
theorem Taken.tlb {s t : State} {i : Sid} {str : Stream} {x y : Strand} (h : Taken s i str x t y) : t.tlb = s.tlb := by
  rw [h.rest]
theorem Taken.pins {s t : State} {i : Sid} {str : Stream} {x y : Strand} (h : Taken s i str x t y) : t.pins = s.pins := by
  rw [h.rest]
theorem Taken.fuses {s t : State} {i : Sid} {str : Stream} {x y : Strand} (h : Taken s i str x t y) : t.fuses = s.fuses := by
  rw [h.rest]
theorem Taken.hk {s t : State} {i : Sid} {str : Stream} {x y : Strand} (h : Taken s i str x t y) : t.hk = s.hk := by
  rw [h.rest]
theorem Taken.out {s t : State} {i : Sid} {str : Stream} {x y : Strand} (h : Taken s i str x t y) : t.out = s.out := by
  rw [h.rest]
theorem Taken.stk {s t : State} {i : Sid} {str : Stream} {x y : Strand} (h : Taken s i str x t y) : t.stk = s.stk := by
  rw [h.rest]
theorem Taken.basin {s t : State} {i : Sid} {str : Stream} {x y : Strand} (h : Taken s i str x t y) : t.basin = s.basin := by
  rw [h.rest]
theorem Taken.pool {s t : State} {i : Sid} {str : Stream} {x y : Strand} (h : Taken s i str x t y) : t.pool = s.pool := by
  rw [h.rest]
theorem Taken.quiley {s t : State} {i : Sid} {str : Stream} {x y : Strand} (h : Taken s i str x t y) : t.quiley = s.quiley := by
  rw [h.rest]
theorem Taken.requests {s t : State} {i : Sid} {str : Stream} {x y : Strand} (h : Taken s i str x t y) : t.requests = s.requests := by
  rw [h.rest]
theorem Taken.launches {s t : State} {i : Sid} {str : Stream} {x y : Strand} (h : Taken s i str x t y) : t.launches = s.launches := by
  rw [h.rest]
theorem Taken.ports {s t : State} {i : Sid} {str : Stream} {x y : Strand} (h : Taken s i str x t y) : t.ports = s.ports := by
  rw [h.rest]
theorem Taken.fresh {s t : State} {i : Sid} {str : Stream} {x y : Strand} (h : Taken s i str x t y) : t.fresh = s.fresh := by
  rw [h.rest]
theorem Taken.layout {s t : State} {i : Sid} {str : Stream} {x y : Strand} (h : Taken s i str x t y) : t.layout = s.layout := by
  rw [h.rest]
theorem Taken.mcast {s t : State} {i : Sid} {str : Stream} {x y : Strand} (h : Taken s i str x t y) : t.mcast = s.mcast := by
  rw [h.rest]

theorem State.imageOf_takeStream (s : State) (i : Sid) (str : Stream) (x z : Strand) :
    (s.takeStream i str x).imageOf i z = s.imageOf i z := by
  obtain ⟨y, h⟩ := s.takeStream_taken i str x
  unfold State.imageOf
  rw [h.core]
  have : ((s.core i.die i.core).taken str i.ctx (s.time8 i.die)).images = (s.core i.die i.core).images := by
    unfold Core.taken; split <;> cases str <;> rfl
  rw [this]

theorem State.fetchBad_takeStream (s : State) (i : Sid) (str : Stream) (x z : Strand) :
    (s.takeStream i str x).fetchBad i str z = s.fetchBad i str z := by
  unfold State.fetchBad; rw [State.imageOf_takeStream]

/-- An instruction that issues: its body runs on the state with the stream taken. -/
theorem issue_body {s : State} {i : Sid} {str : Stream} {x : Strand} (h : Issues s i str x) (own : Option Stream)
    (ho : own = none ∨ own = some str) (body : Strand → State → State) :
    ∃ y, Taken s i str x (s.takeStream i str x) y ∧ issue i str own body s = body y (s.takeStream i str x) := by
  obtain ⟨y, hy⟩ := s.takeStream_taken i str x
  refine ⟨y, hy, ?_⟩
  unfold issue
  rw [h.2.1]
  simp only [h.2.2.1, Bool.not_true, Bool.false_eq_true, if_false]
  rw [State.fetchBad_takeStream, h.2.2.2]
  obtain rfl | rfl := ho <;> simp [hy.here]

/-- A meaning that makes no write and leaves the queue. -/
theorem commit_quiet {s t : State} (hb : t.bus = []) (hm : t.mem = s.mem) (hp : t.pending = s.pending) : commit s t = .next t := by
  rw [commit_eq, hb]
  obtain ⟨⟩ := t
  simp only at hb hm hp
  subst hb hm hp
  rfl

/-- The strand's registers written and the pc moved after the stream was taken. -/
theorem commit_taken {s t : State} {i : Sid} {str : Stream} {x y : Strand} (hb : s.bus = []) (h : Taken s i str x t y) (k : Nat) (z : Strand) :
    commit s (t.setStrand k z) = .next (t.setStrand k z) :=
  commit_quiet (by rw [show (t.setStrand k z).bus = t.bus from rfl, h.bus, hb]) h.mem h.pending

end Sys2Proof.Machine
end

