-- ==== Sys2Proof/Laws/Issue.lean ====
section
/-!
SUPPORT. What issuing an instruction, loading, storing and waiting can do, for the statements about a strand.
-/

namespace Sys2Proof.Machine

/-- Registers free of a load in flight are free in any part of the list. -/
theorem isBusy_sub {x : Strand} {str : Stream} {l m : List (BitVec 4)} (h : x.isBusy str l = false) (hm : ∀ r ∈ m, r ∈ l) : x.isBusy str m = false := by
  simp only [Strand.isBusy, List.any_eq_false] at h ⊢
  exact fun r hr => h r (hm r hr)

/-- A scalar operation that its strand issues writes its destination and advances (R84). -/
theorem scalarOp_commits {s t : State} {i : Sid} {str : Stream} {x y : Strand} (hi : Issues s i str x) (ht : Taken s i str x t y) (hte : t = s.takeStream i str x)
   (rs : List (BitVec 4)) (rd : BitVec 4) (v : Strand → State → Word) (hb : x.isBusy str (rd :: rs) = false) :
   commit s (scalarOp i str rs rd v s) = .next (t.setStrand i.key ((y.setSreg str rd (v y t)).advance str)) := by
  obtain ⟨y', hy', e⟩ := issue_body hi none (.inl rfl) (fun x t =>
    if x.isBusy str (rd :: rs) then t.waitOn i str .other
    else t.commitStrand i str (x.setSreg str rd (v x t)))
  have : y' = y := by have := hy'.here; rw [← hte, ht.here] at this; exact (Option.some.inj this).symm
  subst this; subst hte
  unfold scalarOp
  rw [e, hy'.isBusy, hb]
  exact commit_taken hi.1 hy' _ _

/-- An instruction that its strand issues runs its body on the strand as it stands on the unit. -/
theorem issue_at {s : State} {i : Sid} {str : Stream} {x y : Strand} (hi : Issues s i str x) (ht : Taken s i str x (s.takeStream i str x) y) (own : Option Stream) (ho : own = none ∨ own = some str) (body : Strand → State → State) :
   issue i str own body s = body y (s.takeStream i str x) := by
  obtain ⟨y', hy', e⟩ := issue_body hi own ho body
  have : y' = y := by have := hy'.here; rw [ht.here] at this; exact (Option.some.inj this).symm
  subst this; exact e

/-- A strand that issues stands on its unit in some state. -/
theorem taken_ex {s : State} {i : Sid} {str : Stream} {x : Strand} (_hi : Issues s i str x) : ∃ t y, Taken s i str x t y ∧ t = s.takeStream i str x := by
  obtain ⟨y, h⟩ := s.takeStream_taken i str x; exact ⟨_, y, h, rfl⟩

/-- A descriptor register reads the same on the unit. -/
theorem Taken.descAt {s t : State} {i : Sid} {str : Stream} {x y : Strand} (h : Taken s i str x t y) (a : Stream) (k : Nat) :
    y.descAt a (.desc k) = some (descOf (x.dreg a k)) := by rw [h.only]; rfl

/-- A queue selector names no descriptor register. -/
theorem Taken.descQ {s t : State} {i : Sid} {str : Stream} {x y : Strand} (_h : Taken s i str x t y) (a : Stream) (k : Nat) :
    y.descAt a (.queue k) = none := rfl

/-- Without a halt in the list there is no first halt. -/
theorem firstHalt_none {l : List (Option Nat)} (h : ∀ o ∈ l, o = none) : firstHalt l = none := by
  unfold firstHalt
  have : l.find? (·.isSome) = none := by
    rw [List.find?_eq_none]; intro o ho; rw [h o ho]; simp
  rw [this]; rfl

/-- What nothing in a list satisfies is not found. -/
theorem find_none {α} {l : List α} {p : α → Bool} (h : ∀ a ∈ l, p a = false) : l.find? p = none := by
  rw [List.find?_eq_none]; intro a ha; simp [h a ha]

/-- Giving up the units changes no strand. -/
theorem State.dropHolds_strand (v : State) (i : Sid) (k : Nat) : (v.dropHolds i).strand k = v.strand k := by
  rfl

/-- Giving up the units parks nothing. -/
theorem State.dropHolds_parkSeq (v : State) (i : Sid) : (v.dropHolds i).parkSeq = v.parkSeq := by
  rfl

/-- A register write in a domain that runs is made at once (R34). -/
theorem crossed_awake {who : Who} {off n : Nat} {v : Word} {k : State → Written} {s : State} (h : s.regSleeps off = none) :
    crossed who off n v k s = (k s).1 := by unfold crossed; rw [h]

/-- A register write in a stopped domain wakes it and is held (R34, R395). -/
theorem crossed_asleep {who : Who} {off n : Nat} {v : Word} {k : State → Written} {s : State} {d : Die} (h : s.regSleeps off = some d) :
    crossed who off n v k s = { s.wakeDie d with held := s.held ++ [.regWrite who off n v] } := by unfold crossed; rw [h]

/-- A write of a die's core registers is made at once where none of them sleeps. -/
theorem crossedCores_awake {who : Who} {off v : Nat} {k : State → Written} {s : State} (h : s.regSleeps off = none) :
    crossedCores who off v k s = (k s).1 := by unfold crossedCores; rw [h]

/-- A packet in its order is taken in (R296). -/
theorem takeFrame_in {p : Nat} {l : Link} {u : Nat} {k : State → State} {s : State} (hp : p < 24) (hl : s.portLive p = true)
    (ho : s.inOrder p l = true) : takeFrame p l u k s = k (s.received p l u) := by
  unfold takeFrame; rw [if_neg (by rw [hl]; simp; omega), if_pos ho]

/-- A packet out of its order is not taken, and a replay is asked for (R296). -/
theorem takeFrame_out {p : Nat} {l : Link} {u : Nat} {k : State → State} {s : State} (hp : p < 24) (hl : s.portLive p = true)
    (ho : s.inOrder p l = false) : takeFrame p l u k s = s.wantReplay p := by
  unfold takeFrame; rw [if_neg (by rw [hl]; simp; omega), if_neg (by rw [ho]; simp)]

/-- A branch condition holds exactly where its test does (R84). -/
theorem cond_some (c : Nat) (a b : Word) (h : Prop) (hc : (c, h) ∈ [(0, True), (1, a = b), (2, a ≠ b),
          (3, a.toInt < b.toInt), (4, b.toInt ≤ a.toInt), (5, a.toNat < b.toNat), (6, b.toNat ≤ a.toNat)]) :
    ∃ r, condHolds c a b = some r ∧ (r = true ↔ h) := by
  simp only [List.mem_cons, Prod.mk.injEq, List.not_mem_nil, or_false] at hc
  rcases hc with ⟨rfl, rfl⟩ | ⟨rfl, rfl⟩ | ⟨rfl, rfl⟩ | ⟨rfl, rfl⟩ | ⟨rfl, rfl⟩ | ⟨rfl, rfl⟩ | ⟨rfl, rfl⟩ <;>
    refine ⟨_, rfl, ?_⟩ <;> simp [BitVec.slt, BitVec.ult]

/-- Equal memory and bus load equally. -/
theorem load_congr {s t : State} (hm : t.mem = s.mem) (hb : t.bus = s.bus) (a n : Nat) : t.load a n = s.load a n := by
  unfold State.load State.bytes State.byte; rw [hm, hb]

/-- An address past the last byte of the scratchpads lies in no memory with units of its own. -/
theorem locOf_high (b : Nat) (h0 : 0x28000000000 ≤ b) : (∀ x y, locOf b ≠ .stack x y) ∧ ∀ x y, locOf b ≠ .rvr x y := by
  unfold locOf
  rw [if_neg (by omega), if_neg (by omega)]
  split
  · exact ⟨nofun, nofun⟩
  · split
    · exact ⟨nofun, nofun⟩
    · split
      · exact ⟨nofun, nofun⟩
      · split
        · exact ⟨nofun, nofun⟩
        · split
          · exact ⟨nofun, nofun⟩
          · split <;> exact ⟨nofun, nofun⟩

/-- Scratchpads lie above every stack and Reservoir. -/
theorem spad_high (d : Die) (c a : Nat) : 0x30000000000 ≤ spadBase d c + a := by
  have : spadBase d c = 0x30000000000 + d.idx * 0x20000000 + c * 0x400000 := (rfl)
  omega

/-- A read above the Reservoir counts nothing there. -/
theorem countRvr_high (s : State) (b n : Nat) (w : Bool) (h0 : 0x28000000000 ≤ b) : s.countRvr b w n = s := by
  have h := (locOf_high b h0).2
  unfold State.countRvr
  generalize locOf b = l at h ⊢
  cases l <;> first | rfl | exact absurd rfl (h _ _)

/-- A request for maintenance changes no memory, bus or strand. -/
theorem askMaint_keeps (s : State) (a : Activity) : (s.askMaint a).mem = s.mem ∧ (s.askMaint a).bus = s.bus := by
  unfold State.askMaint; split <;> exact ⟨rfl, rfl⟩

/-- A count against a scratchpad bank changes no memory, bus or strand. -/
theorem noteBank_keeps (s : State) (d : Die) (c o : Nat) (u : Bool) : (s.noteBank d c o u).mem = s.mem ∧ (s.noteBank d c o u).bus = s.bus := by
  unfold State.noteBank
  extract_lets key bank keep met s1
  have h1 : s1.mem = s.mem ∧ s1.bus = s.bus := ⟨rfl, rfl⟩
  clear_value s1 met
  split
  · split
    · exact ⟨(askMaint_keeps _ _).1.trans h1.1, (askMaint_keeps _ _).2.trans h1.2⟩
    · exact h1
  · exact h1

/-- An error found above the stacks changes no memory, bus or strand. -/
theorem noteError_high (s : State) (b : Nat) (u : Bool) (h0 : 0x28000000000 ≤ b) : (s.noteError b u).mem = s.mem ∧ (s.noteError b u).bus = s.bus := by
  have h := locOf_high b h0
  unfold State.noteError
  split
  · rename_i h1; exact absurd h1 (h.1 _ _)
  · rename_i h1; exact absurd h1 (h.2 _ _)
  · exact noteBank_keeps _ _ _ _ _
  · exact ⟨rfl, rfl⟩

/-- A demand's find of an error in a scratchpad changes no memory, bus or strand. -/
theorem touch_high (k : Nat) (p : Option Nat) : ∀ (l : List (Nat × UnitState)) (t : State), (∀ e ∈ l, e.2.bad = false ∧ 0x28000000000 ≤ e.1) →
      (l.foldl (State.touchUnit k p) t).mem = t.mem ∧ (l.foldl (State.touchUnit k p) t).bus = t.bus := by
  intro l
  induction l with
  | nil => intro t _; exact ⟨rfl, rfl⟩
  | cons e r ih =>
    intro t hl
    have he := hl e (by simp)
    have hd : isDram e.1 = false := by unfold isDram; simp only [decide_eq_false_iff_not]; omega
    have h1 := ih (State.touchUnit k p t e) (fun x hx => hl x (by simp [hx]))
    have h2 : (State.touchUnit k p t e).mem = t.mem ∧ (State.touchUnit k p t e).bus = t.bus := by
      simp only [State.touchUnit, he.1, hd, Bool.false_eq_true, if_false]
      split
      · exact ⟨rfl, rfl⟩
      · exact noteError_high _ _ _ he.2
    exact ⟨h1.1.trans h2.1, h1.2.trans h2.2⟩

/-- A demand of scratchpad bytes changes no memory, bus or strand. -/
theorem demand_high (s : State) (k : Nat) (p : Option Nat) (b n : Nat) (hb : 0x30000000000 ≤ b) (h : s.firstBad b n = none) :
    (s.demand k p b n).2 = none ∧ ∀ c m, (s.demand k p b n).1.load c m = s.load c m := by
  have hc : s.countRvr b false n = s := countRvr_high s b n false (by omega)
  have h0 : ∀ e ∈ s.badUnits b n, e.2.bad = false ∧ 0x28000000000 ≤ e.1 := by
    intro e he
    unfold State.firstBad at h
    simp only [Option.map_eq_none_iff, List.find?_eq_none] at h
    refine ⟨by simpa using h e he, ?_⟩
    have hm := (List.mem_filter.1 he).2
    simp only [Bool.and_eq_true, decide_eq_true_eq] at hm
    have : unitSize e.1 ≤ 64 := by unfold unitSize; split; omega; split <;> omega
    omega
  have := fun (q : Nat × UnitState → Bool) => touch_high k p ((s.badUnits b n).filter q) s (fun e he => h0 e (List.mem_filter.1 he).1)
  unfold State.demand
  rw [h, hc]
  exact ⟨rfl, fun c m => load_congr (this _).1 (this _).2 _ _⟩

/-- A read of a strand's own scratchpad gives its bytes where none is bad (R84). -/
theorem spadRead_ok {i : Sid} {n a : Nat} {k x} {s : State} (h : s.firstBad (spadBase i.die i.core + a) n = none) :
    spadRead i n a k x s = k (s.load (spadBase i.die i.core + a) n) x (s.demand 1 (some x.part) (spadBase i.die i.core + a) n).1 := by
  have := demand_high s 1 (some x.part) (spadBase i.die i.core + a) n (spad_high _ _ _) h
  unfold spadRead
  dsimp only
  generalize s.demand 1 (some x.part) (spadBase i.die i.core + a) n = q at this ⊢
  obtain ⟨t, o⟩ := q
  have ho : o = none := this.1
  subst ho
  dsimp only
  rw [this.2]

/-- The effective address of a strand there (R84). -/
theorem effAddr_eq {s : State} {i : Sid} {str : Stream} {x : Strand} (f : SF) (h : s.strand i.key = some x) : s.effAddr i str f = (x.sreg str f.rs1 + f.imm).toNat := by
  unfold State.effAddr; rw [h]

/-- Equal check units give equal first errors. -/
theorem firstBad_congr {s t : State} (h : t.units = s.units) (a n : Nat) : t.firstBad a n = s.firstBad a n := by
  unfold State.firstBad State.badUnits; rw [h]

/-- The image of a strand depends on its partition and kernel address. -/
theorem imageOf_part (t : State) (i : Sid) {x y : Strand} (h1 : y.part = x.part) (h2 : y.kernelVa = x.kernelVa) : t.imageOf i y = t.imageOf i x := by
  unfold State.imageOf; rw [h1, h2]

/-- Equal check units give equal errors. -/
theorem badUnits_congr {s t : State} (h : t.units = s.units) (a n : Nat) : t.badUnits a n = s.badUnits a n := by
  unfold State.badUnits; rw [h]

/-- Counting Reservoir traffic changes no unit. -/
theorem countRvr_units (s : State) (a n : Nat) (w : Bool) : (s.countRvr a w n).units = s.units := by
  unfold State.countRvr; split <;> simp

/-- Counting Reservoir traffic changes no byte. -/
theorem countRvr_load (s : State) (a n b m : Nat) (w : Bool) : (s.countRvr a w n).load b m = s.load b m := by
  apply load_congr <;> (unfold State.countRvr; split <;> simp)

/-- Counting Reservoir traffic changes no time of a strand. -/
theorem countRvr_issue8 (s : State) (a n : Nat) (w : Bool) : (s.countRvr a w n).issue8 = s.issue8 := by
  unfold State.countRvr; split <;> simp

/-- A demand of good bytes changes nothing. -/
theorem demand_sound (s : State) (k : Nat) (p : Option Nat) (a n : Nat) (h : s.badUnits a n = []) : s.demand k p a n = (s.countRvr a false n, none) := by
  have h' : (s.countRvr a false n).badUnits a n = [] := (badUnits_congr (countRvr_units s a n false) a n).trans h
  unfold State.demand State.firstBad; rw [h]; rfl

/-- A counter at its target meets the wait (R96). -/
theorem evalWait_reached {s : State} {i : Sid} {x : Strand} {w : CtrWait} (hb : x.waitBehind .access w = false) (hl : s.lostAt w.pa = false) (h : s.badUnits w.pa 8 = []) (ht : w.target.toNat ≤ (w64 (s.load w.pa 8)).toNat) :
   evalWait i .access w x s = (((s.countRvr w.pa false 8).setStrand i.key
            ((((x.setCtrWait .access none).setSaved .access none).setSreg .access (BitVec.ofNat 4 w.rd) (w64 (s.load w.pa 8))).advance .access)).restatCore
            i.die i.core) := by
  unfold evalWait; rw [hb, hl, demand_sound _ _ _ _ _ h]; simp only [countRvr_load, ht, if_true, Bool.false_eq_true, if_false]; rfl

/-- A load to a scratchpad destination is in flight, or halts where its place is bad. -/
theorem startLoad_pad {i : Sid} {kind : MemKind} {k n : Nat} {rows nrows extra} {x : Strand} {s u : State} {runs d}
    (hpl : s.placeRuns i x.part .r (descOf (x.dreg .access n)).width rows = (u, .inr runs)) (hun : u.unmapped x.part runs = none)
    (hd : x.descAt .access (.desc k) = some d) (_hk : kind = .ld ∧ extra = [] ∨ kind = .gather)
    (hsp : (extra.map (fun e => (e.1, e.2, false)) ++ [(d.span.1, d.span.2, true)]).any (fun e => x.spanBusy .access (e.1, e.2.1) e.2.2) = false)
    (hr : u.memRoom i x { Inflight.fresh kind runs false (.spad (padRuns i d) (descOf (x.dreg .access n)).width) with
      spans := extra.map (fun e => (e.1, e.2, false)) ++ [(d.span.1, d.span.2, true)], value := if kind = .gather then w64 nrows else 0 } = true) :
    startLoad i kind (.desc k) n rows nrows extra none x s = u.beginMem i x { Inflight.fresh kind runs false (.spad (padRuns i d) (descOf (x.dreg .access n)).width) with
      spans := extra.map (fun e => (e.1, e.2, false)) ++ [(d.span.1, d.span.2, true)], value := if kind = .gather then w64 nrows else 0 } false := by
  unfold startLoad
  dsimp only
  rw [hpl]; dsimp only; rw [hun]; dsimp only
  rw [hd]; dsimp only
  rw [if_neg (by rw [hsp, hr]; simp), if_neg (by simp)]

/-- A load to a queue is in flight. -/
theorem startLoad_queue {i : Sid} {kind : MemKind} {q n : Nat} {rows nrows extra} {x : Strand} {s u : State} {runs}
    (hpl : s.placeRuns i x.part .r (descOf (x.dreg .access n)).width rows = (u, .inr runs)) (hun : u.unmapped x.part runs = none)
    (hq : (x.queue q).length < 32)
    (hsp : (extra.map (fun e => (e.1, e.2, false))).any (fun e => x.spanBusy .access (e.1, e.2.1) e.2.2) = false)
    (hr : u.memRoom i x { Inflight.fresh kind runs false (.queue q (descOf (x.dreg .access n)).width) with
      spans := extra.map (fun e => (e.1, e.2, false)), value := if kind = .gather then w64 nrows else 0 } = true) :
    startLoad i kind (.queue q) n rows nrows extra none x s = u.beginMem i x { Inflight.fresh kind runs false (.queue q (descOf (x.dreg .access n)).width) with
      spans := extra.map (fun e => (e.1, e.2, false)), value := if kind = .gather then w64 nrows else 0 } true := by
  unfold startLoad
  dsimp only
  rw [hpl]; dsimp only; rw [hun]; dsimp only
  have hd : x.descAt .access (.queue q) = none := rfl
  rw [hd]; dsimp only
  rw [List.append_nil, if_neg (by rw [hsp, hr]; simp), if_neg (by simp; omega)]

/-- A list of absent values has no first value. -/
theorem head?_none {l : List (Option (Nat × Option Nat))} (h : ∀ o ∈ l, o = none) : (l.filterMap id).head? = none := by
  have : l.filterMap id = [] := by rw [List.filterMap_eq_nil_iff]; exact fun a ha => h a ha
  rw [this]; rfl

/-- A word access whose address is no multiple of 8 halts with reason 0x0B (R88). -/
theorem word_halt (kind : MemKind) {s : State} {i : Sid} {f : SF} {rs} {y : Strand} {va : Nat} (hb : y.isBusy .access (f.rd :: f.rs1 :: rs) = false)
    (hva : (y.sreg .access f.rs1 + f.imm).toNat = va) (h8 : va % 8 ≠ 0) : wordBody i kind f rs y s = s.haltStrand i 0x0B va := by
  unfold wordBody; extract_lets v
  have hv : v = va := hva
  clear_value v; subst hv
  rw [if_neg (by rw [hb]; simp), if_pos h8]

/-- A word access begins where nothing is bad. -/
theorem word_ok (kind : MemKind) {s u : State} {i : Sid} {f : SF} {rs} {runs} {y : Strand} {va : Nat} (hb : y.isBusy .access (f.rd :: f.rs1 :: rs) = false)
    (hva : (y.sreg .access f.rs1 + f.imm).toNat = va) (h8 : va % 8 = 0) (hpl : s.placeWord i y.part va kind = (u, .inr runs))
    (hun : u.unmapped y.part runs = none) (hroom : u.memRoom i y (wordFlight kind runs f (y.sreg .access f.rs2)) = true) :
    wordBody i kind f rs y s = u.beginMem i (y.awaits f.rd) (wordFlight kind runs f (y.sreg .access f.rs2)) false := by
  subst hva; simp only [wordBody, hb, Bool.false_eq_true, if_false, ne_eq, h8, not_true_eq_false, hpl, hun, hroom, Bool.not_true]

/-- Putting the only access in flight back changes nothing. -/
theorem setInflight_self {x : Strand} {m : Inflight} (h : x.inflight = [m]) : x.setInflight m = x := by
  unfold Strand.setInflight; rw [h]; simp only [List.map_cons, List.map_nil, if_true]; rw [← h]

/-- The only access in flight stands behind none. -/
theorem behind_single {x : Strand} {m : Inflight} (h : x.inflight = [m]) : x.behind m = false := by
  unfold Strand.behind; rw [h]; simp

end Sys2Proof.Machine
end

