-- ==== Sys2Proof/Laws/Tensor.lean ====
section
/-!
SUPPORT. What a tensor instruction can do.
-/

namespace Sys2Proof.Machine

/-- Reading sources that are no queues does not depend on what the queues hold. -/
theorem readSrcs_popped (i : Sid) (y : Strand) (p q : Nat → List Byte) (l : List Opd) : ∀ j (s : State),
    (∀ o ∈ l, ∃ n, o.sel = .desc n) → readSrcs i y .execute p j l s = readSrcs i y .execute q j l s := by
  induction l with
  | nil => intro j s _; rfl
  | cons o r ih =>
    intro j s h
    obtain ⟨n, hn⟩ := h o (by simp)
    unfold readSrcs
    rw [hn]
    have : y.descAt .execute (.desc n) = some (descOf (y.dreg .execute n)) := rfl
    rw [this]; dsimp only
    split
    · rfl
    · rw [ih _ _ (fun o ho => h o (by simp [ho]))]

/-- Without queue sources nothing is needed of a queue. -/
theorem queueNeeds_none (l : List Opd) : ∀ j, (∀ o ∈ l, ∃ n, o.sel = .desc n) → queueNeeds j l = [] := by
  induction l with
  | nil => intro j _; rfl
  | cons o r ih =>
    intro j h
    obtain ⟨n, hn⟩ := h o (by simp)
    unfold queueNeeds; rw [hn]; exact ih _ (fun o ho => h o (by simp [ho]))

/-- Results to descriptors find room. -/
theorem placeDsts_none (i : Sid) (y : Strand) (l : List Opd) : ∀ (v : List (List Nat)) (s : State), (∀ o ∈ l, ∃ n, o.sel = .desc n) → (placeDsts i y .execute l v s).2 = [] := by
  induction l with
  | nil => intro v s _; cases v <;> rfl
  | cons o r ih =>
    intro v s h
    cases v with
    | nil => rfl
    | cons a b =>
      obtain ⟨n, hn⟩ := h o (by simp)
      unfold placeDsts; rw [hn]
      have : y.descAt .execute (.desc n) = some (descOf (y.dreg .execute n)) := rfl
      rw [this]; exact ih _ _ (fun o ho => h o (by simp [ho]))

/-- A plan whose operands stand in the scratchpad runs and places its results. -/
theorem runPlan_place (i : Sid) (p : Plan) (y : Strand) (s : State) (hp : y.prog .execute = none) (hs : spanHalt y .execute p = none)
    (hd : ∀ o ∈ p.srcs ++ p.dsts, ∃ n, o.sel = .desc n) (u : State) (l : List (List Nat))
    (hr : readSrcs i y .execute (fun _ => []) 0 p.srcs (s.setStrand i.key y) = (u, none, l)) (t : State) (z : Strand)
    (ht : t = (placeDsts i y .execute p.dsts (p.compute l u).1 (p.compute l u).2).1) (hz : t.strand i.key = some z) :
    runPlan i .execute p y s = t.setStrand i.key (z.advance .execute) := by
  have hsrc : ∀ o ∈ p.srcs, ∃ n, o.sel = .desc n := fun o ho => hd o (by simp [ho])
  have hdst : ∀ o ∈ p.dsts, ∃ n, o.sel = .desc n := fun o ho => hd o (by simp [ho])
  unfold runPlan
  rw [hs]; dsimp only
  rw [List.filterMap_eq_nil_iff.2 (by intro o ho; obtain ⟨n, hn⟩ := hdst o ho; rw [hn]), queueNeeds_none _ _ hsrc]
  unfold queueRun
  simp only [hp, Option.isSome_none, Option.getD_none, List.isEmpty_nil, if_true, List.head?_nil, Bool.or_true, Bool.not_true, Bool.false_eq_true, if_false, popNeeds, List.find?_nil]
  unfold Plan.make
  rw [readSrcs_popped i y _ (fun _ => []) _ _ _ hsrc, hr]
  simp only [Option.isNone_none, List.isEmpty_nil, Bool.and_self, if_true, List.nil_append]
  rw [placeDsts_none _ _ _ _ _ hdst, ← ht, hz]; rfl

/-- An instruction of the other stream halts its strand with reason 0x01 (R82). -/
theorem issue_wrong {s : State} {i : Sid} {str o : Stream} {x : Strand} (h : Issues s i str x) (ho : o ≠ str) (body : Strand → State → State) :
    issue i str (some o) body s = (s.takeStream i str x).halt i str 0x01 := by
  unfold issue
  rw [h.2.1]
  simp only [h.2.2.1, Bool.not_true, Bool.false_eq_true, if_false]
  rw [State.fetchBad_takeStream, h.2.2.2]
  simp [ho]

end Sys2Proof.Machine
end

