-- ==== Sys2Proof/Laws/Array.lean ====
section
/-!
SUPPORT. What operands named by descriptors deliver, and what an array instruction can do.
-/

namespace Sys2Proof.Machine

/-- No term of a span's low end is above 0. -/
theorem low_le (i a : Nat) (u : Int) (h : i < a) : Min.min (((a : Int) - 1) * u) 0 ≤ (i : Int) * u := by
  rcases Int.le_total 0 u with hu | hu
  · exact le_trans (min_le_right _ _) (by positivity)
  · refine le_trans (min_le_left _ _) ?_
    have : (i : Int) ≤ (a : Int) - 1 := by omega
    exact mul_le_mul_of_nonpos_right this hu

/-- An index vector of a size and the rest. -/
theorem mem_indices_cons {n : Nat} {r ix : List Nat} (h : ix ∈ indices (n :: r)) : ∃ i t, i < n ∧ t ∈ indices r ∧ ix = i :: t := by
  unfold indices at h
  simp only [List.mem_flatMap, List.mem_map, List.mem_range] at h
  obtain ⟨t, ht, i, hi, rfl⟩ := h
  exact ⟨i, t, hi, ht, rfl⟩

/-- Every piece of an operand begins at its span's low end or above it (R78). -/
theorem piece_low (w : DescWord) (p : Int × Nat) (hp : p ∈ (descOf w).pieces) : (descOf w).extent.1 ≤ p.1 := by
  obtain ⟨a, b, c, e, hs⟩ : ∃ a b c e, (descOf w).sizes = [a, b, c, e] := ⟨_, _, _, _, rfl⟩
  obtain ⟨u, v, x, y, ht⟩ : ∃ u v x y, (descOf w).strides = [u, v, x, y] := ⟨_, _, _, _, rfl⟩
  have he : (descOf w).extent.1 = Min.min (((a : Int) - 1) * u) 0 + Min.min (((b : Int) - 1) * v) 0 + Min.min (((c : Int) - 1) * x) 0 + Min.min (((e : Int) - 1) * y) 0 := by
    unfold Desc.extent Desc.size Desc.stride; rw [hs, ht]; simp [List.range_succ]
  have hu : (descOf w).stride 0 = u := by unfold Desc.stride; rw [ht]; rfl
  unfold Desc.pieces at hp
  rw [hs, ht] at hp
  simp only [List.drop_succ_cons, List.drop_zero, List.mem_flatMap] at hp
  obtain ⟨ix, hix, hp⟩ := hp
  obtain ⟨i, t1, hi, h1x, rfl⟩ := mem_indices_cons hix
  obtain ⟨j, t2, hj, h2x, rfl⟩ := mem_indices_cons h1x
  obtain ⟨k, t3, hk, h3x, rfl⟩ := mem_indices_cons h2x
  obtain rfl : t3 = [] := by simpa [indices] using h3x
  have h1 := low_le i b v hi; have h2 := low_le j c x hj; have h3 := low_le k e y hk
  rw [he]
  simp only [runOffset] at hp
  split at hp
  · simp only [List.mem_singleton] at hp
    subst hp
    have : Min.min (((a : Int) - 1) * u) 0 ≤ 0 := min_le_right _ _
    dsimp only; omega
  · simp only [List.mem_map, List.mem_range] at hp
    obtain ⟨m, hm, rfl⟩ := hp
    have hz : (descOf w).size 0 = a := by unfold Desc.size; rw [hs]; rfl
    have h4 := low_le m a u (by rw [← hz]; exact hm)
    rw [hu]; dsimp only; omega

/-- An operand whose words are sound is read with no error and nothing noted (R74, R263). -/
theorem demandOperand_sound {s : State} {i : Sid} {part : Nat} (w : DescWord) (hs : 0 ≤ (descOf w).span.1)
    (h : s.sourceSound i (descOf w)) : s.demandOperand part (spadBase i.die i.core) (descOf w) = (s, none) := by
  have hb : 0x30000000000 ≤ spadBase i.die i.core := by unfold spadBase; omega
  unfold State.demandOperand
  have key : ∀ l : List (Int × Nat), (∀ p ∈ l, p ∈ (descOf w).pieces) →
      l.foldl (fun (acc : State × Option Nat) p =>
        match acc.2 with
        | some _ => acc
        | none => acc.1.demand 1 (some part) (((spadBase i.die i.core : Nat) : Int) + (descOf w).base + p.1).toNat p.2) (s, none) = (s, none) := by
    intro l
    induction l with
    | nil => intro _; rfl
    | cons p r ih =>
      intro hl
      have hp := hl p (by simp)
      have hlow := piece_low w p hp
      have hs' : 0 ≤ ((descOf w).base : Int) + (descOf w).extent.1 := hs
      rw [List.foldl_cons]
      dsimp only
      rw [demand_sound _ _ _ _ _ (h p hp), countRvr_high _ _ _ _ (by omega)]
      exact ih (fun q hq => hl q (by simp [hq]))
  exact key _ (fun p hp => hp)

/-- A fold of updates that change no strand changes none. -/
theorem foldl_strands {α : Type} (g : State → α → State) (h : ∀ s a, (g s a).strands = s.strands) (l : List α) : ∀ s, (l.foldl g s).strands = s.strands := by
  induction l with
  | nil => intro s; rfl
  | cons a r ih => intro s; rw [List.foldl_cons, ih, h]

/-- A maintenance request changes no strand. -/
theorem askMaint_strands (s : State) (a : Activity) : (s.askMaint a).strands = s.strands := by
  unfold State.askMaint; split <;> rfl

/-- A fault raised changes no strand. -/
theorem raise_strands (s : State) (p c : Nat) (q : Option Nat) (a d : Nat) (i j : Bool) : (s.raise p c q a d i j).strands = s.strands := by
  have h1 : ∀ t : State, (t.noteUnmodelled none).strands = t.strands := fun t => by
    unfold State.noteUnmodelled; exact foldl_strands _ (fun t e => by (try dsimp only); split <;> simp [State.setFlag, State.setFld]) _ _
  have h2 : ∀ t : State, (t.capture p c q a i).strands = t.strands := fun t => by
    unfold State.capture State.countSat; (try dsimp only); (repeat' split) <;> simp
  unfold State.raise; (try dsimp only)
  generalize hu : (if j = true then s.noteUnmodelled none else s) = u
  have hs : u.strands = s.strands := by subst hu; split <;> simp [h1]
  split
  · rw [State.bump_strands, h2, hs]
  · exact (h2 u).trans hs

/-- A scrubber changes no strand. -/
theorem setScrubber_strands (s : State) (p : Nat) (x : Scrubber) : (s.setScrubber p x).strands = s.strands := rfl

/-- A stack changes no strand. -/
theorem setStack_strands (s : State) (n : Nat) (x : Stack) : (s.setStack n x).strands = s.strands := rfl

/-- A row's error changes no strand. -/
theorem noteRow_strands (t : State) (n o a : Nat) (b : Bool) : (t.noteRow n o a b).strands = t.strands := by
    unfold State.noteRow; extract_lets p x u r sm m; split
    · split
      · rw [askMaint_strands]; rfl
      · rfl
    · rfl

/-- An error at a connection changes no strand. -/
theorem noteVc_strands (t : State) (n a : Nat) : (t.noteVc n a).strands = t.strands := by
    unfold State.noteVc; extract_lets p x u r; split
    · rw [askMaint_strands]; rfl
    · rfl

/-- An error of a Reservoir page changes no strand. -/
theorem notePage_strands (t : State) (a : Nat) (b : Bool) : (t.notePage a b).strands = t.strands := by
    unfold State.notePage; extract_lets p x u r sm m; split
    · rw [raise_strands]; rfl
    · rfl

/-- An error of a scratchpad bank changes no strand. -/
theorem noteBank_strands (t : State) (d : Die) (n a : Nat) (b : Bool) : (t.noteBank d n a b).strands = t.strands := by
    unfold State.noteBank; extract_lets p x u r sm; split
    · split
      · rw [askMaint_strands]
      · rfl
    · rfl

/-- An error that is counted changes no strand. -/
theorem noteError_strands (s : State) (a : Nat) (u : Bool) : (s.noteError a u).strands = s.strands := by
  unfold State.noteError
  split
  · split
    · exact noteRow_strands _ _ _ _ _
    · rw [noteVc_strands, noteRow_strands]
  · exact notePage_strands _ _ _
  · exact noteBank_strands _ _ _ _ _
  · rfl

/-- Writing a unit anew changes no strand. -/
theorem refreshUnit_strands (a n : Nat) (s : State) (e : Nat × UnitState) : (State.refreshUnit a n s e).strands = s.strands := by
  unfold State.refreshUnit; (try dsimp only); split_ifs <;> simp [State.setUnit, noteError_strands]

/-- A flip control changes no strand. -/
theorem consumeFlip_strands (s : State) (u a n : Nat) : (s.consumeFlip u a n).strands = s.strands := by
  unfold State.consumeFlip; split
  · (try dsimp only); split_ifs <;> rfl
  · rfl

/-- Storing bytes changes no strand. -/
theorem put_strands (s : State) (a : Nat) (b : List Byte) : (s.put a b).strands = s.strands := by
  unfold State.put; split <;> rfl

/-- Storing into units changes no strand. -/
theorem storeBytes_strands (s : State) (a : Nat) (b : List Byte) : (s.storeBytes a b).strands = s.strands := by
  unfold State.storeBytes; split
  · rfl
  · (try dsimp only); rw [put_strands, foldl_strands _ (fun t u => consumeFlip_strands t u _ _), foldl_strands _ (refreshUnit_strands _ _)]

/-- Putting results in the scratchpad changes no strand. -/
theorem putElems_strand (s : State) (i : Sid) (d : Desc) (l : List Nat) (k : Nat) : (s.putElems i d l).strand k = s.strand k := by
  apply State.strand_congr
  unfold State.putElems State.putOperand; (try dsimp only)
  exact foldl_strands _ (fun t p => storeBytes_strands _ _ _) _ _

/-- Counting NaN results and overflows changes no strand. -/
theorem countElems_strand (s : State) (i : Sid) (l : List Elem) (k : Nat) : (s.countElems i l).strand k = s.strand k := by
  apply State.strand_congr; unfold State.countElems; (try dsimp only); split_ifs <;> simp

/-- Taking the array changes no strand. -/
theorem ownArray_strand (s : State) (i : Sid) (x : Strand) (n k : Nat) : (s.ownArray i x n).strand k = s.strand k := by
  apply State.strand_congr; unfold State.ownArray; (try dsimp only); split_ifs <;> simp

/-- A counter changes no strand. -/
theorem bump_strand (s : State) (p o w c k : Nat) : (s.bump p o w c).strand k = s.strand k := State.strand_congr (by simp) k

/-- Equal memory and bus give equal bytes. -/
theorem bytes_congr {s t : State} (hm : t.mem = s.mem) (hb : t.bus = s.bus) (a n : Nat) : t.bytes a n = s.bytes a n := by
  unfold State.bytes State.byte; rw [hm, hb]

/-- Equal memory and bus give equal elements. -/
theorem operandElems_congr {s t : State} (hm : t.mem = s.mem) (hb : t.bus = s.bus) (b : Nat) (d : Desc) : t.operandElems b d = s.operandElems b d := by
  unfold State.operandElems State.operandBytes
  rw [List.map_congr_left (fun p _ => bytes_congr hm hb _ _)]

/-- A selector below 32 names a descriptor (R80). -/
theorem selOf_desc {o : BitVec 6} (h : o.toNat < 32) : selOf o = .desc o.toNat := by unfold selOf; rw [if_pos h]

/-- The descriptor of a strand on its unit is the one named. -/
theorem descAt_named {s t : State} {i : Sid} {x y : Strand} (ht : Taken s i .execute x t y) {o : BitVec 6} (h : o.toNat < 32) :
    y.descAt .execute (selOf o) = some (x.named o) := by rw [selOf_desc h, ht.descAt]; rfl

/-- An operand in order gives no halt by itself. -/
theorem selBad_ok {s t : State} {i : Sid} {x y : Strand} (ht : Taken s i .execute x t y) {o : BitVec 6} {n : Nat} {b : Bool} (h : x.operandOk o n b) :
    y.selBad .execute b (selOf o) = none := by
  rw [selOf_desc h.1]; unfold Strand.selBad; (try dsimp only); rw [ht.dreg]
  have h1 := h.2.1; have h2 := h.2.2.1; have h3 := h.2.2.2.1
  unfold Strand.named at h1 h2 h3
  rw [h1, h2, if_neg (by simp), if_neg]
  cases b with
  | false => simp
  | true => rw [h3 rfl]; simp

/-- A source in order delivers its elements. -/
theorem readSrcs_one {s t : State} {i : Sid} {x y : Strand} {u : State} (ht : Taken s i .execute x t y) {o : Opd} {g : BitVec 6} {n : Nat} (j : Nat) (r : List Opd)
    (ho : o.sel = selOf g) (hk : x.operandOk g n false) (hs : s.sourceSound i (x.named g)) (hu : u.units = s.units) (hm : u.mem = s.mem) (hb : u.bus = s.bus) :
    readSrcs i y .execute (fun _ => []) j (o :: r) u = ((readSrcs i y .execute (fun _ => []) (j + 1) r u).1, (readSrcs i y .execute (fun _ => []) (j + 1) r u).2.1,
      s.elemsOf i (x.named g) :: (readSrcs i y .execute (fun _ => []) (j + 1) r u).2.2) := by
  have hd : u.demandOperand y.part (spadBase i.die i.core) (x.named g) = (u, none) :=
    demandOperand_sound _ hk.2.2.2.2.2.1 (fun p hp => (badUnits_congr hu _ _).trans (hs p hp))
  conv_lhs => unfold readSrcs
  rw [ho, descAt_named ht hk.1]; (try dsimp only); rw [hd]; (try dsimp only)
  rw [operandElems_congr hm hb]; rfl

/-- Spans in order give no halt (R74, R78). -/
theorem spanHalt_ok {y : Strand} {p : Plan} (h : ∀ o ∈ p.srcs ++ p.dsts, ∀ d, y.descAt .execute o.sel = some d → d.base % p.align = 0 ∧ 0 ≤ d.span.1 ∧ d.span.2 ≤ (spadBytes : Int))
    (hm : ∀ o ∈ p.dsts, ∀ e ∈ p.srcs, ∀ d g, y.descAt .execute o.sel = some d → y.descAt .execute e.sel = some g → spansMeet d.span g.span = false) :
    spanHalt y .execute p = none := by
  have hall : ∀ d ∈ p.srcs.filterMap (fun o => y.descAt .execute o.sel) ++ p.dsts.filterMap (fun o => y.descAt .execute o.sel), d.base % p.align = 0 ∧ 0 ≤ d.span.1 ∧ d.span.2 ≤ (spadBytes : Int) := by
    intro d hd
    rw [List.mem_append, List.mem_filterMap, List.mem_filterMap] at hd
    rcases hd with ⟨o, ho, hd⟩ | ⟨o, ho, hd⟩
    · exact h o (by simp [ho]) d hd
    · exact h o (by simp [ho]) d hd
  unfold spanHalt; (try dsimp only)
  rw [List.find?_eq_none.2 (by intro d hd; simp [(hall d hd).1])]; (try dsimp only)
  rw [if_neg, if_neg]
  · intro hc
    simp only [List.any_eq_true, List.mem_filterMap] at hc
    obtain ⟨d, ⟨o, ho, hd⟩, g, ⟨e, he, hg⟩, hc⟩ := hc
    rw [hm o ho e he d g hd hg] at hc; simp at hc
  · intro hc
    simp only [List.any_eq_true, Bool.or_eq_true, decide_eq_true_eq] at hc
    obtain ⟨d, hd, hc⟩ := hc
    have := hall d hd
    omega

/-- A descriptor of the format's esize agrees with it (R81). -/
theorem fmtAgrees_some {d : Desc} {c : BitVec 4} (h : d.esize = fmtEsize c.toNat) : fmtAgrees (some d) c = true := by
  unfold fmtAgrees; simp [h]

/-- The array is the strand's after it takes it (R87). -/
theorem ownArray_who {s t : State} {i : Sid} {x y : Strand} (ht : Taken s i .execute x t y) (u : State) (n : Nat) : u.ownArray i y n = u.ownArray i x n := by
  unfold State.ownArray Strand.who; rw [ht.launch, ht.index]

/-- The counters and the array after an MMA (R87, R125). -/
def mmaCount (i : Sid) (f : TF) (x : Strand) (blk : Block) (d : Desc) (r : List Elem) (t : State) : State :=
  let mine := (t.core i.die i.core).arrOwner == some x.who
  let v := if mine then t else (t.bump (t.corePage i.die i.core) 0x04C 32 1).ownArray i x blk.shape
  (v.bump (t.corePage i.die i.core) 0x040 64
        (ceilDiv (pairCost2 f.fmtA.toNat blk.fmt * d.rows) 2 + 20 + (if mine then 0 else 136))).countElems i r

/-- The counters and the array change no strand. -/
theorem mmaCount_strand (i : Sid) (f : TF) (x : Strand) (blk : Block) (d : Desc) (r : List Elem) (t : State) (k : Nat) :
    (mmaCount i f x blk d r t).strand k = t.strand k := by
  unfold mmaCount; dsimp only
  rw [countElems_strand, bump_strand]
  split
  · rfl
  · rw [ownArray_strand, bump_strand]

/-- Sources in order deliver their elements, in order. -/
theorem readSrcs_list {s t : State} {i : Sid} {x y : Strand} {u : State} (ht : Taken s i .execute x t y) (hu : u.units = s.units) (hm : u.mem = s.mem) (hb : u.bus = s.bus)
    (j : Nat) (gs : List (BitVec 6)) : ∀ (l : List Opd), l.map (·.sel) = gs.map selOf → (∀ g ∈ gs, x.operandOk g 32 false ∧ s.sourceSound i (x.named g)) →
    readSrcs i y .execute (fun _ => []) j l u = (u, none, gs.map (fun g => s.elemsOf i (x.named g))) := by
  induction gs generalizing j with
  | nil => intro l hl _; cases l with
    | nil => rfl
    | cons a b => simp at hl
  | cons g r ih =>
    intro l hl hg
    cases l with
    | nil => simp at hl
    | cons o l =>
      simp only [List.map_cons, List.cons.injEq] at hl
      have h := hg g (by simp)
      rw [readSrcs_one ht j l hl.1 h.1 h.2 hu hm hb, ih (j + 1) l hl.2 (fun e he => hg e (by simp [he]))]; rfl

/-- What the plan of an MMA with named sources is. -/
def MmaPlan (s : State) (i : Sid) (f : TF) (x : Strand) (blk : Block) (r : List Elem) (gs : List (BitVec 6)) (t : State) (y : Strand) : Prop :=
  ∃ q, mmaPlan i .execute f y t = .inr q ∧ q.srcs.map (·.sel) = gs.map selOf ∧ q.dsts.map (·.sel) = [selOf f.od] ∧ q.align = 32 ∧
      ∀ z, q.compute (gs.map (fun g => s.elemsOf i (x.named g))) z = ([r.map (·.bits)], mmaCount i f x blk (x.named f.od) r z)

/-- The plan without scales and without oc. -/
theorem mma_00 {s t : State} {i : Sid} {f : TF} {x y : Strand} {blk : Block} {r : List Elem} (ht : Taken s i .execute x t y)
    (hr : tfReserved f (selOf f.oc != .none) = false) (hb : x.shadow = some blk)
    (hod : x.operandOk f.od 32 true) (hoa : x.operandOk f.oa 32 false) (hd0 : (x.named f.od).size 0 = blk.n)
    (ha0 : (x.named f.oa).size 0 = blk.k) (har : (x.named f.oa).rows = (x.named f.od).rows) (hsh : f.shape.toNat = blk.shape)
    (hpr : pairOk f.fmtA.toNat blk.fmt = true) (hsc : scalesOk f.fmtA.toNat f.sblk.toNat = true)
    (hres : (if (blk.fmt == 7) = true then f.fmtD == 8 else decide (f.fmtD.toNat < 2)) = true)
    (hfd : (x.named f.od).esize = fmtEsize f.fmtD.toNat) (hfa : (x.named f.oa).esize = fmtEsize f.fmtA.toNat)
    (hz : f.sblk = 0)
    (hcn : selOf f.oc = .none)
    (he : r = convertAll f.fmtD.toNat f.rnd.toNat f.sat (tfSeed f) x.tiles (mmaValues f blk (x.named f.od).rows (s.elemsOf i (x.named f.oa)) [] none)) :
    MmaPlan s i f x blk r [f.oa] t y := by
  have dD := descAt_named ht hod.1; have dA := descAt_named ht hoa.1
  have hz' : (f.sblk != 0) = false := by simp [hz]
  have dC : y.descAt .execute (selOf f.oc) = none := by rw [hcn]; rfl
  have hcn' : (selOf f.oc != .none) = false := by simp [hcn]
  unfold MmaPlan mmaPlan; dsimp only
  rw [dD, dA, selBad_ok ht hod, selBad_ok ht hoa, hr, ht.shadow, hb, hz', hcn', dC, firstHalt_none (by simp [reserved, need])]
  dsimp only [List.filterMap_cons_some, List.filterMap_cons, List.filterMap_nil, List.head?, id]
  rw [fmtAgrees_some hfd, fmtAgrees_some hfa, hres, hd0, ha0, har, hsh, hpr, hsc, firstHalt_none (by simp [need])]
  refine ⟨_, rfl, by simp, by simp, rfl, fun z => ?_⟩
  dsimp only
  simp only [if_true, Bool.false_eq_true, if_false, List.map_cons, List.map_nil, List.getD_cons_zero, List.getD_cons_succ]
  rw [ht.tiles, ← he]; unfold mmaCount; simp only [ownArray_who ht, Strand.who, ht.launch, ht.index]
  rfl

/-- The plan without scales, with oc. -/
theorem mma_01 {s t : State} {i : Sid} {f : TF} {x y : Strand} {blk : Block} {r : List Elem} (ht : Taken s i .execute x t y)
    (hr : tfReserved f (selOf f.oc != .none) = false) (hb : x.shadow = some blk)
    (hod : x.operandOk f.od 32 true) (hoa : x.operandOk f.oa 32 false) (hd0 : (x.named f.od).size 0 = blk.n)
    (ha0 : (x.named f.oa).size 0 = blk.k) (har : (x.named f.oa).rows = (x.named f.od).rows) (hsh : f.shape.toNat = blk.shape)
    (hpr : pairOk f.fmtA.toNat blk.fmt = true) (hsc : scalesOk f.fmtA.toNat f.sblk.toNat = true)
    (hres : (if (blk.fmt == 7) = true then f.fmtD == 8 else decide (f.fmtD.toNat < 2)) = true)
    (hfd : (x.named f.od).esize = fmtEsize f.fmtD.toNat) (hfa : (x.named f.oa).esize = fmtEsize f.fmtA.toNat)
    (hz : f.sblk = 0)
    (hcn : selOf f.oc ≠ .none) (hoc : x.operandOk f.oc 32 false) 
    (hresB : (if (blk.fmt == 7) = true then f.fmtB == 8 else decide (f.fmtB.toNat < 2)) = true)
    (hce : (x.named f.oc).esize = fmtEsize f.fmtB.toNat) (hc0 : (x.named f.oc).size 0 = blk.n) (hcr : (x.named f.oc).rows = (x.named f.od).rows)
    (he : r = convertAll f.fmtD.toNat f.rnd.toNat f.sat (tfSeed f) x.tiles (mmaValues f blk (x.named f.od).rows (s.elemsOf i (x.named f.oa)) [] (some (s.elemsOf i (x.named f.oc))))) :
    MmaPlan s i f x blk r [f.oa, f.oc] t y := by
  have dD := descAt_named ht hod.1; have dA := descAt_named ht hoa.1
  have hz' : (f.sblk != 0) = false := by simp [hz]
  have dC := descAt_named ht hoc.1
  have hcn' : (selOf f.oc != .none) = true := by simpa using hcn
  unfold MmaPlan mmaPlan; dsimp only
  rw [dD, dA, selBad_ok ht hod, selBad_ok ht hoa, hr, ht.shadow, hb, hz', hcn', dC, selBad_ok ht hoc, firstHalt_none (by simp [reserved, need])]
  dsimp only [List.filterMap_cons_some, List.filterMap_cons, List.filterMap_nil, List.head?, id]
  rw [fmtAgrees_some hfd, fmtAgrees_some hfa, hres, hd0, ha0, har, hsh, hpr, hsc, fmtAgrees_some hce, hresB, hc0, hcr, firstHalt_none (by simp [need])]
  refine ⟨_, rfl, by simp, by simp, rfl, fun z => ?_⟩
  dsimp only
  simp only [if_true, Bool.false_eq_true, if_false, List.map_cons, List.map_nil, List.getD_cons_zero, List.getD_cons_succ]
  rw [ht.tiles, ← he]; unfold mmaCount; simp only [ownArray_who ht, Strand.who, ht.launch, ht.index]
  rfl

/-- The plan with scales, without oc. -/
theorem mma_10 {s t : State} {i : Sid} {f : TF} {x y : Strand} {blk : Block} {r : List Elem} (ht : Taken s i .execute x t y)
    (hr : tfReserved f (selOf f.oc != .none) = false) (hb : x.shadow = some blk)
    (hod : x.operandOk f.od 32 true) (hoa : x.operandOk f.oa 32 false) (hd0 : (x.named f.od).size 0 = blk.n)
    (ha0 : (x.named f.oa).size 0 = blk.k) (har : (x.named f.oa).rows = (x.named f.od).rows) (hsh : f.shape.toNat = blk.shape)
    (hpr : pairOk f.fmtA.toNat blk.fmt = true) (hsc : scalesOk f.fmtA.toNat f.sblk.toNat = true)
    (hres : (if (blk.fmt == 7) = true then f.fmtD == 8 else decide (f.fmtD.toNat < 2)) = true)
    (hfd : (x.named f.od).esize = fmtEsize f.fmtD.toNat) (hfa : (x.named f.oa).esize = fmtEsize f.fmtA.toNat)
    (hz : f.sblk ≠ 0) (hob : x.operandOk f.ob 32 false) (hbe : (x.named f.ob).esize = 2)
    (hb0 : (x.named f.ob).size 0 = ceilDiv blk.k (blockLen f.sblk.toNat)) (hal : scalesAlong (some (x.named f.oa)) (some (x.named f.ob)) = true) (hbr : (x.named f.ob).rows = (x.named f.od).rows)
    (hcn : selOf f.oc = .none)
    (he : r = convertAll f.fmtD.toNat f.rnd.toNat f.sat (tfSeed f) x.tiles (mmaValues f blk (x.named f.od).rows (s.elemsOf i (x.named f.oa)) (s.elemsOf i (x.named f.ob)) none)) :
    MmaPlan s i f x blk r [f.oa, f.ob] t y := by
  have dD := descAt_named ht hod.1; have dA := descAt_named ht hoa.1
  have dB := descAt_named ht hob.1
  have hz' : (f.sblk != 0) = true := by simpa using hz
  have dC : y.descAt .execute (selOf f.oc) = none := by rw [hcn]; rfl
  have hcn' : (selOf f.oc != .none) = false := by simp [hcn]
  unfold MmaPlan mmaPlan; dsimp only
  rw [dD, dA, selBad_ok ht hod, selBad_ok ht hoa, hr, ht.shadow, hb, hz', hcn', dC, dB, selBad_ok ht hob, firstHalt_none (by simp [reserved, need])]
  dsimp only [List.filterMap_cons_some, List.filterMap_cons, List.filterMap_nil, List.head?, id]
  rw [fmtAgrees_some hfd, fmtAgrees_some hfa, hres, hd0, ha0, har, hsh, hpr, hsc, hbe, hb0, hbr, hal, firstHalt_none (by simp [need])]
  refine ⟨_, rfl, by simp, by simp, rfl, fun z => ?_⟩
  dsimp only
  simp only [if_true, Bool.false_eq_true, if_false, List.map_cons, List.map_nil, List.getD_cons_zero, List.getD_cons_succ]
  rw [ht.tiles, ← he]; unfold mmaCount; simp only [ownArray_who ht, Strand.who, ht.launch, ht.index]
  rfl

/-- The plan with scales and oc. -/
theorem mma_11 {s t : State} {i : Sid} {f : TF} {x y : Strand} {blk : Block} {r : List Elem} (ht : Taken s i .execute x t y)
    (hr : tfReserved f (selOf f.oc != .none) = false) (hb : x.shadow = some blk)
    (hod : x.operandOk f.od 32 true) (hoa : x.operandOk f.oa 32 false) (hd0 : (x.named f.od).size 0 = blk.n)
    (ha0 : (x.named f.oa).size 0 = blk.k) (har : (x.named f.oa).rows = (x.named f.od).rows) (hsh : f.shape.toNat = blk.shape)
    (hpr : pairOk f.fmtA.toNat blk.fmt = true) (hsc : scalesOk f.fmtA.toNat f.sblk.toNat = true)
    (hres : (if (blk.fmt == 7) = true then f.fmtD == 8 else decide (f.fmtD.toNat < 2)) = true)
    (hfd : (x.named f.od).esize = fmtEsize f.fmtD.toNat) (hfa : (x.named f.oa).esize = fmtEsize f.fmtA.toNat)
    (hz : f.sblk ≠ 0) (hob : x.operandOk f.ob 32 false) (hbe : (x.named f.ob).esize = 2)
    (hb0 : (x.named f.ob).size 0 = ceilDiv blk.k (blockLen f.sblk.toNat)) (hal : scalesAlong (some (x.named f.oa)) (some (x.named f.ob)) = true) (hbr : (x.named f.ob).rows = (x.named f.od).rows)
    (hcn : selOf f.oc ≠ .none) (hoc : x.operandOk f.oc 32 false) 
    (hresB : (if (blk.fmt == 7) = true then f.fmtB == 8 else decide (f.fmtB.toNat < 2)) = true)
    (hce : (x.named f.oc).esize = fmtEsize f.fmtB.toNat) (hc0 : (x.named f.oc).size 0 = blk.n) (hcr : (x.named f.oc).rows = (x.named f.od).rows)
    (he : r = convertAll f.fmtD.toNat f.rnd.toNat f.sat (tfSeed f) x.tiles (mmaValues f blk (x.named f.od).rows (s.elemsOf i (x.named f.oa)) (s.elemsOf i (x.named f.ob)) (some (s.elemsOf i (x.named f.oc))))) :
    MmaPlan s i f x blk r [f.oa, f.ob, f.oc] t y := by
  have dD := descAt_named ht hod.1; have dA := descAt_named ht hoa.1
  have dB := descAt_named ht hob.1
  have hz' : (f.sblk != 0) = true := by simpa using hz
  have dC := descAt_named ht hoc.1
  have hcn' : (selOf f.oc != .none) = true := by simpa using hcn
  unfold MmaPlan mmaPlan; dsimp only
  rw [dD, dA, selBad_ok ht hod, selBad_ok ht hoa, hr, ht.shadow, hb, hz', hcn', dC, dB, selBad_ok ht hob, selBad_ok ht hoc, firstHalt_none (by simp [reserved, need])]
  dsimp only [List.filterMap_cons_some, List.filterMap_cons, List.filterMap_nil, List.head?, id]
  rw [fmtAgrees_some hfd, fmtAgrees_some hfa, hres, hd0, ha0, har, hsh, hpr, hsc, fmtAgrees_some hce, hresB, hc0, hcr, hbe, hb0, hbr, hal, firstHalt_none (by simp [need])]
  refine ⟨_, rfl, by simp, by simp, rfl, fun z => ?_⟩
  dsimp only
  simp only [if_true, Bool.false_eq_true, if_false, List.map_cons, List.map_nil, List.getD_cons_zero, List.getD_cons_succ]
  rw [ht.tiles, ← he]; unfold mmaCount; simp only [ownArray_who ht, Strand.who, ht.launch, ht.index]
  rfl

end Sys2Proof.Machine
end

