-- ==== Sys2Proof/WellFormed.lean ====
section
/-!
DEFINITION. What a command may name: the contexts, cores, stacks, ports and other instances the part has. A command that names
another is ill-formed; its meaning changes nothing.
-/
namespace Sys2Proof

/-- A context of the part: 96 logical cores to a die, 8 contexts to a core (R19, R41). -/
def sidOk (i : Sid) : Bool := decide (i.core < 96) && decide (i.ctx < 8)

/-- Packet numbers have 12 bits (R285). -/
def Link.ok (l : Link) : Bool := decide (l.seq < 4096) && decide (l.ack < 4096)

/-- A packet has at most 8 payload units, and its trim is whole (R285). -/
def Packet.ok (k : Packet) : Bool :=
  decide (k.len ≤ 8) && k.payload.length % 4 == 0 && decide (k.part < 16) && decide (k.vc < 4) && decide (k.dst < 65536) &&
    decide (k.src < 65536) && k.link.ok

/-- What a requester names exists. -/
def Requester.ok : Requester → Bool
  | .strand sid _ => sidOk sid
  | .host _ => true
  | .remote port pkt => decide (port < 24) && pkt.ok
  | .layout _ part => decide (part < 16)
  | .shadow _ => true
  | .dma ch => decide (ch < 16)
  | .stack n _ => decide (n < 16)
  | .schedRing _ ring => decide (ring < 64)
  | .schedImage _ ring _ => decide (ring < 64)
  | .schedDone _ ring _ => decide (ring < 64)
  | .scc => true
  | .mgmt asker => asker.all (fun e => decide (e.1 < 24) && e.2.ok)
  | .jtag => true
  | .crossing => true

/-- The context of a requester. -/
def Requester.sids : Requester → List Sid
  | .strand sid _ => [sid]
  | _ => []

/-- The instances a command names all exist. -/
def Instr.wf : Instr → Bool
  | .nop sid _ _ => sidOk sid
  | .sli sid _ _ => sidOk sid
  | .sadd sid _ _ => sidOk sid
  | .smul sid _ _ => sidOk sid
  | .sand sid _ _ => sidOk sid
  | .sor sid _ _ => sidOk sid
  | .sxor sid _ _ => sidOk sid
  | .sshl sid _ _ => sidOk sid
  | .sshr sid _ _ => sidOk sid
  | .srd sid _ _ => sidOk sid
  | .sldp sid _ _ => sidOk sid
  | .sstp sid _ _ => sidOk sid
  | .br sid _ _ => sidOk sid
  | .dldi sid _ _ => sidOk sid
  | .dld sid _ _ => sidOk sid
  | .dbase sid _ _ => sidOk sid
  | .waitc sid _ _ => sidOk sid
  | .waitcReevaluate sid _ => sidOk sid
  | .remoteWaitTimeout sid _ => sidOk sid
  | .fence sid _ _ => sidOk sid
  | .yield sid _ _ => sidOk sid
  | .halt sid _ _ => sidOk sid
  | .endStream sid _ _ => sidOk sid
  | .ld sid _ _ => sidOk sid
  | .st sid _ _ => sidOk sid
  | .gather sid _ _ => sidOk sid
  | .qpush sid _ _ => sidOk sid
  | .qpop sid _ _ => sidOk sid
  | .sta sid _ _ => sidOk sid
  | .atadd sid _ _ => sidOk sid
  | .sld sid _ _ => sidOk sid
  | .scmd sid _ _ => sidOk sid
  | .sfence sid _ _ => sidOk sid
  | .lxsub sid _ _ => sidOk sid
  | .memoryAnswer sid _ => sidOk sid
  | .mload sid _ _ => sidOk sid
  | .mma sid _ _ => sidOk sid
  | .vadd sid _ _ => sidOk sid
  | .vsub sid _ _ => sidOk sid
  | .vmul sid _ _ => sidOk sid
  | .vfma sid _ _ => sidOk sid
  | .vmax sid _ _ => sidOk sid
  | .vmin sid _ _ => sidOk sid
  | .vexp2 sid _ _ => sidOk sid
  | .vlog2 sid _ _ => sidOk sid
  | .vrcp sid _ _ => sidOk sid
  | .vrsq sid _ _ => sidOk sid
  | .vcvt sid _ _ => sidOk sid
  | .vrmax sid _ _ => sidOk sid
  | .vrsum sid _ _ => sidOk sid
  | .vfill sid _ _ => sidOk sid
  | .xcopy sid _ _ => sidOk sid
  | .tmark sid _ _ => sidOk sid
  | .tileWatchdogExpiry sid => sidOk sid
  | .queueDeadlock sid => sidOk sid
  | .streamHoldExpiry _ core _ => decide (core < 96)
  | .schedRingTailWrite _ _ ring _ => decide (ring < 64)
  | .launchDescriptorCheck _ ring => decide (ring < 64)
  | .launchResourced _ ring _ => decide (ring < 64)
  | .launchComplete _ ring _ => decide (ring < 64)
  | .launchDeadlinePass _ ring _ => decide (ring < 64)
  | .schedLaunchKill _ _ _ => true
  | .schedTlbInval _ _ _ _ => true
  | .tlbInvalDone => true
  | .schedPartCfgWrite _ _ _ _ => true
  | .schedMcastAllotWrite _ _ _ => true
  | .mcastDeliver _ _ sid => sidOk sid
  | .mcastHoldExpiry _ _ => true
  | .turnEnd _ core => decide (core < 96)
  | .turnIdleExpiry _ core => decide (core < 96)
  | .turnSwitch _ core => decide (core < 96)
  | .killPointPark sid => sidOk sid
  | .strandResume sid part => sidOk sid && decide (part < 16)
  | .layoutDescriptorCheck _ part => decide (part < 16)
  | .layoutSlice _ => true
  | .layoutComplete _ part => decide (part < 16)
  | .layoutCancel _ _ _ => true
  | .layoutQlimitWrite _ _ _ => true
  | .stkModeWrite _ stack _ => decide (stack < 16)
  | .stkModeEntryDone stack half _ => decide (stack < 16) && decide (half < 2)
  | .stkModeExitDone stack half => decide (stack < 16) && decide (half < 2)
  | .stkOwnDataWrite _ stack _ => decide (stack < 16)
  | .stkQlimitWrite _ stack _ => decide (stack < 16)
  | .stkNop stack _ => decide (stack < 16)
  | .attend stack _ => decide (stack < 16)
  | .gemv stack _ => decide (stack < 16)
  | .summarise stack _ => decide (stack < 16)
  | .stkCmdQueueAdmit stack part => decide (stack < 16) && decide (part < 16)
  | .sliceStart stack nbu => decide (stack < 16) && decide (nbu < 512)
  | .sliceEnd stack nbu => decide (stack < 16) && decide (nbu < 512)
  | .selectionChunk stack => decide (stack < 16)
  | .stkCmdComplete stack _ => decide (stack < 16)
  | .stkKill _ stack part _ => decide (stack < 16) && decide (part < 16)
  | .stkKillAll _ stack part _ => decide (stack < 16) && decide (part < 16)
  | .stkRecRdWrite _ stack part _ => decide (stack < 16) && decide (part < 16)
  | .nbuSelfcheckFail stack nbu => decide (stack < 16) && decide (nbu < 512)
  | .basinReservationGrant _ part => decide (part < 16)
  | .basinPartialArrival _ => true
  | .basinResultWrite _ _ => true
  | .basinRsvRequest _ _ _ => true
  | .basinRsvCancel _ _ _ => true
  | .basinSlotAllotWrite _ _ _ => true
  | .poolWayMaskWrite _ _ part _ => decide (part < 16)
  | .poolWayExclWrite _ _ _ => true
  | .poolSweepDone _ => true
  | .rvrMr4Poll c _ => decide (c < 12)
  | .rvrLinkLoss c => decide (c < 12)
  | .refreshWindowEnd _ => true
  | .scrubVisit _ inst => decide (inst < 14)
  | .scrubQueuedVisit _ inst => decide (inst < 14)
  | .scrubPeriodWrite _ _ inst _ => decide (inst < 14)
  | .scrubFlipArm _ _ inst _ => decide (inst < 14)
  | .coreFlipArm _ _ inst _ => decide (inst < 104)
  | .rowRepairRequest stack _ => decide (stack < 16)
  | .rowRepairRun stack => decide (stack < 16)
  | .nbuSwapRequest stack nbu => decide (stack < 16) && decide (nbu < 512)
  | .nbuSwapRun stack _ => decide (stack < 16)
  | .vcSwapRequest stack _ _ => decide (stack < 16)
  | .vcSwapRun stack _ => decide (stack < 16)
  | .repairStarved stack => decide (stack < 16)
  | .maintSafePoint _ => true
  | .coreRetire _ _ inst _ => decide (inst < 104)
  | .coreRetireMigrate _ inst => decide (inst < 104)
  | .bridgeRetry _ => true
  | .bridgeUndeliverable _ by_ _ _ => by_.ok
  | .domainWake _ domain _ => decide (domain < 7)
  | .domainWakeTimeout _ domain by_ _ => decide (domain < 7) && by_.ok
  | .packetWrite port pkt => decide (port < 24) && pkt.ok
  | .packetRead port pkt => decide (port < 24) && pkt.ok
  | .packetAtadd port pkt => decide (port < 24) && pkt.ok
  | .packetCount port pkt => decide (port < 24) && pkt.ok
  | .packetResponse port pkt => decide (port < 24) && pkt.ok
  | .breeze from_ _ _ => decide (from_.port < 24) && from_.link.ok
  | .timeReq from_ _ _ => decide (from_.port < 24) && from_.link.ok
  | .timeRsp from_ _ _ _ _ _ => decide (from_.port < 24) && from_.link.ok
  | .loss from_ _ _ _ _ => decide (from_.port < 24) && from_.link.ok
  | .mgmtPacket port pkt _ => decide (port < 24) && pkt.ok
  | .reservedPacket port pkt => decide (port < 24) && pkt.ok
  | .packetForward port pkt => decide (port < 24) && pkt.ok
  | .linkReplay ask => decide (ask.port < 24)
  | .laneSpareSwap port _ => decide (port < 24)
  | .portDegrade port => decide (port < 24)
  | .vlRetrain _ port _ => decide (port < 24)
  | .retrainTimeout port => decide (port < 24)
  | .vlEnableWrite _ port _ => decide (port < 24)
  | .portTrained port _ _ _ _ => decide (port < 24)
  | .portSignalLoss port _ => decide (port < 24)
  | .portSilence port => decide (port < 24)
  | .breezeIdleExpiry port => decide (port < 24)
  | .vcStall port vc _ => decide (port < 24) && decide (vc < 4)
  | .respTimeout _ _ => true
  | .lossGraceExpiry _ => true
  | .timeExchangeTick => true
  | .timeParentFailover => true
  | .timeCfgWrite _ _ _ => true
  | .vlGUnitsWrite _ port part _ => decide (port < 24) && decide (part < 16)
  | .vrouteRtDataWrite _ _ _ => true
  | .vrouteShadowSubmit _ _ _ => true
  | .shadowDescriptorRun _ => true
  | .shadowDescriptorDone _ => true
  | .vrouteShadowCancel _ _ _ => true
  | .faultDlArm _ _ m _ => decide (m < 64)
  | .faultDlDisarm _ _ m _ => decide (m < 64)
  | .dlCounterChange _ m => decide (m < 64)
  | .dlDeadlinePass _ m => decide (m < 64)
  | .dlMaxLateExpiry _ m => decide (m < 64)
  | .submit e _ => decide (e.function < 17) && decide (e.pair < 4)
  | .cancel e => decide (e.function < 17) && decide (e.pair < 4)
  | .resume e _ => decide (e.function < 17) && decide (e.pair < 4)
  | .query e => decide (e.function < 17) && decide (e.pair < 4)
  | .releaseShadow e => decide (e.function < 17) && decide (e.pair < 4)
  | .loadModel e _ => decide (e.function < 17) && decide (e.pair < 4)
  | .unloadModel e => decide (e.function < 17) && decide (e.pair < 4)
  | .setPolicy e _ _ _ _ _ _ => decide (e.function < 17) && decide (e.pair < 4)
  | .sccSqTailWrite function pair _ => decide (function < 17) && decide (pair < 4)
  | .sccCqHeadWrite function pair _ => decide (function < 17) && decide (pair < 4)
  | .sccQpCfgWrite function pair _ => decide (function < 17) && decide (pair < 4)
  | .prefillDone _ => true
  | .stepIssue part _ _ _ => decide (part < 16)
  | .stepCommit part => decide (part < 16)
  | .orphanHoldExpiry _ => true
  | .currentSample _ _ _ => true
  | .powerExcursionTimer => true
  | .clockRaiseTimer => true
  | .scanRound _ _ => true
  | .throttleStepTimer _ => true
  | .tripCompare _ diode _ => decide (diode < 9)
  | .railOffStep _ => true
  | .avsTransaction _ _ => true
  | .voltageSettled _ => true
  | .pllLockLoss _ => true
  | .pllLockRegain _ => true
  | .estimatorWindow _ _ _ _ _ _ => true
  | .estimatorRegression _ => true
  | .estimatorStale _ => true
  | .heartbeatSend _ => true
  | .heartbeatRx _ _ _ _ => true
  | .capCommandTimeout _ => true
  | .heartbeatLoss _ _ => true
  | .wedgeProbe _ _ => true
  | .sccBeatTimeout _ => true
  | .aliveLapse _ => true
  | .lullIdleExpiry _ => true
  | .lullWake _ => true
  | .calmIdleExpiry => true
  | .calmWake => true
  | .watchCycle _ _ _ => true
  | .powerEntryDone _ => true
  | .coldReset => true
  | .pkgRstAssert => true
  | .pkgRstDeassert _ => true
  | .reservoirInitDone => true
  | .pwrstReset _ _ _ => true
  | .pwrstModuleIdWrite _ _ _ => true
  | .perstAssert => true
  | .functionLevelReset function => decide (function < 17)
  | .refclkLoss _ => true
  | .cfgStoreWrite area => decide (area < 2)
  | .cfgStoreOp => true
  | .cfgStoreWriteDone => true
  | .cfgstSvnCommit _ _ => true
  | .hostRead _ _ => true
  | .hostWrite _ _ _ => true
  | .dmaTailWrite _ ch _ => decide (ch < 16)
  | .dmaDescriptorRun ch _ => decide (ch < 16)
  | .dmaHostReadTimeout ch => decide (ch < 16)
  | .mctpControl _ => true
  | .pldmSensorRead _ => true
  | .pldmFirmwareUpdate _ => true
  | .vendorFaultLogRead _ _ => true
  | .vendorRegisterRead _ => true
  | .vendorPackageReset => true
  | .maintenanceChallenge => true
  | .maintenanceResponse _ _ => true
  | .jtagBypass => true
  | .jtagIdcode => true
  | .jtagSamplePreload => true
  | .jtagExtest => true
  | .jtagPrivate _ => true
  | .blkLockWrite _ _ _ => true
  | .blkCtrlFreeze _ _ _ => true
  | .blkCtrlClear _ _ _ => true
  | .blkIrqClear _ _ _ => true
  | .faultRecordWrite _ => true
  | .faultLogIdxWrite _ _ _ => true
  | .faultLogRdWrite _ _ _ => true
  | .registerWrite _ _ size _ => (size == 4 || size == 8)
  | .partnerSignalDetect port => decide (port < 24)
  | .powerExitDone _ => true
  | .perstDeassert => true
  | .railLoss _ => true
  | .spareWaitExpiry _ => true
  | .repairHoldExpiry stack half => decide (stack < 16) && decide (half < 2)

/-- The contexts a command names. -/
def Instr.sids : Instr → List Sid
  | .nop sid _ _ => [sid]
  | .sli sid _ _ => [sid]
  | .sadd sid _ _ => [sid]
  | .smul sid _ _ => [sid]
  | .sand sid _ _ => [sid]
  | .sor sid _ _ => [sid]
  | .sxor sid _ _ => [sid]
  | .sshl sid _ _ => [sid]
  | .sshr sid _ _ => [sid]
  | .srd sid _ _ => [sid]
  | .sldp sid _ _ => [sid]
  | .sstp sid _ _ => [sid]
  | .br sid _ _ => [sid]
  | .dldi sid _ _ => [sid]
  | .dld sid _ _ => [sid]
  | .dbase sid _ _ => [sid]
  | .waitc sid _ _ => [sid]
  | .waitcReevaluate sid _ => [sid]
  | .remoteWaitTimeout sid _ => [sid]
  | .fence sid _ _ => [sid]
  | .yield sid _ _ => [sid]
  | .halt sid _ _ => [sid]
  | .endStream sid _ _ => [sid]
  | .ld sid _ _ => [sid]
  | .st sid _ _ => [sid]
  | .gather sid _ _ => [sid]
  | .qpush sid _ _ => [sid]
  | .qpop sid _ _ => [sid]
  | .sta sid _ _ => [sid]
  | .atadd sid _ _ => [sid]
  | .sld sid _ _ => [sid]
  | .scmd sid _ _ => [sid]
  | .sfence sid _ _ => [sid]
  | .lxsub sid _ _ => [sid]
  | .memoryAnswer sid _ => [sid]
  | .mload sid _ _ => [sid]
  | .mma sid _ _ => [sid]
  | .vadd sid _ _ => [sid]
  | .vsub sid _ _ => [sid]
  | .vmul sid _ _ => [sid]
  | .vfma sid _ _ => [sid]
  | .vmax sid _ _ => [sid]
  | .vmin sid _ _ => [sid]
  | .vexp2 sid _ _ => [sid]
  | .vlog2 sid _ _ => [sid]
  | .vrcp sid _ _ => [sid]
  | .vrsq sid _ _ => [sid]
  | .vcvt sid _ _ => [sid]
  | .vrmax sid _ _ => [sid]
  | .vrsum sid _ _ => [sid]
  | .vfill sid _ _ => [sid]
  | .xcopy sid _ _ => [sid]
  | .tmark sid _ _ => [sid]
  | .tileWatchdogExpiry sid => [sid]
  | .queueDeadlock sid => [sid]
  | .streamHoldExpiry _ _ _ => []
  | .schedRingTailWrite _ _ _ _ => []
  | .launchDescriptorCheck _ _ => []
  | .launchResourced _ _ _ => []
  | .launchComplete _ _ _ => []
  | .launchDeadlinePass _ _ _ => []
  | .schedLaunchKill _ _ _ => []
  | .schedTlbInval _ _ _ _ => []
  | .tlbInvalDone => []
  | .schedPartCfgWrite _ _ _ _ => []
  | .schedMcastAllotWrite _ _ _ => []
  | .mcastDeliver _ _ sid => [sid]
  | .mcastHoldExpiry _ _ => []
  | .turnEnd _ _ => []
  | .turnIdleExpiry _ _ => []
  | .turnSwitch _ _ => []
  | .killPointPark sid => [sid]
  | .strandResume sid _ => [sid]
  | .layoutDescriptorCheck _ _ => []
  | .layoutSlice _ => []
  | .layoutComplete _ _ => []
  | .layoutCancel _ _ _ => []
  | .layoutQlimitWrite _ _ _ => []
  | .stkModeWrite _ _ _ => []
  | .stkModeEntryDone _ _ _ => []
  | .stkModeExitDone _ _ => []
  | .stkOwnDataWrite _ _ _ => []
  | .stkQlimitWrite _ _ _ => []
  | .stkNop _ _ => []
  | .attend _ _ => []
  | .gemv _ _ => []
  | .summarise _ _ => []
  | .stkCmdQueueAdmit _ _ => []
  | .sliceStart _ _ => []
  | .sliceEnd _ _ => []
  | .selectionChunk _ => []
  | .stkCmdComplete _ _ => []
  | .stkKill _ _ _ _ => []
  | .stkKillAll _ _ _ _ => []
  | .stkRecRdWrite _ _ _ _ => []
  | .nbuSelfcheckFail _ _ => []
  | .basinReservationGrant _ _ => []
  | .basinPartialArrival _ => []
  | .basinResultWrite _ _ => []
  | .basinRsvRequest _ _ _ => []
  | .basinRsvCancel _ _ _ => []
  | .basinSlotAllotWrite _ _ _ => []
  | .poolWayMaskWrite _ _ _ _ => []
  | .poolWayExclWrite _ _ _ => []
  | .poolSweepDone _ => []
  | .rvrMr4Poll _ _ => []
  | .rvrLinkLoss _ => []
  | .refreshWindowEnd _ => []
  | .scrubVisit _ _ => []
  | .scrubQueuedVisit _ _ => []
  | .scrubPeriodWrite _ _ _ _ => []
  | .scrubFlipArm _ _ _ _ => []
  | .coreFlipArm _ _ _ _ => []
  | .rowRepairRequest _ _ => []
  | .rowRepairRun _ => []
  | .nbuSwapRequest _ _ => []
  | .nbuSwapRun _ _ => []
  | .vcSwapRequest _ _ _ => []
  | .vcSwapRun _ _ => []
  | .repairStarved _ => []
  | .maintSafePoint _ => []
  | .coreRetire _ _ _ _ => []
  | .coreRetireMigrate _ _ => []
  | .bridgeRetry _ => []
  | .bridgeUndeliverable _ by_ _ _ => by_.sids
  | .domainWake _ _ _ => []
  | .domainWakeTimeout _ _ by_ _ => by_.sids
  | .packetWrite _ _ => []
  | .packetRead _ _ => []
  | .packetAtadd _ _ => []
  | .packetCount _ _ => []
  | .packetResponse _ _ => []
  | .breeze _ _ _ => []
  | .timeReq _ _ _ => []
  | .timeRsp _ _ _ _ _ _ => []
  | .loss _ _ _ _ _ => []
  | .mgmtPacket _ _ _ => []
  | .reservedPacket _ _ => []
  | .packetForward _ _ => []
  | .linkReplay _ => []
  | .laneSpareSwap _ _ => []
  | .portDegrade _ => []
  | .vlRetrain _ _ _ => []
  | .retrainTimeout _ => []
  | .vlEnableWrite _ _ _ => []
  | .portTrained _ _ _ _ _ => []
  | .portSignalLoss _ _ => []
  | .portSilence _ => []
  | .breezeIdleExpiry _ => []
  | .vcStall _ _ _ => []
  | .respTimeout _ _ => []
  | .lossGraceExpiry _ => []
  | .timeExchangeTick => []
  | .timeParentFailover => []
  | .timeCfgWrite _ _ _ => []
  | .vlGUnitsWrite _ _ _ _ => []
  | .vrouteRtDataWrite _ _ _ => []
  | .vrouteShadowSubmit _ _ _ => []
  | .shadowDescriptorRun _ => []
  | .shadowDescriptorDone _ => []
  | .vrouteShadowCancel _ _ _ => []
  | .faultDlArm _ _ _ _ => []
  | .faultDlDisarm _ _ _ _ => []
  | .dlCounterChange _ _ => []
  | .dlDeadlinePass _ _ => []
  | .dlMaxLateExpiry _ _ => []
  | .submit _ _ => []
  | .cancel _ => []
  | .resume _ _ => []
  | .query _ => []
  | .releaseShadow _ => []
  | .loadModel _ _ => []
  | .unloadModel _ => []
  | .setPolicy _ _ _ _ _ _ _ => []
  | .sccSqTailWrite _ _ _ => []
  | .sccCqHeadWrite _ _ _ => []
  | .sccQpCfgWrite _ _ _ => []
  | .prefillDone _ => []
  | .stepIssue _ _ _ _ => []
  | .stepCommit _ => []
  | .orphanHoldExpiry _ => []
  | .currentSample _ _ _ => []
  | .powerExcursionTimer => []
  | .clockRaiseTimer => []
  | .scanRound _ _ => []
  | .throttleStepTimer _ => []
  | .tripCompare _ _ _ => []
  | .railOffStep _ => []
  | .avsTransaction _ _ => []
  | .voltageSettled _ => []
  | .pllLockLoss _ => []
  | .pllLockRegain _ => []
  | .estimatorWindow _ _ _ _ _ _ => []
  | .estimatorRegression _ => []
  | .estimatorStale _ => []
  | .heartbeatSend _ => []
  | .heartbeatRx _ _ _ _ => []
  | .capCommandTimeout _ => []
  | .heartbeatLoss _ _ => []
  | .wedgeProbe _ _ => []
  | .sccBeatTimeout _ => []
  | .aliveLapse _ => []
  | .lullIdleExpiry _ => []
  | .lullWake _ => []
  | .calmIdleExpiry => []
  | .calmWake => []
  | .watchCycle _ _ _ => []
  | .powerEntryDone _ => []
  | .coldReset => []
  | .pkgRstAssert => []
  | .pkgRstDeassert _ => []
  | .reservoirInitDone => []
  | .pwrstReset _ _ _ => []
  | .pwrstModuleIdWrite _ _ _ => []
  | .perstAssert => []
  | .functionLevelReset _ => []
  | .refclkLoss _ => []
  | .cfgStoreWrite _ => []
  | .cfgStoreOp => []
  | .cfgStoreWriteDone => []
  | .cfgstSvnCommit _ _ => []
  | .hostRead _ _ => []
  | .hostWrite _ _ _ => []
  | .dmaTailWrite _ _ _ => []
  | .dmaDescriptorRun _ _ => []
  | .dmaHostReadTimeout _ => []
  | .mctpControl _ => []
  | .pldmSensorRead _ => []
  | .pldmFirmwareUpdate _ => []
  | .vendorFaultLogRead _ _ => []
  | .vendorRegisterRead _ => []
  | .vendorPackageReset => []
  | .maintenanceChallenge => []
  | .maintenanceResponse _ _ => []
  | .jtagBypass => []
  | .jtagIdcode => []
  | .jtagSamplePreload => []
  | .jtagExtest => []
  | .jtagPrivate _ => []
  | .blkLockWrite _ _ _ => []
  | .blkCtrlFreeze _ _ _ => []
  | .blkCtrlClear _ _ _ => []
  | .blkIrqClear _ _ _ => []
  | .faultRecordWrite _ => []
  | .faultLogIdxWrite _ _ _ => []
  | .faultLogRdWrite _ _ _ => []
  | .registerWrite _ _ _ _ => []
  | .partnerSignalDetect _ => []
  | .powerExitDone _ => []
  | .perstDeassert => []
  | .railLoss _ => []
  | .spareWaitExpiry _ => []
  | .repairHoldExpiry _ _ => []

/-- The stacks a command names. -/
def Instr.stacks : Instr → List Nat
  | .nop _ _ _ => []
  | .sli _ _ _ => []
  | .sadd _ _ _ => []
  | .smul _ _ _ => []
  | .sand _ _ _ => []
  | .sor _ _ _ => []
  | .sxor _ _ _ => []
  | .sshl _ _ _ => []
  | .sshr _ _ _ => []
  | .srd _ _ _ => []
  | .sldp _ _ _ => []
  | .sstp _ _ _ => []
  | .br _ _ _ => []
  | .dldi _ _ _ => []
  | .dld _ _ _ => []
  | .dbase _ _ _ => []
  | .waitc _ _ _ => []
  | .waitcReevaluate _ _ => []
  | .remoteWaitTimeout _ _ => []
  | .fence _ _ _ => []
  | .yield _ _ _ => []
  | .halt _ _ _ => []
  | .endStream _ _ _ => []
  | .ld _ _ _ => []
  | .st _ _ _ => []
  | .gather _ _ _ => []
  | .qpush _ _ _ => []
  | .qpop _ _ _ => []
  | .sta _ _ _ => []
  | .atadd _ _ _ => []
  | .sld _ _ _ => []
  | .scmd _ _ _ => []
  | .sfence _ _ _ => []
  | .lxsub _ _ _ => []
  | .memoryAnswer _ _ => []
  | .mload _ _ _ => []
  | .mma _ _ _ => []
  | .vadd _ _ _ => []
  | .vsub _ _ _ => []
  | .vmul _ _ _ => []
  | .vfma _ _ _ => []
  | .vmax _ _ _ => []
  | .vmin _ _ _ => []
  | .vexp2 _ _ _ => []
  | .vlog2 _ _ _ => []
  | .vrcp _ _ _ => []
  | .vrsq _ _ _ => []
  | .vcvt _ _ _ => []
  | .vrmax _ _ _ => []
  | .vrsum _ _ _ => []
  | .vfill _ _ _ => []
  | .xcopy _ _ _ => []
  | .tmark _ _ _ => []
  | .tileWatchdogExpiry _ => []
  | .queueDeadlock _ => []
  | .streamHoldExpiry _ _ _ => []
  | .schedRingTailWrite _ _ _ _ => []
  | .launchDescriptorCheck _ _ => []
  | .launchResourced _ _ _ => []
  | .launchComplete _ _ _ => []
  | .launchDeadlinePass _ _ _ => []
  | .schedLaunchKill _ _ _ => []
  | .schedTlbInval _ _ _ _ => []
  | .tlbInvalDone => []
  | .schedPartCfgWrite _ _ _ _ => []
  | .schedMcastAllotWrite _ _ _ => []
  | .mcastDeliver _ _ _ => []
  | .mcastHoldExpiry _ _ => []
  | .turnEnd _ _ => []
  | .turnIdleExpiry _ _ => []
  | .turnSwitch _ _ => []
  | .killPointPark _ => []
  | .strandResume _ _ => []
  | .layoutDescriptorCheck _ _ => []
  | .layoutSlice _ => []
  | .layoutComplete _ _ => []
  | .layoutCancel _ _ _ => []
  | .layoutQlimitWrite _ _ _ => []
  | .stkModeWrite _ stack _ => [stack]
  | .stkModeEntryDone stack _ _ => [stack]
  | .stkModeExitDone stack _ => [stack]
  | .stkOwnDataWrite _ stack _ => [stack]
  | .stkQlimitWrite _ stack _ => [stack]
  | .stkNop stack _ => [stack]
  | .attend stack _ => [stack]
  | .gemv stack _ => [stack]
  | .summarise stack _ => [stack]
  | .stkCmdQueueAdmit stack _ => [stack]
  | .sliceStart stack _ => [stack]
  | .sliceEnd stack _ => [stack]
  | .selectionChunk stack => [stack]
  | .stkCmdComplete stack _ => [stack]
  | .stkKill _ stack _ _ => [stack]
  | .stkKillAll _ stack _ _ => [stack]
  | .stkRecRdWrite _ stack _ _ => [stack]
  | .nbuSelfcheckFail stack _ => [stack]
  | .basinReservationGrant _ _ => []
  | .basinPartialArrival _ => []
  | .basinResultWrite _ _ => []
  | .basinRsvRequest _ _ _ => []
  | .basinRsvCancel _ _ _ => []
  | .basinSlotAllotWrite _ _ _ => []
  | .poolWayMaskWrite _ _ _ _ => []
  | .poolWayExclWrite _ _ _ => []
  | .poolSweepDone _ => []
  | .rvrMr4Poll _ _ => []
  | .rvrLinkLoss _ => []
  | .refreshWindowEnd _ => []
  | .scrubVisit _ _ => []
  | .scrubQueuedVisit _ _ => []
  | .scrubPeriodWrite _ _ _ _ => []
  | .scrubFlipArm _ _ _ _ => []
  | .coreFlipArm _ _ _ _ => []
  | .rowRepairRequest stack _ => [stack]
  | .rowRepairRun stack => [stack]
  | .nbuSwapRequest stack _ => [stack]
  | .nbuSwapRun stack _ => [stack]
  | .vcSwapRequest stack _ _ => [stack]
  | .vcSwapRun stack _ => [stack]
  | .repairStarved stack => [stack]
  | .maintSafePoint _ => []
  | .coreRetire _ _ _ _ => []
  | .coreRetireMigrate _ _ => []
  | .bridgeRetry _ => []
  | .bridgeUndeliverable _ _ _ _ => []
  | .domainWake _ _ _ => []
  | .domainWakeTimeout _ _ _ _ => []
  | .packetWrite _ _ => []
  | .packetRead _ _ => []
  | .packetAtadd _ _ => []
  | .packetCount _ _ => []
  | .packetResponse _ _ => []
  | .breeze _ _ _ => []
  | .timeReq _ _ _ => []
  | .timeRsp _ _ _ _ _ _ => []
  | .loss _ _ _ _ _ => []
  | .mgmtPacket _ _ _ => []
  | .reservedPacket _ _ => []
  | .packetForward _ _ => []
  | .linkReplay _ => []
  | .laneSpareSwap _ _ => []
  | .portDegrade _ => []
  | .vlRetrain _ _ _ => []
  | .retrainTimeout _ => []
  | .vlEnableWrite _ _ _ => []
  | .portTrained _ _ _ _ _ => []
  | .portSignalLoss _ _ => []
  | .portSilence _ => []
  | .breezeIdleExpiry _ => []
  | .vcStall _ _ _ => []
  | .respTimeout _ _ => []
  | .lossGraceExpiry _ => []
  | .timeExchangeTick => []
  | .timeParentFailover => []
  | .timeCfgWrite _ _ _ => []
  | .vlGUnitsWrite _ _ _ _ => []
  | .vrouteRtDataWrite _ _ _ => []
  | .vrouteShadowSubmit _ _ _ => []
  | .shadowDescriptorRun _ => []
  | .shadowDescriptorDone _ => []
  | .vrouteShadowCancel _ _ _ => []
  | .faultDlArm _ _ _ _ => []
  | .faultDlDisarm _ _ _ _ => []
  | .dlCounterChange _ _ => []
  | .dlDeadlinePass _ _ => []
  | .dlMaxLateExpiry _ _ => []
  | .submit _ _ => []
  | .cancel _ => []
  | .resume _ _ => []
  | .query _ => []
  | .releaseShadow _ => []
  | .loadModel _ _ => []
  | .unloadModel _ => []
  | .setPolicy _ _ _ _ _ _ _ => []
  | .sccSqTailWrite _ _ _ => []
  | .sccCqHeadWrite _ _ _ => []
  | .sccQpCfgWrite _ _ _ => []
  | .prefillDone _ => []
  | .stepIssue _ _ _ _ => []
  | .stepCommit _ => []
  | .orphanHoldExpiry _ => []
  | .currentSample _ _ _ => []
  | .powerExcursionTimer => []
  | .clockRaiseTimer => []
  | .scanRound _ _ => []
  | .throttleStepTimer _ => []
  | .tripCompare _ _ _ => []
  | .railOffStep _ => []
  | .avsTransaction _ _ => []
  | .voltageSettled _ => []
  | .pllLockLoss _ => []
  | .pllLockRegain _ => []
  | .estimatorWindow _ _ _ _ _ _ => []
  | .estimatorRegression _ => []
  | .estimatorStale _ => []
  | .heartbeatSend _ => []
  | .heartbeatRx _ _ _ _ => []
  | .capCommandTimeout _ => []
  | .heartbeatLoss _ _ => []
  | .wedgeProbe _ _ => []
  | .sccBeatTimeout _ => []
  | .aliveLapse _ => []
  | .lullIdleExpiry _ => []
  | .lullWake _ => []
  | .calmIdleExpiry => []
  | .calmWake => []
  | .watchCycle _ _ _ => []
  | .powerEntryDone _ => []
  | .coldReset => []
  | .pkgRstAssert => []
  | .pkgRstDeassert _ => []
  | .reservoirInitDone => []
  | .pwrstReset _ _ _ => []
  | .pwrstModuleIdWrite _ _ _ => []
  | .perstAssert => []
  | .functionLevelReset _ => []
  | .refclkLoss _ => []
  | .cfgStoreWrite _ => []
  | .cfgStoreOp => []
  | .cfgStoreWriteDone => []
  | .cfgstSvnCommit _ _ => []
  | .hostRead _ _ => []
  | .hostWrite _ _ _ => []
  | .dmaTailWrite _ _ _ => []
  | .dmaDescriptorRun _ _ => []
  | .dmaHostReadTimeout _ => []
  | .mctpControl _ => []
  | .pldmSensorRead _ => []
  | .pldmFirmwareUpdate _ => []
  | .vendorFaultLogRead _ _ => []
  | .vendorRegisterRead _ => []
  | .vendorPackageReset => []
  | .maintenanceChallenge => []
  | .maintenanceResponse _ _ => []
  | .jtagBypass => []
  | .jtagIdcode => []
  | .jtagSamplePreload => []
  | .jtagExtest => []
  | .jtagPrivate _ => []
  | .blkLockWrite _ _ _ => []
  | .blkCtrlFreeze _ _ _ => []
  | .blkCtrlClear _ _ _ => []
  | .blkIrqClear _ _ _ => []
  | .faultRecordWrite _ => []
  | .faultLogIdxWrite _ _ _ => []
  | .faultLogRdWrite _ _ _ => []
  | .registerWrite _ _ _ _ => []
  | .partnerSignalDetect _ => []
  | .powerExitDone _ => []
  | .perstDeassert => []
  | .railLoss _ => []
  | .spareWaitExpiry _ => []
  | .repairHoldExpiry stack _ => [stack]

/-- The ports a command names. -/
def Instr.ports : Instr → List Nat
  | .nop _ _ _ => []
  | .sli _ _ _ => []
  | .sadd _ _ _ => []
  | .smul _ _ _ => []
  | .sand _ _ _ => []
  | .sor _ _ _ => []
  | .sxor _ _ _ => []
  | .sshl _ _ _ => []
  | .sshr _ _ _ => []
  | .srd _ _ _ => []
  | .sldp _ _ _ => []
  | .sstp _ _ _ => []
  | .br _ _ _ => []
  | .dldi _ _ _ => []
  | .dld _ _ _ => []
  | .dbase _ _ _ => []
  | .waitc _ _ _ => []
  | .waitcReevaluate _ _ => []
  | .remoteWaitTimeout _ _ => []
  | .fence _ _ _ => []
  | .yield _ _ _ => []
  | .halt _ _ _ => []
  | .endStream _ _ _ => []
  | .ld _ _ _ => []
  | .st _ _ _ => []
  | .gather _ _ _ => []
  | .qpush _ _ _ => []
  | .qpop _ _ _ => []
  | .sta _ _ _ => []
  | .atadd _ _ _ => []
  | .sld _ _ _ => []
  | .scmd _ _ _ => []
  | .sfence _ _ _ => []
  | .lxsub _ _ _ => []
  | .memoryAnswer _ _ => []
  | .mload _ _ _ => []
  | .mma _ _ _ => []
  | .vadd _ _ _ => []
  | .vsub _ _ _ => []
  | .vmul _ _ _ => []
  | .vfma _ _ _ => []
  | .vmax _ _ _ => []
  | .vmin _ _ _ => []
  | .vexp2 _ _ _ => []
  | .vlog2 _ _ _ => []
  | .vrcp _ _ _ => []
  | .vrsq _ _ _ => []
  | .vcvt _ _ _ => []
  | .vrmax _ _ _ => []
  | .vrsum _ _ _ => []
  | .vfill _ _ _ => []
  | .xcopy _ _ _ => []
  | .tmark _ _ _ => []
  | .tileWatchdogExpiry _ => []
  | .queueDeadlock _ => []
  | .streamHoldExpiry _ _ _ => []
  | .schedRingTailWrite _ _ _ _ => []
  | .launchDescriptorCheck _ _ => []
  | .launchResourced _ _ _ => []
  | .launchComplete _ _ _ => []
  | .launchDeadlinePass _ _ _ => []
  | .schedLaunchKill _ _ _ => []
  | .schedTlbInval _ _ _ _ => []
  | .tlbInvalDone => []
  | .schedPartCfgWrite _ _ _ _ => []
  | .schedMcastAllotWrite _ _ _ => []
  | .mcastDeliver _ _ _ => []
  | .mcastHoldExpiry _ _ => []
  | .turnEnd _ _ => []
  | .turnIdleExpiry _ _ => []
  | .turnSwitch _ _ => []
  | .killPointPark _ => []
  | .strandResume _ _ => []
  | .layoutDescriptorCheck _ _ => []
  | .layoutSlice _ => []
  | .layoutComplete _ _ => []
  | .layoutCancel _ _ _ => []
  | .layoutQlimitWrite _ _ _ => []
  | .stkModeWrite _ _ _ => []
  | .stkModeEntryDone _ _ _ => []
  | .stkModeExitDone _ _ => []
  | .stkOwnDataWrite _ _ _ => []
  | .stkQlimitWrite _ _ _ => []
  | .stkNop _ _ => []
  | .attend _ _ => []
  | .gemv _ _ => []
  | .summarise _ _ => []
  | .stkCmdQueueAdmit _ _ => []
  | .sliceStart _ _ => []
  | .sliceEnd _ _ => []
  | .selectionChunk _ => []
  | .stkCmdComplete _ _ => []
  | .stkKill _ _ _ _ => []
  | .stkKillAll _ _ _ _ => []
  | .stkRecRdWrite _ _ _ _ => []
  | .nbuSelfcheckFail _ _ => []
  | .basinReservationGrant _ _ => []
  | .basinPartialArrival _ => []
  | .basinResultWrite _ _ => []
  | .basinRsvRequest _ _ _ => []
  | .basinRsvCancel _ _ _ => []
  | .basinSlotAllotWrite _ _ _ => []
  | .poolWayMaskWrite _ _ _ _ => []
  | .poolWayExclWrite _ _ _ => []
  | .poolSweepDone _ => []
  | .rvrMr4Poll _ _ => []
  | .rvrLinkLoss _ => []
  | .refreshWindowEnd _ => []
  | .scrubVisit _ _ => []
  | .scrubQueuedVisit _ _ => []
  | .scrubPeriodWrite _ _ _ _ => []
  | .scrubFlipArm _ _ _ _ => []
  | .coreFlipArm _ _ _ _ => []
  | .rowRepairRequest _ _ => []
  | .rowRepairRun _ => []
  | .nbuSwapRequest _ _ => []
  | .nbuSwapRun _ _ => []
  | .vcSwapRequest _ _ _ => []
  | .vcSwapRun _ _ => []
  | .repairStarved _ => []
  | .maintSafePoint _ => []
  | .coreRetire _ _ _ _ => []
  | .coreRetireMigrate _ _ => []
  | .bridgeRetry _ => []
  | .bridgeUndeliverable _ _ _ _ => []
  | .domainWake _ _ _ => []
  | .domainWakeTimeout _ _ _ _ => []
  | .packetWrite port _ => [port]
  | .packetRead port _ => [port]
  | .packetAtadd port _ => [port]
  | .packetCount port _ => [port]
  | .packetResponse port _ => [port]
  | .breeze from_ _ _ => [from_.port]
  | .timeReq from_ _ _ => [from_.port]
  | .timeRsp from_ _ _ _ _ _ => [from_.port]
  | .loss from_ _ _ _ _ => [from_.port]
  | .mgmtPacket port _ _ => [port]
  | .reservedPacket port _ => [port]
  | .packetForward port _ => [port]
  | .linkReplay ask => [ask.port]
  | .laneSpareSwap port _ => [port]
  | .portDegrade port => [port]
  | .vlRetrain _ port _ => [port]
  | .retrainTimeout port => [port]
  | .vlEnableWrite _ port _ => [port]
  | .portTrained port _ _ _ _ => [port]
  | .portSignalLoss port _ => [port]
  | .portSilence port => [port]
  | .breezeIdleExpiry port => [port]
  | .vcStall port _ _ => [port]
  | .respTimeout _ _ => []
  | .lossGraceExpiry _ => []
  | .timeExchangeTick => []
  | .timeParentFailover => []
  | .timeCfgWrite _ _ _ => []
  | .vlGUnitsWrite _ port _ _ => [port]
  | .vrouteRtDataWrite _ _ _ => []
  | .vrouteShadowSubmit _ _ _ => []
  | .shadowDescriptorRun _ => []
  | .shadowDescriptorDone _ => []
  | .vrouteShadowCancel _ _ _ => []
  | .faultDlArm _ _ _ _ => []
  | .faultDlDisarm _ _ _ _ => []
  | .dlCounterChange _ _ => []
  | .dlDeadlinePass _ _ => []
  | .dlMaxLateExpiry _ _ => []
  | .submit _ _ => []
  | .cancel _ => []
  | .resume _ _ => []
  | .query _ => []
  | .releaseShadow _ => []
  | .loadModel _ _ => []
  | .unloadModel _ => []
  | .setPolicy _ _ _ _ _ _ _ => []
  | .sccSqTailWrite _ _ _ => []
  | .sccCqHeadWrite _ _ _ => []
  | .sccQpCfgWrite _ _ _ => []
  | .prefillDone _ => []
  | .stepIssue _ _ _ _ => []
  | .stepCommit _ => []
  | .orphanHoldExpiry _ => []
  | .currentSample _ _ _ => []
  | .powerExcursionTimer => []
  | .clockRaiseTimer => []
  | .scanRound _ _ => []
  | .throttleStepTimer _ => []
  | .tripCompare _ _ _ => []
  | .railOffStep _ => []
  | .avsTransaction _ _ => []
  | .voltageSettled _ => []
  | .pllLockLoss _ => []
  | .pllLockRegain _ => []
  | .estimatorWindow _ _ _ _ _ _ => []
  | .estimatorRegression _ => []
  | .estimatorStale _ => []
  | .heartbeatSend _ => []
  | .heartbeatRx _ _ _ _ => []
  | .capCommandTimeout _ => []
  | .heartbeatLoss _ _ => []
  | .wedgeProbe _ _ => []
  | .sccBeatTimeout _ => []
  | .aliveLapse _ => []
  | .lullIdleExpiry _ => []
  | .lullWake _ => []
  | .calmIdleExpiry => []
  | .calmWake => []
  | .watchCycle _ _ _ => []
  | .powerEntryDone _ => []
  | .coldReset => []
  | .pkgRstAssert => []
  | .pkgRstDeassert _ => []
  | .reservoirInitDone => []
  | .pwrstReset _ _ _ => []
  | .pwrstModuleIdWrite _ _ _ => []
  | .perstAssert => []
  | .functionLevelReset _ => []
  | .refclkLoss _ => []
  | .cfgStoreWrite _ => []
  | .cfgStoreOp => []
  | .cfgStoreWriteDone => []
  | .cfgstSvnCommit _ _ => []
  | .hostRead _ _ => []
  | .hostWrite _ _ _ => []
  | .dmaTailWrite _ _ _ => []
  | .dmaDescriptorRun _ _ => []
  | .dmaHostReadTimeout _ => []
  | .mctpControl _ => []
  | .pldmSensorRead _ => []
  | .pldmFirmwareUpdate _ => []
  | .vendorFaultLogRead _ _ => []
  | .vendorRegisterRead _ => []
  | .vendorPackageReset => []
  | .maintenanceChallenge => []
  | .maintenanceResponse _ _ => []
  | .jtagBypass => []
  | .jtagIdcode => []
  | .jtagSamplePreload => []
  | .jtagExtest => []
  | .jtagPrivate _ => []
  | .blkLockWrite _ _ _ => []
  | .blkCtrlFreeze _ _ _ => []
  | .blkCtrlClear _ _ _ => []
  | .blkIrqClear _ _ _ => []
  | .faultRecordWrite _ => []
  | .faultLogIdxWrite _ _ _ => []
  | .faultLogRdWrite _ _ _ => []
  | .registerWrite _ _ _ _ => []
  | .partnerSignalDetect port => [port]
  | .powerExitDone _ => []
  | .perstDeassert => []
  | .railLoss _ => []
  | .spareWaitExpiry _ => []
  | .repairHoldExpiry _ _ => []

/-- The partitions a command names. -/
def Instr.parts : Instr → List Nat
  | .nop _ _ _ => []
  | .sli _ _ _ => []
  | .sadd _ _ _ => []
  | .smul _ _ _ => []
  | .sand _ _ _ => []
  | .sor _ _ _ => []
  | .sxor _ _ _ => []
  | .sshl _ _ _ => []
  | .sshr _ _ _ => []
  | .srd _ _ _ => []
  | .sldp _ _ _ => []
  | .sstp _ _ _ => []
  | .br _ _ _ => []
  | .dldi _ _ _ => []
  | .dld _ _ _ => []
  | .dbase _ _ _ => []
  | .waitc _ _ _ => []
  | .waitcReevaluate _ _ => []
  | .remoteWaitTimeout _ _ => []
  | .fence _ _ _ => []
  | .yield _ _ _ => []
  | .halt _ _ _ => []
  | .endStream _ _ _ => []
  | .ld _ _ _ => []
  | .st _ _ _ => []
  | .gather _ _ _ => []
  | .qpush _ _ _ => []
  | .qpop _ _ _ => []
  | .sta _ _ _ => []
  | .atadd _ _ _ => []
  | .sld _ _ _ => []
  | .scmd _ _ _ => []
  | .sfence _ _ _ => []
  | .lxsub _ _ _ => []
  | .memoryAnswer _ _ => []
  | .mload _ _ _ => []
  | .mma _ _ _ => []
  | .vadd _ _ _ => []
  | .vsub _ _ _ => []
  | .vmul _ _ _ => []
  | .vfma _ _ _ => []
  | .vmax _ _ _ => []
  | .vmin _ _ _ => []
  | .vexp2 _ _ _ => []
  | .vlog2 _ _ _ => []
  | .vrcp _ _ _ => []
  | .vrsq _ _ _ => []
  | .vcvt _ _ _ => []
  | .vrmax _ _ _ => []
  | .vrsum _ _ _ => []
  | .vfill _ _ _ => []
  | .xcopy _ _ _ => []
  | .tmark _ _ _ => []
  | .tileWatchdogExpiry _ => []
  | .queueDeadlock _ => []
  | .streamHoldExpiry _ _ _ => []
  | .schedRingTailWrite _ _ _ _ => []
  | .launchDescriptorCheck _ _ => []
  | .launchResourced _ _ _ => []
  | .launchComplete _ _ _ => []
  | .launchDeadlinePass _ _ _ => []
  | .schedLaunchKill _ _ _ => []
  | .schedTlbInval _ _ _ _ => []
  | .tlbInvalDone => []
  | .schedPartCfgWrite _ _ _ _ => []
  | .schedMcastAllotWrite _ _ _ => []
  | .mcastDeliver _ _ _ => []
  | .mcastHoldExpiry _ _ => []
  | .turnEnd _ _ => []
  | .turnIdleExpiry _ _ => []
  | .turnSwitch _ _ => []
  | .killPointPark _ => []
  | .strandResume _ part => [part]
  | .layoutDescriptorCheck _ part => [part]
  | .layoutSlice _ => []
  | .layoutComplete _ part => [part]
  | .layoutCancel _ _ _ => []
  | .layoutQlimitWrite _ _ _ => []
  | .stkModeWrite _ _ _ => []
  | .stkModeEntryDone _ _ _ => []
  | .stkModeExitDone _ _ => []
  | .stkOwnDataWrite _ _ _ => []
  | .stkQlimitWrite _ _ _ => []
  | .stkNop _ _ => []
  | .attend _ _ => []
  | .gemv _ _ => []
  | .summarise _ _ => []
  | .stkCmdQueueAdmit _ part => [part]
  | .sliceStart _ _ => []
  | .sliceEnd _ _ => []
  | .selectionChunk _ => []
  | .stkCmdComplete _ _ => []
  | .stkKill _ _ part _ => [part]
  | .stkKillAll _ _ part _ => [part]
  | .stkRecRdWrite _ _ part _ => [part]
  | .nbuSelfcheckFail _ _ => []
  | .basinReservationGrant _ part => [part]
  | .basinPartialArrival _ => []
  | .basinResultWrite _ _ => []
  | .basinRsvRequest _ _ _ => []
  | .basinRsvCancel _ _ _ => []
  | .basinSlotAllotWrite _ _ _ => []
  | .poolWayMaskWrite _ _ part _ => [part]
  | .poolWayExclWrite _ _ _ => []
  | .poolSweepDone _ => []
  | .rvrMr4Poll _ _ => []
  | .rvrLinkLoss _ => []
  | .refreshWindowEnd _ => []
  | .scrubVisit _ _ => []
  | .scrubQueuedVisit _ _ => []
  | .scrubPeriodWrite _ _ _ _ => []
  | .scrubFlipArm _ _ _ _ => []
  | .coreFlipArm _ _ _ _ => []
  | .rowRepairRequest _ _ => []
  | .rowRepairRun _ => []
  | .nbuSwapRequest _ _ => []
  | .nbuSwapRun _ _ => []
  | .vcSwapRequest _ _ _ => []
  | .vcSwapRun _ _ => []
  | .repairStarved _ => []
  | .maintSafePoint _ => []
  | .coreRetire _ _ _ _ => []
  | .coreRetireMigrate _ _ => []
  | .bridgeRetry _ => []
  | .bridgeUndeliverable _ _ _ _ => []
  | .domainWake _ _ _ => []
  | .domainWakeTimeout _ _ _ _ => []
  | .packetWrite _ _ => []
  | .packetRead _ _ => []
  | .packetAtadd _ _ => []
  | .packetCount _ _ => []
  | .packetResponse _ _ => []
  | .breeze _ _ _ => []
  | .timeReq _ _ _ => []
  | .timeRsp _ _ _ _ _ _ => []
  | .loss _ _ _ _ _ => []
  | .mgmtPacket _ _ _ => []
  | .reservedPacket _ _ => []
  | .packetForward _ _ => []
  | .linkReplay _ => []
  | .laneSpareSwap _ _ => []
  | .portDegrade _ => []
  | .vlRetrain _ _ _ => []
  | .retrainTimeout _ => []
  | .vlEnableWrite _ _ _ => []
  | .portTrained _ _ _ _ _ => []
  | .portSignalLoss _ _ => []
  | .portSilence _ => []
  | .breezeIdleExpiry _ => []
  | .vcStall _ _ _ => []
  | .respTimeout _ _ => []
  | .lossGraceExpiry _ => []
  | .timeExchangeTick => []
  | .timeParentFailover => []
  | .timeCfgWrite _ _ _ => []
  | .vlGUnitsWrite _ _ part _ => [part]
  | .vrouteRtDataWrite _ _ _ => []
  | .vrouteShadowSubmit _ _ _ => []
  | .shadowDescriptorRun _ => []
  | .shadowDescriptorDone _ => []
  | .vrouteShadowCancel _ _ _ => []
  | .faultDlArm _ _ _ _ => []
  | .faultDlDisarm _ _ _ _ => []
  | .dlCounterChange _ _ => []
  | .dlDeadlinePass _ _ => []
  | .dlMaxLateExpiry _ _ => []
  | .submit _ _ => []
  | .cancel _ => []
  | .resume _ _ => []
  | .query _ => []
  | .releaseShadow _ => []
  | .loadModel _ _ => []
  | .unloadModel _ => []
  | .setPolicy _ _ _ _ _ _ _ => []
  | .sccSqTailWrite _ _ _ => []
  | .sccCqHeadWrite _ _ _ => []
  | .sccQpCfgWrite _ _ _ => []
  | .prefillDone _ => []
  | .stepIssue part _ _ _ => [part]
  | .stepCommit part => [part]
  | .orphanHoldExpiry _ => []
  | .currentSample _ _ _ => []
  | .powerExcursionTimer => []
  | .clockRaiseTimer => []
  | .scanRound _ _ => []
  | .throttleStepTimer _ => []
  | .tripCompare _ _ _ => []
  | .railOffStep _ => []
  | .avsTransaction _ _ => []
  | .voltageSettled _ => []
  | .pllLockLoss _ => []
  | .pllLockRegain _ => []
  | .estimatorWindow _ _ _ _ _ _ => []
  | .estimatorRegression _ => []
  | .estimatorStale _ => []
  | .heartbeatSend _ => []
  | .heartbeatRx _ _ _ _ => []
  | .capCommandTimeout _ => []
  | .heartbeatLoss _ _ => []
  | .wedgeProbe _ _ => []
  | .sccBeatTimeout _ => []
  | .aliveLapse _ => []
  | .lullIdleExpiry _ => []
  | .lullWake _ => []
  | .calmIdleExpiry => []
  | .calmWake => []
  | .watchCycle _ _ _ => []
  | .powerEntryDone _ => []
  | .coldReset => []
  | .pkgRstAssert => []
  | .pkgRstDeassert _ => []
  | .reservoirInitDone => []
  | .pwrstReset _ _ _ => []
  | .pwrstModuleIdWrite _ _ _ => []
  | .perstAssert => []
  | .functionLevelReset _ => []
  | .refclkLoss _ => []
  | .cfgStoreWrite _ => []
  | .cfgStoreOp => []
  | .cfgStoreWriteDone => []
  | .cfgstSvnCommit _ _ => []
  | .hostRead _ _ => []
  | .hostWrite _ _ _ => []
  | .dmaTailWrite _ _ _ => []
  | .dmaDescriptorRun _ _ => []
  | .dmaHostReadTimeout _ => []
  | .mctpControl _ => []
  | .pldmSensorRead _ => []
  | .pldmFirmwareUpdate _ => []
  | .vendorFaultLogRead _ _ => []
  | .vendorRegisterRead _ => []
  | .vendorPackageReset => []
  | .maintenanceChallenge => []
  | .maintenanceResponse _ _ => []
  | .jtagBypass => []
  | .jtagIdcode => []
  | .jtagSamplePreload => []
  | .jtagExtest => []
  | .jtagPrivate _ => []
  | .blkLockWrite _ _ _ => []
  | .blkCtrlFreeze _ _ _ => []
  | .blkCtrlClear _ _ _ => []
  | .blkIrqClear _ _ _ => []
  | .faultRecordWrite _ => []
  | .faultLogIdxWrite _ _ _ => []
  | .faultLogRdWrite _ _ _ => []
  | .registerWrite _ _ _ _ => []
  | .partnerSignalDetect _ => []
  | .powerExitDone _ => []
  | .perstDeassert => []
  | .railLoss _ => []
  | .spareWaitExpiry _ => []
  | .repairHoldExpiry _ _ => []

end Sys2Proof
end

