-- ==== Sys2Proof/Laws/PerInstr.lean ====
section
/-!
SUPPORT. Per command: a well-formed command names only contexts, stacks, ports and partitions the part has.
-/
set_option Elab.async false

namespace Sys2Proof.Laws.Ranges

/-- The family's statement about one command, as syntax. -/
def Statement (i : Instr) : Prop :=
  i.wf = true → (∀ x ∈ i.sids, x.core < 96 ∧ x.ctx < 8) ∧ (∀ n ∈ i.stacks, n < 16) ∧ (∀ n ∈ i.ports, n < 24) ∧ ∀ n ∈ i.parts, n < 16

theorem none_ {i : Instr} (h1 : i.sids = []) (h2 : i.stacks = []) (h3 : i.ports = []) (h4 : i.parts = []) : Statement i := by
  intro _
  rw [h1, h2, h3, h4]
  exact ⟨fun _ h => absurd h List.not_mem_nil, fun _ h => absurd h List.not_mem_nil, fun _ h => absurd h List.not_mem_nil,
    fun _ h => absurd h List.not_mem_nil⟩

theorem sid_ {i : Instr} (x : Sid) (h : i.wf = sidOk x) (h1 : i.sids = [x]) (h2 : i.stacks = []) (h3 : i.ports = []) (h4 : i.parts = []) :
    Statement i := by
  intro w
  rw [h] at w
  rw [h1, h2, h3, h4]
  simpa [sidOk] using w

theorem nop (sid : Sid) (str : Stream) (f : SF) : Statement (.nop sid str f) := sid_ sid rfl rfl rfl rfl rfl
theorem sli (sid : Sid) (str : Stream) (f : SF) : Statement (.sli sid str f) := sid_ sid rfl rfl rfl rfl rfl
theorem sadd (sid : Sid) (str : Stream) (f : SF) : Statement (.sadd sid str f) := sid_ sid rfl rfl rfl rfl rfl
theorem smul (sid : Sid) (str : Stream) (f : SF) : Statement (.smul sid str f) := sid_ sid rfl rfl rfl rfl rfl
theorem sand (sid : Sid) (str : Stream) (f : SF) : Statement (.sand sid str f) := sid_ sid rfl rfl rfl rfl rfl
theorem sor (sid : Sid) (str : Stream) (f : SF) : Statement (.sor sid str f) := sid_ sid rfl rfl rfl rfl rfl
theorem sxor (sid : Sid) (str : Stream) (f : SF) : Statement (.sxor sid str f) := sid_ sid rfl rfl rfl rfl rfl
theorem sshl (sid : Sid) (str : Stream) (f : SF) : Statement (.sshl sid str f) := sid_ sid rfl rfl rfl rfl rfl
theorem sshr (sid : Sid) (str : Stream) (f : SF) : Statement (.sshr sid str f) := sid_ sid rfl rfl rfl rfl rfl
theorem srd (sid : Sid) (str : Stream) (f : SF) : Statement (.srd sid str f) := sid_ sid rfl rfl rfl rfl rfl
theorem sldp (sid : Sid) (str : Stream) (f : SF) : Statement (.sldp sid str f) := sid_ sid rfl rfl rfl rfl rfl
theorem sstp (sid : Sid) (str : Stream) (f : SF) : Statement (.sstp sid str f) := sid_ sid rfl rfl rfl rfl rfl
theorem br (sid : Sid) (str : Stream) (f : SF) : Statement (.br sid str f) := sid_ sid rfl rfl rfl rfl rfl
theorem dldi (sid : Sid) (str : Stream) (f : SF) : Statement (.dldi sid str f) := sid_ sid rfl rfl rfl rfl rfl
theorem dld (sid : Sid) (str : Stream) (f : SF) : Statement (.dld sid str f) := sid_ sid rfl rfl rfl rfl rfl
theorem dbase (sid : Sid) (str : Stream) (f : SF) : Statement (.dbase sid str f) := sid_ sid rfl rfl rfl rfl rfl
theorem waitc (sid : Sid) (str : Stream) (f : SF) : Statement (.waitc sid str f) := sid_ sid rfl rfl rfl rfl rfl
theorem waitcReevaluate (sid : Sid) (str : Stream) : Statement (.waitcReevaluate sid str) := sid_ sid rfl rfl rfl rfl rfl
theorem remoteWaitTimeout (sid : Sid) (str : Stream) : Statement (.remoteWaitTimeout sid str) := sid_ sid rfl rfl rfl rfl rfl
theorem fence (sid : Sid) (str : Stream) (f : SF) : Statement (.fence sid str f) := sid_ sid rfl rfl rfl rfl rfl
theorem yield (sid : Sid) (str : Stream) (f : SF) : Statement (.yield sid str f) := sid_ sid rfl rfl rfl rfl rfl
theorem halt (sid : Sid) (str : Stream) (f : SF) : Statement (.halt sid str f) := sid_ sid rfl rfl rfl rfl rfl
theorem endStream (sid : Sid) (str : Stream) (f : SF) : Statement (.endStream sid str f) := sid_ sid rfl rfl rfl rfl rfl
theorem ld (sid : Sid) (str : Stream) (f : MF) : Statement (.ld sid str f) := sid_ sid rfl rfl rfl rfl rfl
theorem st (sid : Sid) (str : Stream) (f : MF) : Statement (.st sid str f) := sid_ sid rfl rfl rfl rfl rfl
theorem gather (sid : Sid) (str : Stream) (f : MF) : Statement (.gather sid str f) := sid_ sid rfl rfl rfl rfl rfl
theorem qpush (sid : Sid) (str : Stream) (f : MF) : Statement (.qpush sid str f) := sid_ sid rfl rfl rfl rfl rfl
theorem qpop (sid : Sid) (str : Stream) (f : MF) : Statement (.qpop sid str f) := sid_ sid rfl rfl rfl rfl rfl
theorem sta (sid : Sid) (str : Stream) (f : MF) : Statement (.sta sid str f) := sid_ sid rfl rfl rfl rfl rfl
theorem atadd (sid : Sid) (str : Stream) (f : SF) : Statement (.atadd sid str f) := sid_ sid rfl rfl rfl rfl rfl
theorem sld (sid : Sid) (str : Stream) (f : SF) : Statement (.sld sid str f) := sid_ sid rfl rfl rfl rfl rfl
theorem scmd (sid : Sid) (str : Stream) (f : MF) : Statement (.scmd sid str f) := sid_ sid rfl rfl rfl rfl rfl
theorem sfence (sid : Sid) (str : Stream) (f : SF) : Statement (.sfence sid str f) := sid_ sid rfl rfl rfl rfl rfl
theorem lxsub (sid : Sid) (str : Stream) (f : MF) : Statement (.lxsub sid str f) := sid_ sid rfl rfl rfl rfl rfl
theorem memoryAnswer (sid : Sid) (id : Nat) : Statement (.memoryAnswer sid id) := sid_ sid rfl rfl rfl rfl rfl
theorem mload (sid : Sid) (str : Stream) (f : TF) : Statement (.mload sid str f) := sid_ sid rfl rfl rfl rfl rfl
theorem mma (sid : Sid) (str : Stream) (f : TF) : Statement (.mma sid str f) := sid_ sid rfl rfl rfl rfl rfl
theorem vadd (sid : Sid) (str : Stream) (f : TF) : Statement (.vadd sid str f) := sid_ sid rfl rfl rfl rfl rfl
theorem vsub (sid : Sid) (str : Stream) (f : TF) : Statement (.vsub sid str f) := sid_ sid rfl rfl rfl rfl rfl
theorem vmul (sid : Sid) (str : Stream) (f : TF) : Statement (.vmul sid str f) := sid_ sid rfl rfl rfl rfl rfl
theorem vfma (sid : Sid) (str : Stream) (f : TF) : Statement (.vfma sid str f) := sid_ sid rfl rfl rfl rfl rfl
theorem vmax (sid : Sid) (str : Stream) (f : TF) : Statement (.vmax sid str f) := sid_ sid rfl rfl rfl rfl rfl
theorem vmin (sid : Sid) (str : Stream) (f : TF) : Statement (.vmin sid str f) := sid_ sid rfl rfl rfl rfl rfl
theorem vexp2 (sid : Sid) (str : Stream) (f : TF) : Statement (.vexp2 sid str f) := sid_ sid rfl rfl rfl rfl rfl
theorem vlog2 (sid : Sid) (str : Stream) (f : TF) : Statement (.vlog2 sid str f) := sid_ sid rfl rfl rfl rfl rfl
theorem vrcp (sid : Sid) (str : Stream) (f : TF) : Statement (.vrcp sid str f) := sid_ sid rfl rfl rfl rfl rfl
theorem vrsq (sid : Sid) (str : Stream) (f : TF) : Statement (.vrsq sid str f) := sid_ sid rfl rfl rfl rfl rfl
theorem vcvt (sid : Sid) (str : Stream) (f : TF) : Statement (.vcvt sid str f) := sid_ sid rfl rfl rfl rfl rfl
theorem vrmax (sid : Sid) (str : Stream) (f : TF) : Statement (.vrmax sid str f) := sid_ sid rfl rfl rfl rfl rfl
theorem vrsum (sid : Sid) (str : Stream) (f : TF) : Statement (.vrsum sid str f) := sid_ sid rfl rfl rfl rfl rfl
theorem vfill (sid : Sid) (str : Stream) (f : TF) : Statement (.vfill sid str f) := sid_ sid rfl rfl rfl rfl rfl
theorem xcopy (sid : Sid) (str : Stream) (f : TF) : Statement (.xcopy sid str f) := sid_ sid rfl rfl rfl rfl rfl
theorem tmark (sid : Sid) (str : Stream) (f : TF) : Statement (.tmark sid str f) := sid_ sid rfl rfl rfl rfl rfl
theorem tileWatchdogExpiry (sid : Sid) : Statement (.tileWatchdogExpiry sid) := sid_ sid rfl rfl rfl rfl rfl
theorem queueDeadlock (sid : Sid) : Statement (.queueDeadlock sid) := sid_ sid rfl rfl rfl rfl rfl
theorem streamHoldExpiry (die : Die) (core : Nat) (str : Stream) : Statement (.streamHoldExpiry die core str) := none_ rfl rfl rfl rfl
theorem schedRingTailWrite (who : Who) (die : Die) (ring : Nat) (value : Nat) : Statement (.schedRingTailWrite who die ring value) := none_ rfl rfl rfl rfl
theorem launchDescriptorCheck (die : Die) (ring : Nat) : Statement (.launchDescriptorCheck die ring) := none_ rfl rfl rfl rfl
theorem launchResourced (die : Die) (ring : Nat) (index : Nat) : Statement (.launchResourced die ring index) := none_ rfl rfl rfl rfl
theorem launchComplete (die : Die) (ring : Nat) (index : Nat) : Statement (.launchComplete die ring index) := none_ rfl rfl rfl rfl
theorem launchDeadlinePass (die : Die) (ring : Nat) (index : Nat) : Statement (.launchDeadlinePass die ring index) := none_ rfl rfl rfl rfl
theorem schedLaunchKill (who : Who) (die : Die) (value : Word) : Statement (.schedLaunchKill who die value) := none_ rfl rfl rfl rfl
theorem schedTlbInval (who : Who) (die : Die) (word : Nat) (value : Word) : Statement (.schedTlbInval who die word value) := none_ rfl rfl rfl rfl
theorem tlbInvalDone : Statement (.tlbInvalDone) := none_ rfl rfl rfl rfl
theorem schedPartCfgWrite (who : Who) (die : Die) (off : Nat) (value : Nat) : Statement (.schedPartCfgWrite who die off value) := none_ rfl rfl rfl rfl
theorem schedMcastAllotWrite (who : Who) (die : Die) (value : Word) : Statement (.schedMcastAllotWrite who die value) := none_ rfl rfl rfl rfl
theorem mcastDeliver (die : Die) (entry : Nat) (sid : Sid) : Statement (.mcastDeliver die entry sid) := sid_ sid rfl rfl rfl rfl rfl
theorem mcastHoldExpiry (die : Die) (entry : Nat) : Statement (.mcastHoldExpiry die entry) := none_ rfl rfl rfl rfl
theorem turnEnd (die : Die) (core : Nat) : Statement (.turnEnd die core) := none_ rfl rfl rfl rfl
theorem turnIdleExpiry (die : Die) (core : Nat) : Statement (.turnIdleExpiry die core) := none_ rfl rfl rfl rfl
theorem turnSwitch (die : Die) (core : Nat) : Statement (.turnSwitch die core) := none_ rfl rfl rfl rfl
theorem killPointPark (sid : Sid) : Statement (.killPointPark sid) := sid_ sid rfl rfl rfl rfl rfl
theorem strandResume (sid : Sid) (part : Nat) : Statement (.strandResume sid part) := by
  intro h
  have w : (sidOk sid && decide (part < 16)) = true := h
  show (∀ x ∈ ([sid] : List Sid), x.core < 96 ∧ x.ctx < 8) ∧ (∀ n ∈ ([] : List Nat), n < 16) ∧ (∀ n ∈ ([] : List Nat), n < 24) ∧ ∀ n ∈ ([part] : List Nat), n < 16
  simp_all [sidOk]
theorem layoutDescriptorCheck (die : Die) (part : Nat) : Statement (.layoutDescriptorCheck die part) := by
  intro h
  have w : (decide (part < 16)) = true := h
  show (∀ x ∈ ([] : List Sid), x.core < 96 ∧ x.ctx < 8) ∧ (∀ n ∈ ([] : List Nat), n < 16) ∧ (∀ n ∈ ([] : List Nat), n < 24) ∧ ∀ n ∈ ([part] : List Nat), n < 16
  simp_all
theorem layoutSlice (die : Die) : Statement (.layoutSlice die) := none_ rfl rfl rfl rfl
theorem layoutComplete (die : Die) (part : Nat) : Statement (.layoutComplete die part) := by
  intro h
  have w : (decide (part < 16)) = true := h
  show (∀ x ∈ ([] : List Sid), x.core < 96 ∧ x.ctx < 8) ∧ (∀ n ∈ ([] : List Nat), n < 16) ∧ (∀ n ∈ ([] : List Nat), n < 24) ∧ ∀ n ∈ ([part] : List Nat), n < 16
  simp_all
theorem layoutCancel (who : Who) (die : Die) (value : Word) : Statement (.layoutCancel who die value) := none_ rfl rfl rfl rfl
theorem layoutQlimitWrite (who : Who) (die : Die) (value : Word) : Statement (.layoutQlimitWrite who die value) := none_ rfl rfl rfl rfl
theorem stkModeWrite (who : Who) (stack : Nat) (value : Word) : Statement (.stkModeWrite who stack value) := by
  intro h
  have w : (decide (stack < 16)) = true := h
  show (∀ x ∈ ([] : List Sid), x.core < 96 ∧ x.ctx < 8) ∧ (∀ n ∈ ([stack] : List Nat), n < 16) ∧ (∀ n ∈ ([] : List Nat), n < 24) ∧ ∀ n ∈ ([] : List Nat), n < 16
  simp_all
theorem stkModeEntryDone (stack : Nat) (half : Nat) (failed : List Nat) : Statement (.stkModeEntryDone stack half failed) := by
  intro h
  have w : (decide (stack < 16) && decide (half < 2)) = true := h
  show (∀ x ∈ ([] : List Sid), x.core < 96 ∧ x.ctx < 8) ∧ (∀ n ∈ ([stack] : List Nat), n < 16) ∧ (∀ n ∈ ([] : List Nat), n < 24) ∧ ∀ n ∈ ([] : List Nat), n < 16
  simp_all
theorem stkModeExitDone (stack : Nat) (half : Nat) : Statement (.stkModeExitDone stack half) := by
  intro h
  have w : (decide (stack < 16) && decide (half < 2)) = true := h
  show (∀ x ∈ ([] : List Sid), x.core < 96 ∧ x.ctx < 8) ∧ (∀ n ∈ ([stack] : List Nat), n < 16) ∧ (∀ n ∈ ([] : List Nat), n < 24) ∧ ∀ n ∈ ([] : List Nat), n < 16
  simp_all
theorem stkOwnDataWrite (who : Who) (stack : Nat) (value : Word) : Statement (.stkOwnDataWrite who stack value) := by
  intro h
  have w : (decide (stack < 16)) = true := h
  show (∀ x ∈ ([] : List Sid), x.core < 96 ∧ x.ctx < 8) ∧ (∀ n ∈ ([stack] : List Nat), n < 16) ∧ (∀ n ∈ ([] : List Nat), n < 24) ∧ ∀ n ∈ ([] : List Nat), n < 16
  simp_all
theorem stkQlimitWrite (who : Who) (stack : Nat) (value : Word) : Statement (.stkQlimitWrite who stack value) := by
  intro h
  have w : (decide (stack < 16)) = true := h
  show (∀ x ∈ ([] : List Sid), x.core < 96 ∧ x.ctx < 8) ∧ (∀ n ∈ ([stack] : List Nat), n < 16) ∧ (∀ n ∈ ([] : List Nat), n < 24) ∧ ∀ n ∈ ([] : List Nat), n < 16
  simp_all
theorem stkNop (stack : Nat) (src : CmdSource) : Statement (.stkNop stack src) := by
  intro h
  have w : (decide (stack < 16)) = true := h
  show (∀ x ∈ ([] : List Sid), x.core < 96 ∧ x.ctx < 8) ∧ (∀ n ∈ ([stack] : List Nat), n < 16) ∧ (∀ n ∈ ([] : List Nat), n < 24) ∧ ∀ n ∈ ([] : List Nat), n < 16
  simp_all
theorem attend (stack : Nat) (src : CmdSource) : Statement (.attend stack src) := by
  intro h
  have w : (decide (stack < 16)) = true := h
  show (∀ x ∈ ([] : List Sid), x.core < 96 ∧ x.ctx < 8) ∧ (∀ n ∈ ([stack] : List Nat), n < 16) ∧ (∀ n ∈ ([] : List Nat), n < 24) ∧ ∀ n ∈ ([] : List Nat), n < 16
  simp_all
theorem gemv (stack : Nat) (src : CmdSource) : Statement (.gemv stack src) := by
  intro h
  have w : (decide (stack < 16)) = true := h
  show (∀ x ∈ ([] : List Sid), x.core < 96 ∧ x.ctx < 8) ∧ (∀ n ∈ ([stack] : List Nat), n < 16) ∧ (∀ n ∈ ([] : List Nat), n < 24) ∧ ∀ n ∈ ([] : List Nat), n < 16
  simp_all
theorem summarise (stack : Nat) (src : CmdSource) : Statement (.summarise stack src) := by
  intro h
  have w : (decide (stack < 16)) = true := h
  show (∀ x ∈ ([] : List Sid), x.core < 96 ∧ x.ctx < 8) ∧ (∀ n ∈ ([stack] : List Nat), n < 16) ∧ (∀ n ∈ ([] : List Nat), n < 24) ∧ ∀ n ∈ ([] : List Nat), n < 16
  simp_all
theorem stkCmdQueueAdmit (stack : Nat) (part : Nat) : Statement (.stkCmdQueueAdmit stack part) := by
  intro h
  have w : (decide (stack < 16) && decide (part < 16)) = true := h
  show (∀ x ∈ ([] : List Sid), x.core < 96 ∧ x.ctx < 8) ∧ (∀ n ∈ ([stack] : List Nat), n < 16) ∧ (∀ n ∈ ([] : List Nat), n < 24) ∧ ∀ n ∈ ([part] : List Nat), n < 16
  simp_all
theorem sliceStart (stack : Nat) (nbu : Nat) : Statement (.sliceStart stack nbu) := by
  intro h
  have w : (decide (stack < 16) && decide (nbu < 512)) = true := h
  show (∀ x ∈ ([] : List Sid), x.core < 96 ∧ x.ctx < 8) ∧ (∀ n ∈ ([stack] : List Nat), n < 16) ∧ (∀ n ∈ ([] : List Nat), n < 24) ∧ ∀ n ∈ ([] : List Nat), n < 16
  simp_all
theorem sliceEnd (stack : Nat) (nbu : Nat) : Statement (.sliceEnd stack nbu) := by
  intro h
  have w : (decide (stack < 16) && decide (nbu < 512)) = true := h
  show (∀ x ∈ ([] : List Sid), x.core < 96 ∧ x.ctx < 8) ∧ (∀ n ∈ ([stack] : List Nat), n < 16) ∧ (∀ n ∈ ([] : List Nat), n < 24) ∧ ∀ n ∈ ([] : List Nat), n < 16
  simp_all
theorem selectionChunk (stack : Nat) : Statement (.selectionChunk stack) := by
  intro h
  have w : (decide (stack < 16)) = true := h
  show (∀ x ∈ ([] : List Sid), x.core < 96 ∧ x.ctx < 8) ∧ (∀ n ∈ ([stack] : List Nat), n < 16) ∧ (∀ n ∈ ([] : List Nat), n < 24) ∧ ∀ n ∈ ([] : List Nat), n < 16
  simp_all
theorem stkCmdComplete (stack : Nat) (uid : Nat) : Statement (.stkCmdComplete stack uid) := by
  intro h
  have w : (decide (stack < 16)) = true := h
  show (∀ x ∈ ([] : List Sid), x.core < 96 ∧ x.ctx < 8) ∧ (∀ n ∈ ([stack] : List Nat), n < 16) ∧ (∀ n ∈ ([] : List Nat), n < 24) ∧ ∀ n ∈ ([] : List Nat), n < 16
  simp_all
theorem stkKill (who : Who) (stack : Nat) (part : Nat) (value : Word) : Statement (.stkKill who stack part value) := by
  intro h
  have w : (decide (stack < 16) && decide (part < 16)) = true := h
  show (∀ x ∈ ([] : List Sid), x.core < 96 ∧ x.ctx < 8) ∧ (∀ n ∈ ([stack] : List Nat), n < 16) ∧ (∀ n ∈ ([] : List Nat), n < 24) ∧ ∀ n ∈ ([part] : List Nat), n < 16
  simp_all
theorem stkKillAll (who : Who) (stack : Nat) (part : Nat) (value : Word) : Statement (.stkKillAll who stack part value) := by
  intro h
  have w : (decide (stack < 16) && decide (part < 16)) = true := h
  show (∀ x ∈ ([] : List Sid), x.core < 96 ∧ x.ctx < 8) ∧ (∀ n ∈ ([stack] : List Nat), n < 16) ∧ (∀ n ∈ ([] : List Nat), n < 24) ∧ ∀ n ∈ ([part] : List Nat), n < 16
  simp_all
theorem stkRecRdWrite (who : Who) (stack : Nat) (part : Nat) (value : Word) : Statement (.stkRecRdWrite who stack part value) := by
  intro h
  have w : (decide (stack < 16) && decide (part < 16)) = true := h
  show (∀ x ∈ ([] : List Sid), x.core < 96 ∧ x.ctx < 8) ∧ (∀ n ∈ ([stack] : List Nat), n < 16) ∧ (∀ n ∈ ([] : List Nat), n < 24) ∧ ∀ n ∈ ([part] : List Nat), n < 16
  simp_all
theorem nbuSelfcheckFail (stack : Nat) (nbu : Nat) : Statement (.nbuSelfcheckFail stack nbu) := by
  intro h
  have w : (decide (stack < 16) && decide (nbu < 512)) = true := h
  show (∀ x ∈ ([] : List Sid), x.core < 96 ∧ x.ctx < 8) ∧ (∀ n ∈ ([stack] : List Nat), n < 16) ∧ (∀ n ∈ ([] : List Nat), n < 24) ∧ ∀ n ∈ ([] : List Nat), n < 16
  simp_all
theorem basinReservationGrant (die : Die) (part : Nat) : Statement (.basinReservationGrant die part) := by
  intro h
  have w : (decide (part < 16)) = true := h
  show (∀ x ∈ ([] : List Sid), x.core < 96 ∧ x.ctx < 8) ∧ (∀ n ∈ ([] : List Nat), n < 16) ∧ (∀ n ∈ ([] : List Nat), n < 24) ∧ ∀ n ∈ ([part] : List Nat), n < 16
  simp_all
theorem basinPartialArrival (die : Die) : Statement (.basinPartialArrival die) := none_ rfl rfl rfl rfl
theorem basinResultWrite (die : Die) (handle : Nat) : Statement (.basinResultWrite die handle) := none_ rfl rfl rfl rfl
theorem basinRsvRequest (who : Who) (die : Die) (value : Word) : Statement (.basinRsvRequest who die value) := none_ rfl rfl rfl rfl
theorem basinRsvCancel (who : Who) (die : Die) (value : Word) : Statement (.basinRsvCancel who die value) := none_ rfl rfl rfl rfl
theorem basinSlotAllotWrite (who : Who) (die : Die) (value : Word) : Statement (.basinSlotAllotWrite who die value) := none_ rfl rfl rfl rfl
theorem poolWayMaskWrite (who : Who) (die : Die) (part : Nat) (value : Word) : Statement (.poolWayMaskWrite who die part value) := by
  intro h
  have w : (decide (part < 16)) = true := h
  show (∀ x ∈ ([] : List Sid), x.core < 96 ∧ x.ctx < 8) ∧ (∀ n ∈ ([] : List Nat), n < 16) ∧ (∀ n ∈ ([] : List Nat), n < 24) ∧ ∀ n ∈ ([part] : List Nat), n < 16
  simp_all
theorem poolWayExclWrite (who : Who) (die : Die) (value : Word) : Statement (.poolWayExclWrite who die value) := none_ rfl rfl rfl rfl
theorem poolSweepDone (die : Die) : Statement (.poolSweepDone die) := none_ rfl rfl rfl rfl
theorem rvrMr4Poll (c : Nat) (report : List (Nat × Bool)) : Statement (.rvrMr4Poll c report) := none_ rfl rfl rfl rfl
theorem rvrLinkLoss (c : Nat) : Statement (.rvrLinkLoss c) := none_ rfl rfl rfl rfl
theorem refreshWindowEnd (res : Resource) : Statement (.refreshWindowEnd res) := none_ rfl rfl rfl rfl
theorem scrubVisit (die : Die) (inst : Nat) : Statement (.scrubVisit die inst) := none_ rfl rfl rfl rfl
theorem scrubQueuedVisit (die : Die) (inst : Nat) : Statement (.scrubQueuedVisit die inst) := none_ rfl rfl rfl rfl
theorem scrubPeriodWrite (who : Who) (die : Die) (inst : Nat) (value : Word) : Statement (.scrubPeriodWrite who die inst value) := none_ rfl rfl rfl rfl
theorem scrubFlipArm (who : Who) (die : Die) (inst : Nat) (value : Word) : Statement (.scrubFlipArm who die inst value) := none_ rfl rfl rfl rfl
theorem coreFlipArm (who : Who) (die : Die) (inst : Nat) (value : Word) : Statement (.coreFlipArm who die inst value) := none_ rfl rfl rfl rfl
theorem rowRepairRequest (stack : Nat) (off : Nat) : Statement (.rowRepairRequest stack off) := by
  intro h
  have w : (decide (stack < 16)) = true := h
  show (∀ x ∈ ([] : List Sid), x.core < 96 ∧ x.ctx < 8) ∧ (∀ n ∈ ([stack] : List Nat), n < 16) ∧ (∀ n ∈ ([] : List Nat), n < 24) ∧ ∀ n ∈ ([] : List Nat), n < 16
  simp_all
theorem rowRepairRun (stack : Nat) : Statement (.rowRepairRun stack) := by
  intro h
  have w : (decide (stack < 16)) = true := h
  show (∀ x ∈ ([] : List Sid), x.core < 96 ∧ x.ctx < 8) ∧ (∀ n ∈ ([stack] : List Nat), n < 16) ∧ (∀ n ∈ ([] : List Nat), n < 24) ∧ ∀ n ∈ ([] : List Nat), n < 16
  simp_all
theorem nbuSwapRequest (stack : Nat) (nbu : Nat) : Statement (.nbuSwapRequest stack nbu) := by
  intro h
  have w : (decide (stack < 16) && decide (nbu < 512)) = true := h
  show (∀ x ∈ ([] : List Sid), x.core < 96 ∧ x.ctx < 8) ∧ (∀ n ∈ ([stack] : List Nat), n < 16) ∧ (∀ n ∈ ([] : List Nat), n < 24) ∧ ∀ n ∈ ([] : List Nat), n < 16
  simp_all
theorem nbuSwapRun (stack : Nat) (dramDie : Nat) : Statement (.nbuSwapRun stack dramDie) := by
  intro h
  have w : (decide (stack < 16)) = true := h
  show (∀ x ∈ ([] : List Sid), x.core < 96 ∧ x.ctx < 8) ∧ (∀ n ∈ ([stack] : List Nat), n < 16) ∧ (∀ n ∈ ([] : List Nat), n < 24) ∧ ∀ n ∈ ([] : List Nat), n < 16
  simp_all
theorem vcSwapRequest (stack : Nat) (group : Nat) (conn : Nat) : Statement (.vcSwapRequest stack group conn) := by
  intro h
  have w : (decide (stack < 16)) = true := h
  show (∀ x ∈ ([] : List Sid), x.core < 96 ∧ x.ctx < 8) ∧ (∀ n ∈ ([stack] : List Nat), n < 16) ∧ (∀ n ∈ ([] : List Nat), n < 24) ∧ ∀ n ∈ ([] : List Nat), n < 16
  simp_all
theorem vcSwapRun (stack : Nat) (group : Nat) : Statement (.vcSwapRun stack group) := by
  intro h
  have w : (decide (stack < 16)) = true := h
  show (∀ x ∈ ([] : List Sid), x.core < 96 ∧ x.ctx < 8) ∧ (∀ n ∈ ([stack] : List Nat), n < 16) ∧ (∀ n ∈ ([] : List Nat), n < 24) ∧ ∀ n ∈ ([] : List Nat), n < 16
  simp_all
theorem repairStarved (stack : Nat) : Statement (.repairStarved stack) := by
  intro h
  have w : (decide (stack < 16)) = true := h
  show (∀ x ∈ ([] : List Sid), x.core < 96 ∧ x.ctx < 8) ∧ (∀ n ∈ ([stack] : List Nat), n < 16) ∧ (∀ n ∈ ([] : List Nat), n < 24) ∧ ∀ n ∈ ([] : List Nat), n < 16
  simp_all
theorem maintSafePoint (res : Resource) : Statement (.maintSafePoint res) := none_ rfl rfl rfl rfl
theorem coreRetire (who : Who) (die : Die) (inst : Nat) (value : Word) : Statement (.coreRetire who die inst value) := none_ rfl rfl rfl rfl
theorem coreRetireMigrate (die : Die) (inst : Nat) : Statement (.coreRetireMigrate die inst) := none_ rfl rfl rfl rfl
theorem bridgeRetry (die : Die) : Statement (.bridgeRetry die) := none_ rfl rfl rfl rfl
theorem bridgeUndeliverable (die : Die) (by_ : Requester) (addr retries : Nat) : Statement (.bridgeUndeliverable die by_ addr retries) := by
  intro h
  have w : (by_.ok) = true := h
  show (∀ x ∈ (by_.sids : List Sid), x.core < 96 ∧ x.ctx < 8) ∧ (∀ n ∈ ([] : List Nat), n < 16) ∧ (∀ n ∈ ([] : List Nat), n < 24) ∧ ∀ n ∈ ([] : List Nat), n < 16
  cases by_ <;> simp_all [sidOk, Requester.ok, Requester.sids]
theorem domainWake (die : Die) (domain : Nat) (request : Nat) : Statement (.domainWake die domain request) := none_ rfl rfl rfl rfl
theorem domainWakeTimeout (die : Die) (domain : Nat) (by_ : Requester) (addr : Nat) : Statement (.domainWakeTimeout die domain by_ addr) := by
  intro h
  have w : (decide (domain < 7) && by_.ok) = true := h
  show (∀ x ∈ (by_.sids : List Sid), x.core < 96 ∧ x.ctx < 8) ∧ (∀ n ∈ ([] : List Nat), n < 16) ∧ (∀ n ∈ ([] : List Nat), n < 24) ∧ ∀ n ∈ ([] : List Nat), n < 16
  cases by_ <;> simp_all [sidOk, Requester.ok, Requester.sids]
theorem packetWrite (port : Nat) (pkt : Packet) : Statement (.packetWrite port pkt) := by
  intro h
  have w : (decide (port < 24) && pkt.ok) = true := h
  show (∀ x ∈ ([] : List Sid), x.core < 96 ∧ x.ctx < 8) ∧ (∀ n ∈ ([] : List Nat), n < 16) ∧ (∀ n ∈ ([port] : List Nat), n < 24) ∧ ∀ n ∈ ([] : List Nat), n < 16
  simp_all
theorem packetRead (port : Nat) (pkt : Packet) : Statement (.packetRead port pkt) := by
  intro h
  have w : (decide (port < 24) && pkt.ok) = true := h
  show (∀ x ∈ ([] : List Sid), x.core < 96 ∧ x.ctx < 8) ∧ (∀ n ∈ ([] : List Nat), n < 16) ∧ (∀ n ∈ ([port] : List Nat), n < 24) ∧ ∀ n ∈ ([] : List Nat), n < 16
  simp_all
theorem packetAtadd (port : Nat) (pkt : Packet) : Statement (.packetAtadd port pkt) := by
  intro h
  have w : (decide (port < 24) && pkt.ok) = true := h
  show (∀ x ∈ ([] : List Sid), x.core < 96 ∧ x.ctx < 8) ∧ (∀ n ∈ ([] : List Nat), n < 16) ∧ (∀ n ∈ ([port] : List Nat), n < 24) ∧ ∀ n ∈ ([] : List Nat), n < 16
  simp_all
theorem packetCount (port : Nat) (pkt : Packet) : Statement (.packetCount port pkt) := by
  intro h
  have w : (decide (port < 24) && pkt.ok) = true := h
  show (∀ x ∈ ([] : List Sid), x.core < 96 ∧ x.ctx < 8) ∧ (∀ n ∈ ([] : List Nat), n < 16) ∧ (∀ n ∈ ([port] : List Nat), n < 24) ∧ ∀ n ∈ ([] : List Nat), n < 16
  simp_all
theorem packetResponse (port : Nat) (pkt : Packet) : Statement (.packetResponse port pkt) := by
  intro h
  have w : (decide (port < 24) && pkt.ok) = true := h
  show (∀ x ∈ ([] : List Sid), x.core < 96 ∧ x.ctx < 8) ∧ (∀ n ∈ ([] : List Nat), n < 16) ∧ (∀ n ∈ ([port] : List Nat), n < 24) ∧ ∀ n ∈ ([] : List Nat), n < 16
  simp_all
theorem breeze (from_ : LinkIn) (stamp : BitVec 32) (split : Bool) : Statement (.breeze from_ stamp split) := by
  intro h
  have w : (decide (from_.port < 24) && from_.link.ok) = true := h
  show (∀ x ∈ ([] : List Sid), x.core < 96 ∧ x.ctx < 8) ∧ (∀ n ∈ ([] : List Nat), n < 16) ∧ (∀ n ∈ ([from_.port] : List Nat), n < 24) ∧ ∀ n ∈ ([] : List Nat), n < 16
  simp_all
theorem timeReq (from_ : LinkIn) (t1 : Nat) (src : Nat) : Statement (.timeReq from_ t1 src) := by
  intro h
  have w : (decide (from_.port < 24) && from_.link.ok) = true := h
  show (∀ x ∈ ([] : List Sid), x.core < 96 ∧ x.ctx < 8) ∧ (∀ n ∈ ([] : List Nat), n < 16) ∧ (∀ n ∈ ([from_.port] : List Nat), n < 24) ∧ ∀ n ∈ ([] : List Nat), n < 16
  simp_all
theorem timeRsp (from_ : LinkIn) (t1 t2 turn : Nat) (depth : Nat) (asymNs : Int) : Statement (.timeRsp from_ t1 t2 turn depth asymNs) := by
  intro h
  have w : (decide (from_.port < 24) && from_.link.ok) = true := h
  show (∀ x ∈ ([] : List Sid), x.core < 96 ∧ x.ctx < 8) ∧ (∀ n ∈ ([] : List Nat), n < 16) ∧ (∀ n ∈ ([from_.port] : List Nat), n < 24) ∧ ∀ n ∈ ([] : List Nat), n < 16
  simp_all
theorem loss (from_ : LinkIn) (stamp : BitVec 32) (module reporter : Nat) (hops : Nat) : Statement (.loss from_ stamp module reporter hops) := by
  intro h
  have w : (decide (from_.port < 24) && from_.link.ok) = true := h
  show (∀ x ∈ ([] : List Sid), x.core < 96 ∧ x.ctx < 8) ∧ (∀ n ∈ ([] : List Nat), n < 16) ∧ (∀ n ∈ ([from_.port] : List Nat), n < 24) ∧ ∀ n ∈ ([] : List Nat), n < 16
  simp_all
theorem mgmtPacket (port : Nat) (pkt : Packet) (req : MgmtReq) : Statement (.mgmtPacket port pkt req) := by
  intro h
  have w : (decide (port < 24) && pkt.ok) = true := h
  show (∀ x ∈ ([] : List Sid), x.core < 96 ∧ x.ctx < 8) ∧ (∀ n ∈ ([] : List Nat), n < 16) ∧ (∀ n ∈ ([port] : List Nat), n < 24) ∧ ∀ n ∈ ([] : List Nat), n < 16
  simp_all
theorem reservedPacket (port : Nat) (pkt : Packet) : Statement (.reservedPacket port pkt) := by
  intro h
  have w : (decide (port < 24) && pkt.ok) = true := h
  show (∀ x ∈ ([] : List Sid), x.core < 96 ∧ x.ctx < 8) ∧ (∀ n ∈ ([] : List Nat), n < 16) ∧ (∀ n ∈ ([port] : List Nat), n < 24) ∧ ∀ n ∈ ([] : List Nat), n < 16
  simp_all
theorem packetForward (port : Nat) (pkt : Packet) : Statement (.packetForward port pkt) := by
  intro h
  have w : (decide (port < 24) && pkt.ok) = true := h
  show (∀ x ∈ ([] : List Sid), x.core < 96 ∧ x.ctx < 8) ∧ (∀ n ∈ ([] : List Nat), n < 16) ∧ (∀ n ∈ ([port] : List Nat), n < 24) ∧ ∀ n ∈ ([] : List Nat), n < 16
  simp_all
theorem linkReplay (ask : ReplayAsk) : Statement (.linkReplay ask) := by
  intro h
  have w : (decide (ask.port < 24)) = true := h
  show (∀ x ∈ ([] : List Sid), x.core < 96 ∧ x.ctx < 8) ∧ (∀ n ∈ ([] : List Nat), n < 16) ∧ (∀ n ∈ ([ask.port] : List Nat), n < 24) ∧ ∀ n ∈ ([] : List Nat), n < 16
  simp_all
theorem laneSpareSwap (port : Nat) (lane : Nat) : Statement (.laneSpareSwap port lane) := by
  intro h
  have w : (decide (port < 24)) = true := h
  show (∀ x ∈ ([] : List Sid), x.core < 96 ∧ x.ctx < 8) ∧ (∀ n ∈ ([] : List Nat), n < 16) ∧ (∀ n ∈ ([port] : List Nat), n < 24) ∧ ∀ n ∈ ([] : List Nat), n < 16
  simp_all
theorem portDegrade (port : Nat) : Statement (.portDegrade port) := by
  intro h
  have w : (decide (port < 24)) = true := h
  show (∀ x ∈ ([] : List Sid), x.core < 96 ∧ x.ctx < 8) ∧ (∀ n ∈ ([] : List Nat), n < 16) ∧ (∀ n ∈ ([port] : List Nat), n < 24) ∧ ∀ n ∈ ([] : List Nat), n < 16
  simp_all
theorem vlRetrain (who : Who) (port : Nat) (value : Word) : Statement (.vlRetrain who port value) := by
  intro h
  have w : (decide (port < 24)) = true := h
  show (∀ x ∈ ([] : List Sid), x.core < 96 ∧ x.ctx < 8) ∧ (∀ n ∈ ([] : List Nat), n < 16) ∧ (∀ n ∈ ([port] : List Nat), n < 24) ∧ ∀ n ∈ ([] : List Nat), n < 16
  simp_all
theorem retrainTimeout (port : Nat) : Statement (.retrainTimeout port) := by
  intro h
  have w : (decide (port < 24)) = true := h
  show (∀ x ∈ ([] : List Sid), x.core < 96 ∧ x.ctx < 8) ∧ (∀ n ∈ ([] : List Nat), n < 16) ∧ (∀ n ∈ ([port] : List Nat), n < 24) ∧ ∀ n ∈ ([] : List Nat), n < 16
  simp_all
theorem vlEnableWrite (who : Who) (port : Nat) (value : Word) : Statement (.vlEnableWrite who port value) := by
  intro h
  have w : (decide (port < 24)) = true := h
  show (∀ x ∈ ([] : List Sid), x.core < 96 ∧ x.ctx < 8) ∧ (∀ n ∈ ([] : List Nat), n < 16) ∧ (∀ n ∈ ([port] : List Nat), n < 24) ∧ ∀ n ∈ ([] : List Nat), n < 16
  simp_all
theorem portTrained (port : Nat) (partner : Nat) (partnerPort : Nat) (stamp : BitVec 32) (lanes : Nat) : Statement (.portTrained port partner partnerPort stamp lanes) := by
  intro h
  have w : (decide (port < 24)) = true := h
  show (∀ x ∈ ([] : List Sid), x.core < 96 ∧ x.ctx < 8) ∧ (∀ n ∈ ([] : List Nat), n < 16) ∧ (∀ n ∈ ([port] : List Nat), n < 24) ∧ ∀ n ∈ ([] : List Nat), n < 16
  simp_all
theorem portSignalLoss (port : Nat) (lanesLost : Nat) : Statement (.portSignalLoss port lanesLost) := by
  intro h
  have w : (decide (port < 24)) = true := h
  show (∀ x ∈ ([] : List Sid), x.core < 96 ∧ x.ctx < 8) ∧ (∀ n ∈ ([] : List Nat), n < 16) ∧ (∀ n ∈ ([port] : List Nat), n < 24) ∧ ∀ n ∈ ([] : List Nat), n < 16
  simp_all
theorem portSilence (port : Nat) : Statement (.portSilence port) := by
  intro h
  have w : (decide (port < 24)) = true := h
  show (∀ x ∈ ([] : List Sid), x.core < 96 ∧ x.ctx < 8) ∧ (∀ n ∈ ([] : List Nat), n < 16) ∧ (∀ n ∈ ([port] : List Nat), n < 24) ∧ ∀ n ∈ ([] : List Nat), n < 16
  simp_all
theorem breezeIdleExpiry (port : Nat) : Statement (.breezeIdleExpiry port) := by
  intro h
  have w : (decide (port < 24)) = true := h
  show (∀ x ∈ ([] : List Sid), x.core < 96 ∧ x.ctx < 8) ∧ (∀ n ∈ ([] : List Nat), n < 16) ∧ (∀ n ∈ ([port] : List Nat), n < 24) ∧ ∀ n ∈ ([] : List Nat), n < 16
  simp_all
theorem vcStall (port : Nat) (vc : Nat) (falling : Bool) : Statement (.vcStall port vc falling) := by
  intro h
  have w : (decide (port < 24) && decide (vc < 4)) = true := h
  show (∀ x ∈ ([] : List Sid), x.core < 96 ∧ x.ctx < 8) ∧ (∀ n ∈ ([] : List Nat), n < 16) ∧ (∀ n ∈ ([port] : List Nat), n < 24) ∧ ∀ n ∈ ([] : List Nat), n < 16
  simp_all
theorem respTimeout (die : Die) (reqId : Nat) : Statement (.respTimeout die reqId) := none_ rfl rfl rfl rfl
theorem lossGraceExpiry (module : Nat) : Statement (.lossGraceExpiry module) := none_ rfl rfl rfl rfl
theorem timeExchangeTick : Statement (.timeExchangeTick) := none_ rfl rfl rfl rfl
theorem timeParentFailover : Statement (.timeParentFailover) := none_ rfl rfl rfl rfl
theorem timeCfgWrite (who : Who) (die : Die) (value : Word) : Statement (.timeCfgWrite who die value) := none_ rfl rfl rfl rfl
theorem vlGUnitsWrite (who : Who) (port : Nat) (part : Nat) (value : Word) : Statement (.vlGUnitsWrite who port part value) := by
  intro h
  have w : (decide (port < 24) && decide (part < 16)) = true := h
  show (∀ x ∈ ([] : List Sid), x.core < 96 ∧ x.ctx < 8) ∧ (∀ n ∈ ([] : List Nat), n < 16) ∧ (∀ n ∈ ([port] : List Nat), n < 24) ∧ ∀ n ∈ ([part] : List Nat), n < 16
  simp_all
theorem vrouteRtDataWrite (who : Who) (die : Die) (value : Word) : Statement (.vrouteRtDataWrite who die value) := none_ rfl rfl rfl rfl
theorem vrouteShadowSubmit (who : Who) (die : Die) (value : Word) : Statement (.vrouteShadowSubmit who die value) := none_ rfl rfl rfl rfl
theorem shadowDescriptorRun (die : Die) : Statement (.shadowDescriptorRun die) := none_ rfl rfl rfl rfl
theorem shadowDescriptorDone (die : Die) : Statement (.shadowDescriptorDone die) := none_ rfl rfl rfl rfl
theorem vrouteShadowCancel (who : Who) (die : Die) (value : Word) : Statement (.vrouteShadowCancel who die value) := none_ rfl rfl rfl rfl
theorem faultDlArm (who : Who) (die : Die) (m : Nat) (value : Word) : Statement (.faultDlArm who die m value) := none_ rfl rfl rfl rfl
theorem faultDlDisarm (who : Who) (die : Die) (m : Nat) (value : Word) : Statement (.faultDlDisarm who die m value) := none_ rfl rfl rfl rfl
theorem dlCounterChange (die : Die) (m : Nat) : Statement (.dlCounterChange die m) := none_ rfl rfl rfl rfl
theorem dlDeadlinePass (die : Die) (m : Nat) : Statement (.dlDeadlinePass die m) := none_ rfl rfl rfl rfl
theorem dlMaxLateExpiry (die : Die) (m : Nat) : Statement (.dlMaxLateExpiry die m) := none_ rfl rfl rfl rfl
theorem submit (e : SqSlot) (peersAccept : Bool × Bool) : Statement (.submit e peersAccept) := none_ rfl rfl rfl rfl
theorem cancel (e : SqSlot) : Statement (.cancel e) := none_ rfl rfl rfl rfl
theorem resume (e : SqSlot) (peersAccept : Bool × Bool) : Statement (.resume e peersAccept) := none_ rfl rfl rfl rfl
theorem query (e : SqSlot) : Statement (.query e) := none_ rfl rfl rfl rfl
theorem releaseShadow (e : SqSlot) : Statement (.releaseShadow e) := none_ rfl rfl rfl rfl
theorem loadModel (e : SqSlot) (pkg : ModelPackage) : Statement (.loadModel e pkg) := none_ rfl rfl rfl rfl
theorem unloadModel (e : SqSlot) : Statement (.unloadModel e) := none_ rfl rfl rfl rfl
theorem setPolicy (e : SqSlot) (part decodeW decodeL gapUs maxRequests holdS : Nat) : Statement (.setPolicy e part decodeW decodeL gapUs maxRequests holdS) := none_ rfl rfl rfl rfl
theorem sccSqTailWrite (function : Nat) (pair : Nat) (value : Word) : Statement (.sccSqTailWrite function pair value) := none_ rfl rfl rfl rfl
theorem sccCqHeadWrite (function : Nat) (pair : Nat) (value : Word) : Statement (.sccCqHeadWrite function pair value) := none_ rfl rfl rfl rfl
theorem sccQpCfgWrite (function : Nat) (pair : Nat) (value : Word) : Statement (.sccQpCfgWrite function pair value) := none_ rfl rfl rfl rfl
theorem prefillDone (slot : Nat) : Statement (.prefillDone slot) := none_ rfl rfl rfl rfl
theorem stepIssue (part : Nat) (die : Die) (monitor : Nat) (counter : Nat) : Statement (.stepIssue part die monitor counter) := by
  intro h
  have w : (decide (part < 16)) = true := h
  show (∀ x ∈ ([] : List Sid), x.core < 96 ∧ x.ctx < 8) ∧ (∀ n ∈ ([] : List Nat), n < 16) ∧ (∀ n ∈ ([] : List Nat), n < 24) ∧ ∀ n ∈ ([part] : List Nat), n < 16
  simp_all
theorem stepCommit (part : Nat) : Statement (.stepCommit part) := by
  intro h
  have w : (decide (part < 16)) = true := h
  show (∀ x ∈ ([] : List Sid), x.core < 96 ∧ x.ctx < 8) ∧ (∀ n ∈ ([] : List Nat), n < 16) ∧ (∀ n ∈ ([] : List Nat), n < 24) ∧ ∀ n ∈ ([part] : List Nat), n < 16
  simp_all
theorem orphanHoldExpiry (slot : Nat) : Statement (.orphanHoldExpiry slot) := none_ rfl rfl rfl rfl
theorem currentSample (die : Die) (samples : List CurSample) (voltsMv : List Nat) : Statement (.currentSample die samples voltsMv) := none_ rfl rfl rfl rfl
theorem powerExcursionTimer : Statement (.powerExcursionTimer) := none_ rfl rfl rfl rfl
theorem clockRaiseTimer : Statement (.clockRaiseTimer) := none_ rfl rfl rfl rfl
theorem scanRound (die : Die) (facts : ScanFacts) : Statement (.scanRound die facts) := none_ rfl rfl rfl rfl
theorem throttleStepTimer (die : Die) : Statement (.throttleStepTimer die) := none_ rfl rfl rfl rfl
theorem tripCompare (die : Die) (diode : Nat) (reading : Int) : Statement (.tripCompare die diode reading) := none_ rfl rfl rfl rfl
theorem railOffStep (die : Die) : Statement (.railOffStep die) := none_ rfl rfl rfl rfl
theorem avsTransaction (die : Die) (answer : AvsAnswer) : Statement (.avsTransaction die answer) := none_ rfl rfl rfl rfl
theorem voltageSettled (die : Die) : Statement (.voltageSettled die) := none_ rfl rfl rfl rfl
theorem pllLockLoss (die : Die) : Statement (.pllLockLoss die) := none_ rfl rfl rfl rfl
theorem pllLockRegain (die : Die) : Statement (.pllLockRegain die) := none_ rfl rfl rfl rfl
theorem estimatorWindow (die : Die) (meanMa : Nat) (spread : Nat) (rates : List Nat) (spreads : List Nat) (coreMv : Nat) : Statement (.estimatorWindow die meanMa spread rates spreads coreMv) := none_ rfl rfl rfl rfl
theorem estimatorRegression (die : Die) : Statement (.estimatorRegression die) := none_ rfl rfl rfl rfl
theorem estimatorStale (die : Die) : Statement (.estimatorStale die) := none_ rfl rfl rfl rfl
theorem heartbeatSend (die : Die) : Statement (.heartbeatSend die) := none_ rfl rfl rfl rfl
theorem heartbeatRx (die : Die) (epoch : Nat) (claim : Bool) (stamp : BitVec 32) : Statement (.heartbeatRx die epoch claim stamp) := none_ rfl rfl rfl rfl
theorem capCommandTimeout (die : Die) : Statement (.capCommandTimeout die) := none_ rfl rfl rfl rfl
theorem heartbeatLoss (die : Die) (peerLogRead : Bool) : Statement (.heartbeatLoss die peerLogRead) := none_ rfl rfl rfl rfl
theorem wedgeProbe (die : Die) (answered : Bool) : Statement (.wedgeProbe die answered) := none_ rfl rfl rfl rfl
theorem sccBeatTimeout (die : Die) : Statement (.sccBeatTimeout die) := none_ rfl rfl rfl rfl
theorem aliveLapse (die : Die) : Statement (.aliveLapse die) := none_ rfl rfl rfl rfl
theorem lullIdleExpiry (die : Die) : Statement (.lullIdleExpiry die) := none_ rfl rfl rfl rfl
theorem lullWake (die : Die) : Statement (.lullWake die) := none_ rfl rfl rfl rfl
theorem calmIdleExpiry : Statement (.calmIdleExpiry) := none_ rfl rfl rfl rfl
theorem calmWake : Statement (.calmWake) := none_ rfl rfl rfl rfl
theorem watchCycle (die : Die) (facts : ScanFacts) (meanMa : List Nat) : Statement (.watchCycle die facts meanMa) := none_ rfl rfl rfl rfl
theorem powerEntryDone (die : Die) : Statement (.powerEntryDone die) := none_ rfl rfl rfl rfl
theorem coldReset : Statement (.coldReset) := none_ rfl rfl rfl rfl
theorem pkgRstAssert : Statement (.pkgRstAssert) := none_ rfl rfl rfl rfl
theorem pkgRstDeassert (facts : BootFacts) : Statement (.pkgRstDeassert facts) := none_ rfl rfl rfl rfl
theorem reservoirInitDone : Statement (.reservoirInitDone) := none_ rfl rfl rfl rfl
theorem pwrstReset (who : Who) (die : Die) (value : Word) : Statement (.pwrstReset who die value) := none_ rfl rfl rfl rfl
theorem pwrstModuleIdWrite (who : Who) (die : Die) (value : Word) : Statement (.pwrstModuleIdWrite who die value) := none_ rfl rfl rfl rfl
theorem perstAssert : Statement (.perstAssert) := none_ rfl rfl rfl rfl
theorem functionLevelReset (function : Nat) : Statement (.functionLevelReset function) := none_ rfl rfl rfl rfl
theorem refclkLoss (clk : RefClk) : Statement (.refclkLoss clk) := none_ rfl rfl rfl rfl
theorem cfgStoreWrite (area : Nat) : Statement (.cfgStoreWrite area) := none_ rfl rfl rfl rfl
theorem cfgStoreOp : Statement (.cfgStoreOp) := none_ rfl rfl rfl rfl
theorem cfgStoreWriteDone : Statement (.cfgStoreWriteDone) := none_ rfl rfl rfl rfl
theorem cfgstSvnCommit (who : Who) (value : Word) : Statement (.cfgstSvnCommit who value) := none_ rfl rfl rfl rfl
theorem hostRead (addr : Nat) (len : Nat) : Statement (.hostRead addr len) := none_ rfl rfl rfl rfl
theorem hostWrite (addr : Nat) (bytes : List Byte) (ep : Bool) : Statement (.hostWrite addr bytes ep) := none_ rfl rfl rfl rfl
theorem dmaTailWrite (who : Who) (ch : Nat) (value : Nat) : Statement (.dmaTailWrite who ch value) := none_ rfl rfl rfl rfl
theorem dmaDescriptorRun (ch : Nat) (answer : HostAnswer) : Statement (.dmaDescriptorRun ch answer) := none_ rfl rfl rfl rfl
theorem dmaHostReadTimeout (ch : Nat) : Statement (.dmaHostReadTimeout ch) := none_ rfl rfl rfl rfl
theorem mctpControl (msg : MctpMsg) : Statement (.mctpControl msg) := none_ rfl rfl rfl rfl
theorem pldmSensorRead (sensor : PldmSensor) : Statement (.pldmSensorRead sensor) := none_ rfl rfl rfl rfl
theorem pldmFirmwareUpdate (req : PldmUpdate) : Statement (.pldmFirmwareUpdate req) := none_ rfl rfl rfl rfl
theorem vendorFaultLogRead (die : Die) (index : Nat) : Statement (.vendorFaultLogRead die index) := none_ rfl rfl rfl rfl
theorem vendorRegisterRead (addr : Nat) : Statement (.vendorRegisterRead addr) := none_ rfl rfl rfl rfl
theorem vendorPackageReset : Statement (.vendorPackageReset) := none_ rfl rfl rfl rfl
theorem maintenanceChallenge : Statement (.maintenanceChallenge) := none_ rfl rfl rfl rfl
theorem maintenanceResponse (keySlot : Nat) (signature : List Byte) : Statement (.maintenanceResponse keySlot signature) := none_ rfl rfl rfl rfl
theorem jtagBypass : Statement (.jtagBypass) := none_ rfl rfl rfl rfl
theorem jtagIdcode : Statement (.jtagIdcode) := none_ rfl rfl rfl rfl
theorem jtagSamplePreload : Statement (.jtagSamplePreload) := none_ rfl rfl rfl rfl
theorem jtagExtest : Statement (.jtagExtest) := none_ rfl rfl rfl rfl
theorem jtagPrivate (op : JtagPrivate) : Statement (.jtagPrivate op) := none_ rfl rfl rfl rfl
theorem blkLockWrite (who : Who) (page : Nat) (value : Word) : Statement (.blkLockWrite who page value) := none_ rfl rfl rfl rfl
theorem blkCtrlFreeze (who : Who) (page : Nat) (value : Word) : Statement (.blkCtrlFreeze who page value) := none_ rfl rfl rfl rfl
theorem blkCtrlClear (who : Who) (page : Nat) (value : Word) : Statement (.blkCtrlClear who page value) := none_ rfl rfl rfl rfl
theorem blkIrqClear (who : Who) (page : Nat) (value : Word) : Statement (.blkIrqClear who page value) := none_ rfl rfl rfl rfl
theorem faultRecordWrite (page : Nat) : Statement (.faultRecordWrite page) := none_ rfl rfl rfl rfl
theorem faultLogIdxWrite (who : Who) (die : Die) (value : Word) : Statement (.faultLogIdxWrite who die value) := none_ rfl rfl rfl rfl
theorem faultLogRdWrite (who : Who) (die : Die) (value : Word) : Statement (.faultLogRdWrite who die value) := none_ rfl rfl rfl rfl
theorem registerWrite (who : Who) (addr : Nat) (size : Nat) (value : Word) : Statement (.registerWrite who addr size value) := none_ rfl rfl rfl rfl
theorem partnerSignalDetect (port : Nat) : Statement (.partnerSignalDetect port) := by
  intro h
  have w : (decide (port < 24)) = true := h
  show (∀ x ∈ ([] : List Sid), x.core < 96 ∧ x.ctx < 8) ∧ (∀ n ∈ ([] : List Nat), n < 16) ∧ (∀ n ∈ ([port] : List Nat), n < 24) ∧ ∀ n ∈ ([] : List Nat), n < 16
  simp_all
theorem powerExitDone (die : Die) : Statement (.powerExitDone die) := none_ rfl rfl rfl rfl
theorem perstDeassert : Statement (.perstDeassert) := none_ rfl rfl rfl rfl
theorem railLoss (rail : Rail) : Statement (.railLoss rail) := none_ rfl rfl rfl rfl
theorem spareWaitExpiry (slot : Nat) : Statement (.spareWaitExpiry slot) := none_ rfl rfl rfl rfl
theorem repairHoldExpiry (stack : Nat) (half : Nat) : Statement (.repairHoldExpiry stack half) := by
  intro h
  have w : (decide (stack < 16) && decide (half < 2)) = true := h
  show (∀ x ∈ ([] : List Sid), x.core < 96 ∧ x.ctx < 8) ∧ (∀ n ∈ ([stack] : List Nat), n < 16) ∧ (∀ n ∈ ([] : List Nat), n < 24) ∧ ∀ n ∈ ([] : List Nat), n < 16
  simp_all

end Sys2Proof.Laws.Ranges
end

