-- ==== Sys2Proof/Laws/Units.lean ====
section
/-!
SUPPORT. What the scheduler, the registers' fields, the ports, the serving queues and the DMA channels can do.
-/

namespace Sys2Proof.Machine

/-- A write of the management root to an unlocked page takes effect (R432). -/
theorem rootRwl_ok {w : Who} {page : Nat} {k : State → State} {s : State} (hw : w.root = true) (hl : s.locked page = false) :
    (rootRwl w page k s).1 = k s := by simp [rootRwl, rootOnly, rwl, hw, hl, written]

/-- What only the management root may write, it writes. -/
theorem rootOnly_ok {w : Who} {k : State → Written} {s : State} (hw : w.root = true) : rootOnly w k s = k s := by simp [rootOnly, hw]

/-- Bit of a word, in the library's terms. -/
theorem vbit (v : Word) (k : Nat) : bit v.toNat k = v.getLsbD k := by
  rw [BitVec.getLsbD, Nat.testBit_eq_decide_div_mod_eq]; rfl

/-- Setting bit 1 sets it. -/
theorem vor2_bit1 (v : Word) : bit (v ||| 2).toNat 1 = true := by rw [vbit]; simp

/-- Setting bit 1 leaves bit 0. -/
theorem vor2_bit0 (v : Word) : bit (v ||| 2).toNat 0 = bit v.toNat 0 := by rw [vbit, vbit]; simp

/-- Setting bit 0 sets it. -/
theorem vor1_bit0 (v : Word) : bit (v ||| 1).toNat 0 = true := by rw [vbit]; simp

/-- Clearing bit 0 clears it. -/
theorem vand_bit0 (v : Word) : bit (v &&& ~~~ (1 : Word)).toNat 0 = false := by rw [vbit]; simp

/-- Bit 0 of a word cut to one bit. -/
theorem bitF0 (v : Word) : bit (w64 (v.toNat % 2)).toNat 0 = bit v.toNat 0 := by
  have : (w64 (v.toNat % 2)).toNat = v.toNat % 2 := by unfold w64; rw [BitVec.toNat_ofNat]; omega
  rw [this]; unfold bit; simp

/-- A word cut to one bit has no bit 1. -/
theorem bitF1 (v : Word) : bit (w64 (v.toNat % 2)).toNat 1 = false := by
  have : (w64 (v.toNat % 2)).toNat = v.toNat % 2 := by unfold w64; rw [BitVec.toNat_ofNat]; omega
  rw [this]; unfold bit; simp

/-- Bit 0 under a set bit 1. -/
theorem bitC0 (v : Word) : bit (w64 (v.toNat % 2 + 2)).toNat 0 = bit v.toNat 0 := by
  have : (w64 (v.toNat % 2 + 2)).toNat = v.toNat % 2 + 2 := by unfold w64; rw [BitVec.toNat_ofNat]; omega
  rw [this]; unfold bit; simp

/-- Bit 1 set over one bit. -/
theorem bitC1 (v : Word) : bit (w64 (v.toNat % 2 + 2)).toNat 1 = true := by
  have : (w64 (v.toNat % 2 + 2)).toNat = v.toNat % 2 + 2 := by unfold w64; rw [BitVec.toNat_ofNat]; omega
  rw [this]; unfold bit; simp

/-- A write to a locked page sets the lock-violation flag of its page and nothing else (R432). -/
theorem rootRwl_no {w : Who} {page : Nat} {k : State → State} {s : State} (hw : w.root = true) (hl : s.locked page = true) :
    (rootRwl w page k s).1 = s.setFlag (page + 0x0C) 2 true := by simp [rootRwl, rootOnly, rwl, hw, hl, written]

/-- A descriptor read at the ring's head is judged. -/
theorem reads_judged {s u : State} {d : Die} {r : Nat} {l : Launch} (h : Reads s d r u l) :
    execLaunchDescriptorCheck d r s = commit s (u.judgeLaunch l (s.doomed.contains l.key)) ∧ l.die = d ∧ l.ring = r ∧ l.part = r / 4 := by
  obtain ⟨h1, h2, t, v, a, m, h3, hm, h4, rfl, rfl⟩ := h
  refine ⟨?_, ?_, ?_, ?_⟩
  · unfold execLaunchDescriptorCheck
    rw [if_neg (by simp [h1]), if_neg (by simp [h2]), h3]; dsimp only
    rw [← hm, h4]; rfl
  · rw [hm]; rfl
  · rw [hm]; rfl
  · rw [hm]; rfl

/-- A partition's first configuration word is judged by its own rule (R343). -/
theorem partCfg_cfg {s : State} {who : Who} {d : Die} {off p v : Nat} (h : ¬ (off < 0xC00 ∨ 0x1000 ≤ off)) (hp : (off - 0xC00) / 0x40 = p)
    (ho : (off - 0xC00) % 0x40 = 0) (hz : s.regSleeps (schedPage d + off) = none) :
    execSchedPartCfgWrite who d off v s = commit s (writePartCfg who d p (w64 v) s).1 := by
  unfold execSchedPartCfgWrite; dsimp only; rw [if_neg h, if_pos ho, crossed_awake hz, hp]

/-- A partition's second configuration word is judged by its own rule (R343). -/
theorem partCfg_res {s : State} {who : Who} {d : Die} {off p v : Nat} (h : ¬ (off < 0xC00 ∨ 0x1000 ≤ off)) (hp : (off - 0xC00) / 0x40 = p)
    (ho : (off - 0xC00) % 0x40 = 4) (hz : s.regSleeps (schedPage d + off) = none) :
    execSchedPartCfgWrite who d off v s = commit s (writePartRes who d p (w64 v) s).1 := by
  unfold execSchedPartCfgWrite; dsimp only; rw [if_neg h, if_neg (by omega), if_pos ho, crossed_awake hz, hp]

/-- A partition's core masks are judged by their own rule (R343). -/
theorem partCfg_cores {s : State} {who : Who} {d : Die} {off p v : Nat} (h : ¬ (off < 0xC00 ∨ 0x1000 ≤ off)) (hp : (off - 0xC00) / 0x40 = p)
    (ho : (off - 0xC00) % 0x40 = 8) (hz : s.regSleeps (schedPage d + off) = none) :
    execSchedPartCfgWrite who d off v s = commit s (writePartCores who d p 0 3 v s).1 := by
  unfold execSchedPartCfgWrite; dsimp only; rw [if_neg h, if_neg (by omega), if_neg (by omega), if_pos ho]; rw [crossedCores_awake hz, hp]

/-- Ending the waits of a stream changes the waits only. -/
theorem Strand.killWait_only (x : Strand) (s : State) (d : Die) (str : Stream) : x.killWait s d str = { x with waitA := (x.killWait s d str).waitA, waitE := (x.killWait s d str).waitE, savedA := (x.killWait s d str).savedA, savedE := (x.killWait s d str).savedE } := by
  unfold Strand.killWait Strand.setCtrWait Strand.setSaved; cases str <;> split <;> rfl

/-- Renaming the states of a core's strands parks nothing. -/
theorem restat_parkSeq (s : State) (d c) : (s.restatCore d c).parkSeq = s.parkSeq := by rw [(s.restatCore_cases d c).1]

/-- Renaming the states of a core's strands makes no strand. -/
theorem restat_none (s : State) (d c k) (h : s.strand k = none) : (s.restatCore d c).strand k = none := by
  have := (s.restatCore_cases d c).2 k; rw [h] at this; simpa using this

/-- Taking a strand off its core counts one more parked. -/
theorem unseat_parkSeq (u : State) (i : Sid) (k : Core) : ((u.unseat i).setCore i.die i.core k).parkSeq = u.parkSeq + 1 := (rfl)

/-- A parked strand keeps its registers. -/
theorem parkedForm_regs (x : Strand) (s : State) (d : Die) : (x.parkedForm s d).stat = .parked ∧ (x.parkedForm s d).scal = x.scal ∧ (x.parkedForm s d).desc = x.desc ∧
  (x.parkedForm s d).queues = x.queues ∧ (x.parkedForm s d).apc = x.apc ∧ (x.parkedForm s d).epc = x.epc ∧ (x.parkedForm s d).shadow = x.shadow ∧
  (x.parkedForm s d).tiles = x.tiles ∧ (x.parkedForm s d).parkOrder = s.parkSeq + 1 := by
  unfold Strand.parkedForm Strand.stopWatch
  have h := Strand.killWait_only (x.killWait s d .access) s d .execute
  rw [Strand.killWait_only x] at h
  rw [Strand.killWait_only x, h]; cases x.waitE <;> exact ⟨rfl, rfl, rfl, rfl, rfl, rfl, rfl, rfl, rfl⟩

/-- A parked strand holds no unit and no wait but its saved ones. -/
theorem parkedForm_waits (x : Strand) (s : State) (d : Die) : (x.parkedForm s d).waitA = none ∧ (x.parkedForm s d).waitE = none ∧
  (∀ w, x.waitE = some w → (x.parkedForm s d).savedE = some (w.elapsed s d)) ∧ (∀ w, x.waitA = some w → (x.parkedForm s d).savedA = some (w.elapsed s d)) := by
  have : (x.parkedForm s d).waitA = ((x.killWait s d .access).killWait s d .execute).waitA ∧
  (x.parkedForm s d).waitE = ((x.killWait s d .access).killWait s d .execute).waitE ∧
  (x.parkedForm s d).savedA = ((x.killWait s d .access).killWait s d .execute).savedA ∧
  (x.parkedForm s d).savedE = ((x.killWait s d .access).killWait s d .execute).savedE := by
    unfold Strand.parkedForm Strand.stopWatch; cases x.waitE <;> exact ⟨rfl, rfl, rfl, rfl⟩
  rw [this.1, this.2.1, this.2.2.1, this.2.2.2]
  simp only [Strand.killWait, Strand.ctrWait]
  cases h1 : x.waitA <;> cases h2 : x.waitE <;> simp [Strand.setCtrWait, Strand.setSaved, h1, h2]

/-- The bit that was set reads as set. -/
theorem setBits_bit (v b : Nat) (hv : v < 2 ^ 64) (hb : b < 2) : bit (setBits v 41 1 b % 2 ^ 64) 41 = (b == 1) := by
  unfold bit setBits bits
  have : (v - v / 2 ^ 41 % 2 ^ 1 * 2 ^ 41 + b % 2 ^ 1 * 2 ^ 41) % 2 ^ 64 / 2 ^ 41 % 2 = b := by omega
  rw [this]

/-- A strand's instruction in flight is its requester (R24, R34). -/
theorem requester_strand {s : State} {i : Sid} {a k : Nat} {x : Strand} {m : Inflight} (hx : s.strand i.key = some x)
    (hm : x.inflight.find? (fun y => y.id == k) = some m) :
    s.requester (.strand i k) a = some (some x.part, s.corePage i.die i.core, fun t => t.failFlight i m (m.vaOf a)) := by
  unfold State.requester; dsimp only; rw [hx, Option.bind_some, hm]; rfl

/-- Bits of a word one field of which was set. -/
theorem setBits_testBit (x lo n v j : Nat) : (setBits x lo n v).testBit j = if lo ≤ j ∧ j < lo + n then v.testBit (j - lo) else x.testBit j := by
  have hb : (x / 2^lo % 2^n) * 2^lo ≤ x := le_trans (Nat.mul_le_mul_right _ (Nat.mod_le _ _)) (Nat.div_mul_le_self _ _)
  have e : setBits x lo n v = x % 2^lo + 2^lo * (v % 2^n + 2^n * (x / 2^lo / 2^n)) := by
    unfold setBits bits
    have h1 : x = x % 2^lo + 2^lo * (x / 2^lo) := (Nat.mod_add_div _ _).symm
    have h2 : x / 2^lo = x / 2^lo % 2^n + 2^n * (x / 2^lo / 2^n) := (Nat.mod_add_div _ _).symm
    generalize x / 2^lo % 2^n = r at *
    generalize x / 2^lo / 2^n = q at *
    generalize x % 2^lo = m at *
    rw [h2] at h1
    have : x = m + 2^lo * r + 2^lo * (2^n*q) := by rw [Nat.add_assoc, ← Nat.mul_add]; exact h1
    rw [this, Nat.mul_add, Nat.mul_comm r, Nat.mul_comm _ (2^lo)]
    omega
  rw [e, Nat.add_comm, Nat.testBit_two_pow_mul_add _ (Nat.mod_lt _ (by positivity))]
  by_cases h : j < lo
  · rw [if_pos h, if_neg (by omega), Nat.testBit_mod_two_pow]; simp [h]
  · rw [if_neg h, Nat.add_comm (v % 2^n), Nat.testBit_two_pow_mul_add _ (Nat.mod_lt _ (by positivity))]
    by_cases h2 : j - lo < n
    · rw [if_pos h2, if_pos (by omega), Nat.testBit_mod_two_pow]; simp [h2]
    · rw [if_neg h2, if_neg (by omega), Nat.testBit_div_two_pow, Nat.testBit_div_two_pow]; congr 1; omega

/-- Bits of a field. -/
theorem bits_testBit (x lo n j : Nat) : (bits x lo n).testBit j = (decide (j < n) && x.testBit (lo + j)) := by
  unfold bits; rw [Nat.testBit_mod_two_pow, Nat.testBit_div_two_pow, Nat.add_comm]

/-- The field that was set reads as the value, cut to its width. -/
theorem bits_setBits (x lo n v : Nat) : bits (setBits x lo n v) lo n = v % 2^n := by
  apply Nat.eq_of_testBit_eq; intro j
  rw [bits_testBit, setBits_testBit, Nat.testBit_mod_two_pow]
  by_cases h : j < n
  · simp [h]
  · simp [h]

/-- A field's write leaves every bit outside the field (R432). -/
theorem Field.write_outside (f : Field) (l : Bool) (v x j : Nat) (h : j < f.lo ∨ f.lo + f.n ≤ j) : (f.write l v x).testBit j = x.testBit j := by
  have k : ∀ w, (setBits x f.lo f.n w).testBit j = x.testBit j := fun w => by rw [setBits_testBit, if_neg (by omega)]
  unfold Field.write
  split
  · split
    · exact k _
    · rfl
  · split
    · exact k _
    · rfl
  · exact k _
  · rfl

/-- Counters that advance change nothing but registers. -/
theorem foldl_bumps {α : Type} (p o k : α → Nat) (w : Nat) (l : List α) : ∀ s : State,
    l.foldl (fun t q => t.bump (p q) (o q) w (k q)) s = { s with regs := (l.foldl (fun (t : State) q => t.bump (p q) (o q) w (k q)) s).regs } := by
  induction l with
  | nil => intro s; rfl
  | cons a r ih => intro s; simp only [List.foldl_cons]; rw [ih]; rfl

/-- A port that drains changes no time, queue, memory or bus. -/
theorem drainPort_keeps (s : State) (p : Nat) : (s.drainPort p).now = s.now ∧ (s.drainPort p).pending = s.pending ∧ (s.drainPort p).mem = s.mem ∧
    (s.drainPort p).strands = s.strands ∧ (s.drainPort p).launches = s.launches ∧ (s.drainPort p).units = s.units ∧ (s.drainPort p).bus = s.bus := by
  unfold State.drainPort
  dsimp only
  split
  · simp
  · split
    · simp
    · rw [foldl_bumps (fun _ => schedPage (dieOf (p / 12))) (fun q => partOff q + 0x38)]; split <;> simp

/-- Ports that drain change no time, queue, memory or bus. -/
theorem drain_keeps (l : List Nat) : ∀ s : State, (l.foldl State.drainPort s).now = s.now ∧ (l.foldl State.drainPort s).pending = s.pending ∧ (l.foldl State.drainPort s).mem = s.mem ∧
    (l.foldl State.drainPort s).strands = s.strands ∧ (l.foldl State.drainPort s).launches = s.launches ∧ (l.foldl State.drainPort s).units = s.units ∧ (l.foldl State.drainPort s).bus = s.bus := by
  induction l with
  | nil => intro s; simp
  | cons a r ih =>
    intro s
    have h := ih (s.drainPort a)
    have k := drainPort_keeps s a
    simp only [List.foldl_cons]
    refine ⟨h.1.trans k.1, h.2.1.trans k.2.1, h.2.2.1.trans k.2.2.1, h.2.2.2.1.trans k.2.2.2.1, h.2.2.2.2.1.trans k.2.2.2.2.1, h.2.2.2.2.2.1.trans k.2.2.2.2.2.1, h.2.2.2.2.2.2.trans k.2.2.2.2.2.2⟩

/-- A serving command with a bad verdict is refused. -/
theorem cmd_no {s t : State} {op f k : Nat} {b : List Byte} {l r} {n : Nat} (h : s.takeEntry f k = some t)
    (ho : sqOpcode b = op ∨ knownSq (sqOpcode b) = false)
    (hv : verdict ((t.shutOut (sqEntry f k b), 8) :: (sqOpcode b != op, 1) :: l (sqEntry f k b) t) = some n) :
    s.command op f k b l r = t.refuse (sqEntry f k b) n 0 := by
  unfold State.command; (try dsimp only); rw [if_neg (by rcases ho with ho | ho <;> simp [ho]), h]; (try dsimp only); rw [hv]

/-- A serving command with no bad verdict runs. -/
theorem cmd_yes {s t : State} {op f k : Nat} {b : List Byte} {l r} (h : s.takeEntry f k = some t)
    (ho : sqOpcode b = op ∨ knownSq (sqOpcode b) = false)
    (hv : verdict ((t.shutOut (sqEntry f k b), 8) :: (sqOpcode b != op, 1) :: l (sqEntry f k b) t) = none) :
    s.command op f k b l r = r (sqEntry f k b) t := by
  unfold State.command; (try dsimp only); rw [if_neg (by rcases ho with ho | ho <;> simp [ho]), h]; (try dsimp only); rw [hv]

/-- A DMA descriptor that was read runs. -/
theorem dmaRun_at {s t : State} {ch : Nat} {x : List Byte} {k} (h : s.homeRead (askedBy s.pciePage 0xFF) 0 (s.dmaAt ch) 32 = (t, 0, x)) :
   s.dmaRun ch k = if !dmaDescOk (dmaDesc x) || !t.dmaReach (dmaDesc x) then t.dmaEnd ch (some (dmaDesc x)) false
    else match s.spotWait (dmaDesc x).place with | .go => k t (dmaDesc x) | .held => s | .wake w => s.wakeDie w := by
  unfold State.dmaRun; rw [h]; rfl

end Sys2Proof.Machine
end

