-- ==== Sys2Proof/Tests/Slice0.lean ====
section
/-!
SUPPORT. The model's own tests: a term each check of WellFormed refuses, and for every statement with hypotheses a small
state and operands that meet them together.
-/
set_option Elab.async false
set_option maxRecDepth 20000

open Sys2Proof Sys2Proof.Machine

namespace Sys2Proof.Tests

-- WellFormed: what each check refuses, one beyond the last instance the part has.
theorem test_wf_core : Instr.wf (.queueDeadlock ⟨.windward, 95, 7⟩) = true ∧ Instr.wf (.queueDeadlock ⟨.windward, 96, 0⟩) = false := by decide
theorem test_wf_context : Instr.wf (.queueDeadlock ⟨.leeward, 0, 8⟩) = false := by decide
theorem test_wf_turn_core : Instr.wf (.turnEnd .windward 96) = false := by decide
theorem test_wf_ring : Instr.wf (.schedRingTailWrite .mgmt .windward 63 0) = true ∧
    Instr.wf (.schedRingTailWrite .mgmt .windward 64 0) = false := by decide
theorem test_wf_partition : Instr.wf (.layoutComplete .leeward 15) = true ∧ Instr.wf (.layoutComplete .leeward 16) = false := by decide
theorem test_wf_stack : Instr.wf (.stkOwnDataWrite .mgmt 16 0) = false := by decide
theorem test_wf_half : Instr.wf (.repairHoldExpiry 15 1) = true ∧ Instr.wf (.repairHoldExpiry 15 2) = false := by decide
theorem test_wf_nbu : Instr.wf (.nbuSelfcheckFail 0 511) = true ∧ Instr.wf (.nbuSelfcheckFail 0 512) = false := by decide
theorem test_wf_reservoir : Instr.wf (.rvrMr4Poll 12 []) = false := by decide
theorem test_wf_scrubber : Instr.wf (.scrubVisit .windward 14) = false := by decide
theorem test_wf_core_instance : Instr.wf (.coreRetire .mgmt .windward 103 0) = true ∧ Instr.wf (.coreRetire .mgmt .windward 104 0) = false := by decide
theorem test_wf_domain : Instr.wf (.domainWake .windward 7 0) = false := by decide
theorem test_wf_port : Instr.wf (.portSilence 23) = true ∧ Instr.wf (.portSilence 24) = false := by decide
theorem test_wf_channel : Instr.wf (.vcStall 0 4 false) = false := by decide
theorem test_wf_monitor : Instr.wf (.dlDeadlinePass .windward 64) = false := by decide
theorem test_wf_function : Instr.wf (.functionLevelReset 16) = true ∧ Instr.wf (.functionLevelReset 17) = false := by decide
theorem test_wf_queue_pair : Instr.wf (.sccSqTailWrite 0 4 0) = false := by decide
theorem test_wf_diode : Instr.wf (.tripCompare .windward 9 0) = false := by decide
theorem test_wf_store_area : Instr.wf (.cfgStoreWrite 2) = false := by decide
theorem test_wf_dma_channel : Instr.wf (.dmaTailWrite .mgmt 16 0) = false := by decide
theorem test_wf_register_width : Instr.wf (.registerWrite .mgmt 0 8 0) = true ∧ Instr.wf (.registerWrite .mgmt 0 2 0) = false := by decide

/-- A strand of a small launch, with nothing in its registers. -/
def fxStrand : Strand where
  stat := .ready
  part := 0
  launch := 0
  index := 0
  argVa := 0
  prio := 2
  queueMask := 0x11
  imageLen := 0x1000
  kernelVa := 0x40000
  wdUs := 1000
  tag := 0
  apc := 0x40
  epc := 0x40
  scal := [(1, 0x100), (17, 0x100)]
  desc := []
  queues := []
  qmap := []
  shadow := none
  busy := []
  cycles := 0
  cycSince := 0
  tiles := 0
  wdElapsed8 := 0
  wdSince8 := 0
  waitA := none
  waitE := none
  savedA := none
  savedE := none
  endA := false
  endE := false
  blockA := none
  blockE := none
  progA := none
  progE := none
  inflight := []
  nextId := 0
  groups := []
  cmds := []
  badCmd := none
  parkAsked := false
  parkedFor := none
  parkOrder := 0
  atMark := false
  mcastCount := []
  lastRun := 0

def fxCore : Core := { Core.empty with images := [⟨0, 0x40000, 0x1000, [], [], []⟩] }

/-- A package whose dies are Active, with one strand in context 0 of core 0. -/
def fx (x : Strand) : State :=
  { State.reset with
    regs := [(pg .windward Blk.pwrst 0 + 0x108, 0), (pg .leeward Blk.pwrst 0 + 0x108, 0)]
    strands := [(0, some x)]
    cores := [(0, some fxCore)] }

def fxSid : Sid := ⟨.windward, 0, 0⟩
def fxF (rd rs1 rs2 imm : Nat) : SF := ⟨BitVec.ofNat 4 rd, BitVec.ofNat 4 rs1, BitVec.ofNat 4 rs2, BitVec.ofNat 64 imm⟩

/-- Registers set to values. -/
def fxSet (s : State) (l : List (Nat × Nat)) : State := l.foldl (fun t e => t.setReg e.1 (w64 e.2)) s
/-- Both dies Active, stack 0 trained. -/
def fxBase : State :=
  { State.reset with
    regs := [(pg .windward Blk.pwrst 0 + 0x108, 0), (pg .leeward Blk.pwrst 0 + 0x108, 0)]
    stk := [(0, some { Stack.empty with trained := true })] }
/-- In a package whose dies are Active no register has to be woken. -/
theorem fx_awake {s : State} (hc : s.calmish = false) (hw : s.coreAsleep .windward = false) (hl : s.coreAsleep .leeward = false)
    (o : Nat) : s.regSleeps o = none := by
  have hd : ∀ d, s.coreAsleep d = false := fun d => by cases d <;> assumption
  unfold State.regSleeps State.sleeps
  split
  · generalize locOf (regBase + o) = l
    cases l <;> simp [hc, hd]
  · simp [hc]
theorem fx_issues (str : Stream) : Issues (fx fxStrand) fxSid str fxStrand := by
  cases str <;> exact ⟨rfl, by decide, by decide, by decide⟩
theorem test_scalar_register_holds : (2 : BitVec 4) ≠ 0 ∧ ((fxStrand.setSreg .access 2 5).sreg .access 2 = 5) := by decide
theorem test_scalar_ready : Issues (fx fxStrand) fxSid .access fxStrand ∧ fxStrand.isBusy .access [2, 1, 1] = false :=
  ⟨fx_issues _, by decide⟩
theorem test_special_ready : Issues (fx fxStrand) fxSid .execute fxStrand ∧ fxStrand.isBusy .execute [2] = false ∧
    (fxF 2 0 0 0x100).imm.toNat % 256 = 0 ∧ (fxF 2 0 0 8).imm.toNat % 256 = 8 ∧ 8 < (fxF 2 0 0 9).imm.toNat % 256 :=
  ⟨fx_issues _, by decide⟩
theorem test_branch_ready : Issues (fx fxStrand) fxSid .access fxStrand ∧ fxStrand.isBusy .access [1, 1] = false ∧
    (fxF 0 1 1 3).rd.toNat = 0 ∧ (fxF 6 1 1 3).rd.toNat = 6 ∧ 6 < (fxF 7 1 1 3).rd.toNat := ⟨fx_issues _, by decide⟩
theorem test_scratchpad_ready : Issues (fx fxStrand) fxSid .access fxStrand ∧ fxStrand.isBusy .access [2, 1, 1] = false ∧
    ((fxStrand.sreg .access 1 + (fxF 2 1 1 0x17FEE0).imm).toNat = 0x17FFE0) ∧ 0x17FFE0 + 32 ≤ 0x180000 ∧ 0x17FFE0 % 32 = 0 ∧
    fxStrand.spanBusy .access (0x17FFE0, 0x17FFE8) true = false ∧ fxStrand.spanBusy .access (0x17FFE0, 0x180000) false = false ∧
    (fx fxStrand).firstBad (spadBase .windward 0 + 0x17FFE0) 32 = none := ⟨fx_issues _, by decide⟩
theorem test_scratchpad_edge : fxStrand.isBusy .access [2, 1] = false ∧ fxStrand.isBusy .access [1] = false ∧
    fxStrand.isBusy .access [1, 1] = false ∧ (fxStrand.sreg .access 1 + (fxF 2 1 1 0x17FEF8).imm).toNat = 0x17FFF8 ∧
    0x17FFF8 + 8 ≤ 0x180000 ∧ fxStrand.spanBusy .access (0x17FFF8, 0x180000) true = false ∧
    fxStrand.spanBusy .access (0x17FFF8, 0x180000) false = false ∧
    (fx fxStrand).firstBad (spadBase .windward 0 + 0x17FFF8) 8 = none := by decide
theorem test_scratchpad_halts_ready : Issues (fx fxStrand) fxSid .access fxStrand ∧ fxStrand.isBusy .access [2, 1, 1] = false ∧
    (fxStrand.sreg .access 1 + (fxF 2 1 1 1).imm).toNat % 8 ≠ 0 ∧ (fxStrand.sreg .access 1 + (fxF 2 1 1 8).imm).toNat % 32 ≠ 0 ∧
    (fxStrand.sreg .access 1 + (fxF 2 1 1 0x17FF00).imm).toNat % 32 = 0 ∧
    0x180000 < (fxStrand.sreg .access 1 + (fxF 2 1 1 0x17FF00).imm).toNat + 8 := ⟨fx_issues _, by decide⟩
theorem test_descriptor_ready : Issues (fx fxStrand) fxSid .access fxStrand ∧ fxStrand.isBusy .access [1] = false ∧
    (fx fxStrand).imageOf fxSid fxStrand = some ⟨0, 0x40000, 0x1000, [], [], []⟩ ∧ (fxF 2 1 0 0xFE0).imm.toNat % 32 = 0 ∧
    (fxF 2 1 0 0xFE0).imm.toNat + 32 ≤ fxStrand.imageLen ∧ (fxF 2 1 0 0xFE1).imm.toNat % 32 ≠ 0 ∧
    (fxF 2 1 0 0x1000).imm.toNat % 32 = 0 ∧ fxStrand.imageLen < (fxF 2 1 0 0x1000).imm.toNat + 32 := ⟨fx_issues _, by decide⟩
theorem test_ending_ready : Issues (fx fxStrand) fxSid .access fxStrand ∧ fxStrand.inflight = [] ∧ fxStrand.endE = false ∧
    Issues (fx fxStrand) fxSid .execute fxStrand ∧ fxStrand.endA = false ∧
    Issues (fx { fxStrand with endE := true }) fxSid .access { fxStrand with endE := true } ∧ fxStrand.queues = [] :=
  ⟨fx_issues _, by decide, by decide, fx_issues _, by decide, ⟨rfl, by decide, by decide, by decide⟩, by decide⟩
/-- A strand that waits on a counter at 0x2000 of stack 0. -/
def fxWaiting (target timeout : Nat) : Strand :=
  { fxStrand with stat := .waiting, waitA := some ⟨0x10002000, 0x2000, w64 target, 2, timeout, 0, 0, 0⟩ }
theorem test_wait_ready : (fx (fxWaiting 0 1)).bus = [] ∧ (fx (fxWaiting 0 1)).strand fxSid.key = some (fxWaiting 0 1) ∧
    (fxWaiting 0 1).ctrWait .access = some ⟨0x10002000, 0x2000, 0, 2, 1, 0, 0, 0⟩ ∧ (fxWaiting 0 1).active = true ∧
    (fx (fxWaiting 0 1)).coreClock .windward = true ∧ (fx (fxWaiting 0 1)).badUnits 0x2000 8 = [] ∧
    w64 ((fx (fxWaiting 0 1)).load 0x2000 8) = 0 := by decide
theorem test_wait_short : (fx (fxWaiting 1 1)).strand fxSid.key = some (fxWaiting 1 1) ∧
    (w64 ((fx (fxWaiting 1 1)).load 0x2000 8)).toNat < 1 ∧
    (CtrWait.mk 0x10002000 0x2000 1 2 1 0 0 0).elapsed (fx (fxWaiting 1 1)) .windward < 1 * 8000 ∧
    0 + (1 * 8000 - 0) ≤ ({ fx (fxWaiting 1 1) with issue8 := ⟨8000, 0⟩ } : State).time8 .windward := by decide
/-- The fixture with stack 0 trained and a leaf of partition 0 cached that maps 0x10000000 to the stack's first 64 KiB. -/
def fxMapped : State :=
  { fx { fxStrand with scal := [(1, 0x10002000)] } with
    stk := [(0, some { Stack.empty with trained := true })]
    tlb := [⟨.windward, 0, 0, 0x10000000, 16, 0x1F⟩] }
theorem test_waitc_ready : Issues fxMapped fxSid .access { fxStrand with scal := [(1, 0x10002000)] } ∧
    (({ fxStrand with scal := [(1, 0x10002000)] } : Strand).sreg .access 1 +
      w64 (unsignedOf (signed (fxF 2 1 0 0x100000000).imm.toNat 32) 64)).toNat = 0x10002000 ∧
    (fxF 2 1 0 0x100000000).imm.toNat / 2 ^ 32 ≠ 0 ∧ 0x10002000 % 8 = 0 ∧
    (fxMapped.takeStream fxSid .access { fxStrand with scal := [(1, 0x10002000)] }).coreTranslate .windward 0 0 0x10002000 .r =
      (fxMapped.takeStream fxSid .access { fxStrand with scal := [(1, 0x10002000)] }, .ok 0x2000 false) ∧
    (fxMapped.takeStream fxSid .access { fxStrand with scal := [(1, 0x10002000)] }).counterBad 0 0x2000 = none :=
  ⟨⟨rfl, by decide, by decide, by decide⟩, by decide⟩
/-- d0: 8 elements of 32 bits side by side; d1: the same at scratchpad 0x200; d2: 256 bytes at 0x400. -/
def fxDesc (base esize size stride : Nat) : DescWord :=
  BitVec.ofNat 256 (base + esize * 2 ^ 21 + size * 2 ^ 64 + stride * 2 ^ 128)
def fxMemStrand : Strand :=
  { fxStrand with
    scal := [(1, 0x10002000), (2, 0x10003000)]
    desc := [(0, fxDesc 0 4 8 4), (1, fxDesc 0x200 4 8 4), (2, fxDesc 0x400 2 256 1), (3, fxDesc 0x600 4 8 4)]
    queueMask := 0xFF }
/-- Stack 0 trained, and a leaf of partition 0 that maps 0x10000000 to its first 64 KiB. -/
def fxMem (x : Strand) : State :=
  { fx x with
    stk := [(0, some { Stack.empty with trained := true })]
    tlb := [⟨.windward, 0, 0, 0x10000000, 16, 0x1F⟩] }
def fxTook (x : Strand) : State := (fxMem x).takeStream fxSid .access x
def fxY (x : Strand) : Strand := ((fxTook x).strand fxSid.key).getD fxStrand
def fxM (opS opM opX rs rt : Nat) : MF := ⟨BitVec.ofNat 6 opS, BitVec.ofNat 6 opM, BitVec.ofNat 6 opX, BitVec.ofNat 4 rs, BitVec.ofNat 4 rt, 0⟩
theorem fxMem_issues : Issues (fxMem fxMemStrand) fxSid .access fxMemStrand := ⟨rfl, by decide, by decide, by decide⟩
/-- The memory hypotheses of a load or store met by a shape and an instruction in flight. -/
def fxReaches (perm : Perm) (m : Inflight → Inflight) (rows : List (Nat × Nat)) : Bool :=
  match (fxTook fxMemStrand).placeRuns fxSid 0 perm 32 rows with
  | (u, .inr runs) => (u.unmapped 0 runs).isNone && u.memRoom fxSid (fxY fxMemStrand) (m (Inflight.fresh .ld runs false .none))
  | _ => false
theorem test_load_ready : mfReserved (fxM 1 0 63 1 0) = false ∧ (fxM 1 0 63 1 0).rt = 0 ∧ selOf (fxM 1 0 63 1 0).opM = .desc 0 ∧
    (fxY fxMemStrand).isBusy .access [1, 0] = false ∧ (fxY fxMemStrand).selBad .access true (.desc 1) = none ∧
    (fxY fxMemStrand).shapeBad (.desc 0) = none ∧ padHalt (descOf (fxMemStrand.dreg .access 1)) = none ∧
    (descOf (fxMemStrand.dreg .access 1)).elems = (descOf (fxMemStrand.dreg .access 0)).elems ∧
    (fxY fxMemStrand).spanBusy .access (descOf (fxMemStrand.dreg .access 1)).span true = false := by decide
theorem test_load_reaches : (∀ r ∈ shapeRuns (descOf (fxMemStrand.dreg .access 0)) (mfAddr (fxY fxMemStrand) (fxM 1 0 63 1 0)),
      r.1 % runBytes 1 32 = 0) ∧
    fxReaches .r id (shapeRuns (descOf (fxMemStrand.dreg .access 0)) (mfAddr (fxY fxMemStrand) (fxM 1 0 63 1 0))) = true := by decide
theorem test_load_queue_ready : selOf (fxM 32 0 63 1 0).opS = .queue 0 ∧ ((fxY fxMemStrand).queue 0).length < 32 ∧
    (fxY fxMemStrand).selBad .access true (.queue 0) = none := by decide
theorem test_gather_ready : mfReserved (fxM 1 0 3 1 0) = false ∧ (fxY fxMemStrand).selBad .access false (.desc 3) = none ∧
    (descOf (fxMemStrand.dreg .access 3)).esize = 4 ∧ padHalt (descOf (fxMemStrand.dreg .access 3)) = none ∧
    (fxY fxMemStrand).spanBusy .access (descOf (fxMemStrand.dreg .access 3)).span false = false ∧
    ((fxTook fxMemStrand).demandOperand 0 (spadBase .windward 0) (descOf (fxMemStrand.dreg .access 3))).2 = none ∧
    spansMeet (descOf (fxMemStrand.dreg .access 0)).span (descOf (fxMemStrand.dreg .access 3)).span = false := by decide
theorem test_gather_reaches :
    fxReaches .r (fun m => { m with kind := .gather, value := 8 })
      (((fxTook fxMemStrand).operandElems (spadBase .windward 0) (descOf (fxMemStrand.dreg .access 3))).flatMap (fun e =>
        shapeRuns (descOf (fxMemStrand.dreg .access 0)) (va64 ((mfAddr (fxY fxMemStrand) (fxM 1 0 3 1 0) : Int) + signed e 32 * 0)))) =
      true := by decide
theorem test_store_reaches : (descOf (fxMemStrand.dreg .access 0)).repeats = false ∧
    (fxY fxMemStrand).selBad .access false (.desc 1) = none ∧
    fxReaches .w id (shapeRuns (descOf (fxMemStrand.dreg .access 0)) (mfAddr (fxY fxMemStrand) (fxM 1 0 63 1 0))) = true ∧
    ((fxTook fxMemStrand).storeElems fxSid 0 (descOf (fxMemStrand.dreg .access 1))).2.2.2 = none ∧
    ((fxTook fxMemStrand).coreTranslate .windward 0 0 0x10003000 .w).2 = .ok 0x3000 false ∧ 0x10003000 % 8 = 0 ∧
    (fxTook fxMemStrand).staCounterBad 0 0x3000 [0] = none := by decide
theorem test_word_ready : fxMemStrand.isBusy .access [3, 1, 1] = false ∧
    (fxMemStrand.sreg .access 1 + (fxF 3 1 1 0).imm).toNat = 0x10002000 ∧ (fxMemStrand.sreg .access 1 + (fxF 3 1 1 4).imm).toNat % 8 ≠ 0 ∧
    (match (fxTook fxMemStrand).placeWord fxSid 0 0x10002000 .atadd with
     | (u, .inr runs) => (u.unmapped 0 runs).isNone && u.memRoom fxSid (fxY fxMemStrand) (wordFlight .atadd runs (fxF 3 1 1 0) 0) &&
        u.memRoom fxSid (fxY fxMemStrand) (wordFlight .sld runs (fxF 3 1 1 0) 0)
     | _ => false) = true := by decide
/-- 256 B at scratchpad 0x400 pushed to AQ0. -/
theorem test_push_ready : fxMemStrand.prog .access = none ∧ (fxY fxMemStrand).moveHalt (fxM 2 32 63 0 0) true = none ∧
    (fxY fxMemStrand).padBehind (fxY fxMemStrand).nextId = false ∧ ((fxY fxMemStrand).queue 0).length < 32 ∧
    (match ((fxTook fxMemStrand).setStrand fxSid.key (fxY fxMemStrand)).demandOperand 0 (spadBase .windward 0)
        (descOf (fxMemStrand.dreg .access 2)) with
     | (v, b) => b.isNone && v.strand fxSid.key == some (fxY fxMemStrand) &&
        ((pushAll ((toEntries (queueBytes 8 256 (v.operandElems (spadBase .windward 0) (descOf (fxMemStrand.dreg .access 2))))).map
          (fun e => (0, e))) (fxY fxMemStrand)).2).isEmpty) = true := by decide
def fxPopStrand : Strand := { fxMemStrand with queues := [(4, [⟨List.replicate 256 7, false⟩])] }
theorem test_pop_ready : fxPopStrand.prog .access = none ∧ (fxY fxPopStrand).moveHalt (fxM 2 36 63 0 0) false = none ∧
    (fxY fxPopStrand).queue 4 ≠ [] ∧ (popNeeds [(0, 4, 256)] (fxY fxPopStrand) ⟨[], [], false, []⟩).2.2 = false ∧
    entriesOf 256 ≤ ((popNeeds [(0, 4, 256)] (fxY fxPopStrand) ⟨[], [], false, []⟩).2.1.have 0).length / 256 := by decide
theorem test_fence_ready : fxMemStrand.cmds = [] ∧ fxMemStrand.inflight = [] ∧ fxMemStrand.badCmd = none ∧
    ({ fxMemStrand with badCmd := some 0x40 } : Strand).cmds = [] := by decide
/-- 0x20000000 maps the port window of stack 0; the command is a STK_NOP of zeros. -/
def fxPort : State :=
  { fxMem { fxMemStrand with scal := [(1, 0x20000000)] } with tlb := [⟨.windward, 0, 0, 0x20000000, 16, w64 (0x38000000000 + 0x1F)⟩] }
theorem test_scmd_ready :
    (fxPort.takeStream fxSid .access { fxMemStrand with scal := [(1, 0x20000000)] }).coreTranslate .windward 0 0 0x20000000 .w =
      (fxPort.takeStream fxSid .access { fxMemStrand with scal := [(1, 0x20000000)] }, .ok 0x38000000000 false) ∧
    (fxPort.takeStream fxSid .access { fxMemStrand with scal := [(1, 0x20000000)] }).portOf 0 0x38000000000 = .inl 0 ∧
    padHalt (descOf (fxMemStrand.dreg .access 2)) = none ∧ bit (cFlags (List.replicate 256 0)) 1 = false ∧
    cOpcode (List.replicate 256 0) ≠ 1 ∧
    (fxPort.demandOperand 0 (spadBase .windward 0) (descOf (fxMemStrand.dreg .access 2))).2 = none := by decide
/-- An LXSUB whose status_va, 0x10004000 in its bytes C8, is mapped. -/
def fxLay : State := { fxMem fxMemStrand with mem := [(0x300000004CA, 0x40), (0x300000004CB, 0x10)] }
theorem test_lxsub_ready : (descOf (fxMemStrand.dreg .access 2)).ndim = 1 ∧ (descOf (fxMemStrand.dreg .access 2)).size 0 = 256 ∧
    (descOf (fxMemStrand.dreg .access 2)).esize = 2 ∧
    (match (fxLay.takeStream fxSid .access fxMemStrand).demandOperand 0 (spadBase .windward 0) (descOf (fxMemStrand.dreg .access 2)) with
     | (u, none) => (match u.statusOf fxSid 0 0x10000000 with | (v, .inl _) => v.layRoom .windward 0 | _ => false)
     | _ => false) = true := by decide
/-- A doubleword load in flight. -/
def fxFlight (kind : MemKind) : Inflight :=
  { Inflight.fresh kind [⟨0x10002000, 1, [(0x2000, 8, false)]⟩] (kind == .atadd) (.scalar 3) with id := 0, place := 0x40 }
def fxFly (kind : MemKind) : State := fxMem { fxMemStrand with inflight := [fxFlight kind], busy := [3] }
theorem test_answer_ready : (fxFly .sld).isLocal 0x2000 = true ∧ (fxFly .sld).spotWait 0x2000 = .go ∧ (fxFly .sld).outstanding .windward ≤ 4096 ∧
    (((fxFly .sld).setStrand 0 { fxMemStrand with inflight := [fxFlight .sld], busy := [3] }).spotRead (.strand 0) (askedBy ((fxFly .sld).corePage .windward 0) 0) 0 false 0x2000 8).2.1 = 0 ∧
    (((fxFly .atadd).setStrand 0 { fxMemStrand with inflight := [fxFlight .atadd], busy := [3] }).homeAdd (askedBy ((fxFly .atadd).corePage .windward 0) 0) 0 0x2000 0).2.1 = 0 := by decide
theorem test_timeouts_ready : (fx fxStrand).strand fxSid.key = some fxStrand ∧ fxStrand.active = true ∧ fxStrand.waitE = none ∧
    (fx fxStrand).coreClock .windward = true ∧
    fxStrand.wdSince8 + (fxStrand.wdUs * 8000 - fxStrand.wdElapsed8) ≤
      ({ fx fxStrand with issue8 := ⟨8000000, 0⟩ } : State).time8 .windward ∧
    ({ fxStrand with blockA := some (.queue 4), blockE := some (.queue 0) } : Strand).waitsQueue .access = some 4 ∧
    ({ fxStrand with blockA := some (.queue 4), blockE := some (.queue 0) } : Strand).waitsQueue .execute = some 0 := by decide
theorem test_hold_ready :
    (({ fx fxStrand with cores := [(0, some { fxCore with holdA := some 0 })] } : State).core .windward 0).hold .access = some 0 ∧
    0 + ceilDiv (4096 * 8000) (({ fx fxStrand with issue8 := ⟨9999999999, 0⟩ } : State).clock50 .windward * 50) ≤
      ({ fx fxStrand with issue8 := ⟨9999999999, 0⟩ } : State).time8 .windward := by decide
/-- d0 and d1 FP32 vectors of 4 in the execute stream, d2 their result; d3 a 128 by 128 block of FP8. -/
def fxTenStrand : Strand :=
  { fxStrand with desc := [(32, fxDesc 0 4 4 4), (33, fxDesc 0x100 4 4 4), (34, fxDesc 0x200 4 4 4)] }
def fxT (od oa ob fmt : Nat) : TF :=
  ⟨BitVec.ofNat 6 od, BitVec.ofNat 6 oa, BitVec.ofNat 6 ob, 63, BitVec.ofNat 4 fmt, BitVec.ofNat 4 fmt, BitVec.ofNat 4 fmt, 0, false, 0, 0, false, 0⟩
theorem fxTen_issues : Issues (fx fxTenStrand) fxSid .execute fxTenStrand := ⟨rfl, by decide, by decide, by decide⟩
/-- A plan is given, its spans are in order, its operands are descriptors, and its sources can be read. -/
def fxRuns (plan : Strand → State → Nat ⊕ Plan) : Bool :=
  let t := (fx fxTenStrand).takeStream fxSid .execute fxTenStrand
  let y := (t.strand fxSid.key).getD fxStrand
  match plan y t with
  | .inr p => spanHalt y .execute p == none && (p.srcs ++ p.dsts).all (fun o => match o.sel with | .desc _ => true | _ => false) &&
      (readSrcs fxSid y .execute (fun _ => []) 0 p.srcs (t.setStrand fxSid.key y)).2.1 == none
  | _ => false
theorem test_vector_ready : fxRuns (elementwise fxSid .execute (fxT 2 0 1 0) [(0, 0), (1, 0)] 0 (binary Sys2Proof.Machine.Num.add)) = true := by decide
theorem test_reduce_ready : fxRuns (elementwise fxSid .execute (fxT 2 0 63 0) [(0, 0)] 0 (unary fRcp)) = true := by decide
theorem test_copy_ready : fxRuns (xcopyPlan .execute (fxT 2 0 63 0)) = true := by decide
theorem test_tmark_ready : Issues (fx fxStrand) fxSid .execute fxStrand ∧ tfReserved (fxT 63 63 63 0) true = false ∧
    tfReserved (fxT 40 63 63 0) true = true := ⟨fx_issues _, by decide⟩
theorem test_step_ready : ({ State.reset with pending := [.jtagBypass] } : State).pending = .jtagBypass :: [] ∧ State.reset.pending = [] ∧
    Safe State.reset ∧ step State.reset = .next State.reset.tick := ⟨rfl, rfl, ⟨rfl, rfl⟩, rfl⟩
/-- Ring 0 runs with 16 entries at 0x1000; tables that map the first GiB of addresses to stack 0; partition 0 has core 0. -/
def fxRing (tail : Nat) : State :=
  fxSet { fxBase with mem := [(0, 1), (1, 0x20), (0x2000, 1), (0x2001, 0x30), (0x3000, 0x1F), (0x4009, 1), (0x400C, 1), (0x4010, 1),
      (0x4040, 1), (0x10000, 0x4F), (0x10001, 0x4C), (0x10002, 0x4B), (0x10003, 0x31), (0x10004, 1), (0x10006, 0x11), (0x10009, 1),
      (0x1000D, 1)] }
    [(ringBase .windward 0 + 8, 0x14), (ringBase .windward 0 + 0x14, tail), (ringBase .windward 0, 0x4000), (schedPage .windward + 0xA00, 1),
     (schedPage .windward + partOff 0 + 8, 1)]
theorem test_ring_ready : (fxRing 1).ringRuns .windward 0 = true ∧ fxBase.ringRuns .windward 63 = false ∧
    (16 + 65536 - (fxRing 1).ringTail .windward 0) % 65536 + ((fxRing 1).ringTail .windward 0 + 65536 - (fxRing 1).ringHead .windward 0) % 65536 =
      2 ^ (fxRing 1).ringLog2 .windward 0 := by decide
theorem test_descriptor_reads : (fxRing 1).mayRead .windward 0 = true ∧ (fxRing 1).descReadable ((fxRing 1).descPa .windward 0) = true ∧
    (fxRing 1).descPa .windward 0 = 0x4000 ∧ ((fxRing 1).demand (askedBy (schedPage .windward) 0x12) (some 0) 0x4000 128).2 = none ∧
    leAt ((fxRing 1).bytes 0x4000 128) 0x30 8 = 0 ∧ (((fxRing 1).undoom 0).doneAt .windward 0 0x4010).2 = .inr (some 0x4010) ∧
    (((fxRing 1).undoom 0).doneAt .windward 0 0x4011).2 = .inl 5 ∧ (fxSet (fxRing 1) [(ringBase .windward 0, 2 ^ 36)]).mayRead .windward 0 = true ∧
    (fxSet (fxRing 1) [(ringBase .windward 0, 2 ^ 36)]).descReadable (2 ^ 36) = false ∧
    (({ fxRing 1 with units := [(0x4000, ⟨false, true, false, false, false, false⟩)] } : State).demand (askedBy (schedPage .windward) 0x12) (some 0) 0x4000 128).2.isSome = true := by decide
def fxLaunch : Launch := { launchOf .windward 0 0 0x4000 ((fxRing 1).bytes 0x4000 128) (fxRing 1) with donePa := none }
theorem test_descriptor_judged : (fxRing 1).launchOk fxLaunch = true ∧ (fxRing 1).launchOk { fxLaunch with prio := 4 } = false ∧
    ({ fxRing 1 with doomed := [launchKey .windward 0 0] } : State).doomed.contains (launchKey .windward 0 0) = true := by decide
/-- The launch checked, with an image of 512 bytes at 0x10000. -/
def fxChecked : State := { fxRing 1 with launches := [{ fxLaunch with kernelVa := 0x10000, imageLen := 0x200 }] }
theorem test_launch_turn : fxChecked.launchTurn { fxLaunch with kernelVa := 0x10000, imageLen := 0x200 } = true ∧ fxChecked.coresOk 0 1 = true ∧
    selCores 1 = [(.windward, 0)] := by decide
theorem test_launch_image :
    fxChecked.imageHeld .windward 0 0x10000 0x200 = false ∧
    (match imageRead .windward 0 (granules 0x10000 0x200) fxChecked with
     | (t, .inr b) => (t.copyOn .windward 0 0 0x10000).isNone &&
        headerOf 0x200 (Image.mk 0 0x10000 0x200 (sparseBytes b) [] []).field == some (0x11, 0x100, 0x100) &&
        t.coreRoom { fxLaunch with kernelVa := 0x10000, imageLen := 0x200 } .windward 0 2
     | _ => false) = true := by decide
theorem test_launch_ends : ({ fxLaunch with stage := .started } : Launch).stage = .started ∧ fxChecked.launchBusy fxLaunch.key = false ∧
    ({ fxLaunch with deadline := 1 } : Launch).deadline ≠ 0 ∧ fxLaunch.missed = false ∧ fxLaunch.missDone = false ∧
    bits (w64 (0 + 65535 * 2 ^ 16)).toNat 16 16 = 65535 ∧
    (0 + 65536 - (fxRing 1).ringNext .windward 0) % 65536 <
      ((fxRing 1).ringTail .windward 0 + 65536 - (fxRing 1).ringNext .windward 0) % 65536 := by decide
theorem test_inval_ready : Who.root (.strand 0) = true ∧ Who.root (.strand 15) = false ∧ bit (w64 1).toNat 0 = true ∧ bit (w64 2).toNat 0 = false ∧
    ({ fxBase with inval := [⟨0, 1⟩] } : State).inval = ⟨0, 1⟩ :: [] := by decide
theorem test_parts_ready : fxBase.locked (schedPage .windward) = false ∧
    (fxBase.setReg (schedPage .windward + partOff 15 + 4) 0xFFFF).partsOk = true ∧
    ((fxSet fxBase [(schedPage .windward + partOff 1, 3), (schedPage .windward + partOff 2, 3), (schedPage .windward + partOff 1 + 4, 1)]).setReg
      (schedPage .windward + partOff 2 + 4) 1).partsOk = false ∧ nibbleSum 0x1111111111111111 = 16 ∧ nibbleSum 0x1111111111111112 = 17 := by decide
/-- A multicast of 256 bytes whose data has come; the strand's load into queue 0 has joined it. -/
def fxMcast : McastEntry := ⟨0, .windward, 0, 0, 1, 0, 0x2000, 0, 0, 256, some (List.replicate 256 7), [0], [], 0, false, 0, true, [], [], none, false⟩
def fxMember : Inflight :=
  { Inflight.fresh .ld [⟨0x10002000, 1, [(0x2000, 256, false)]⟩] false (.queue 0 1) with mcast := some 0 }
def fxJoined : State := { fx { fxStrand with inflight := [fxMember] } with mcast := [fxMcast] }
theorem test_mcast_ready : fxJoined.mcast.find? (fun x => x.id == 0 && x.die == .windward && !x.freed) = some fxMcast ∧
    ({ fxStrand with inflight := [fxMember] } : Strand).inflight.find? (fun y => y.mcast == some 0) = some fxMember ∧
    fxMember.rest = none ∧ ({ fxStrand with inflight := [fxMember] } : Strand).padBehind fxMember.id = false ∧ fxStrand.active = true ∧ fxMcast.served.contains fxSid.key = false ∧
    (fxJoined.pushLoad fxSid fxMember 0 ((toEntries (List.replicate 256 7)).drop fxMember.byteOff)).2 = true := by decide
/-- Core 0 shared by partitions 0 and 1; a strand of partition 0 is resident and one of partition 1 is parked. -/
def fxShared (asked : Bool) (l : Map (Option Strand)) : State :=
  fxSet { fxBase with
      strands := l
      cores := [(0, some { fxCore with holder := some 0, turnAsked := asked, parked := [(1, { fxStrand with part := 1, stat := .parked })] })] }
    [(schedPage .windward + partOff 1, 1 + 2 ^ 16), (schedPage .windward + partOff 0 + 8, 1), (schedPage .windward + partOff 1 + 8, 1)]
theorem test_turn_ready : (fxShared false [(0, some fxStrand)]).holderOf .windward 0 = some 0 ∧
    (fxShared false [(0, some fxStrand)]).nextHolder .windward 0 0 = some 1 ∧ (fxShared true []).coreLeft .windward 0 0 = true ∧
    (fxShared true []).nextHolder .windward 0 0 = some 1 ∧ (fxShared false []).resident .windward 0 = [] ∧
    ((fxShared true []).core .windward 0).turnAsked = true ∧ (fxShared true []).turnOver .windward 0 = true ∧
    (fxShared false [(0, some { fxStrand with stat := .waiting })]).turnOver .windward 0 = false := by decide
def fxWaitE : Strand := { fxStrand with parkAsked := true, waitE := some ⟨0x10002000, 0x2000, 1, 2, 1, 0, 0, 0⟩ }
theorem test_park_ready : ({ fxStrand with parkAsked := true, atMark := true } : Strand).atKillPoint = true ∧ fxStrand.active = true ∧
    (fx { fxStrand with parkAsked := true, atMark := true }).strand fxSid.key = some { fxStrand with parkAsked := true, atMark := true } ∧
    (fxWaitE.waitE = some ⟨0x10002000, 0x2000, 1, 2, 1, 0, 0, 0⟩ ∧ fxWaitE.atKillPoint = true) := by decide
theorem test_resume_ready : (fxSet { fxBase with cores := [(0, some { fxCore with parked := [(7, { fxStrand with stat := .parked })] })] }
      [(schedPage .windward + partOff 0 + 8, 1)]).mayResume .windward 0 7 { fxStrand with stat := .parked } = true ∧
    [(7, ({ fxStrand with stat := .parked } : Strand))].find? (fun e => e.1 == 7 && e.2.part == 0) = some (7, { fxStrand with stat := .parked }) := by decide
theorem test_watchdog_cap : (fxRing 1).wdCapMs 0 * 1000 < ({ fxLaunch with wdUs := 1000001 } : Launch).wdUs ∧
    (fxSet fxBase [(schedPage .windward + partOff 1, 2)]).partG 1 = true ∧ fxBase.mayEnable 1 1 fxBase = false ∧
    (fxSet fxBase [(schedPage .windward + 0x0C, 1)]).locked (schedPage .windward) = true := by decide
theorem test_sched_awake (o : Nat) : (fxRing 1).regSleeps o = none ∧ fxBase.regSleeps o = none :=
  ⟨fx_awake (by decide) (by decide) (by decide) o, fx_awake (by decide) (by decide) (by decide) o⟩
/-- A layout descriptor: 1 element copied from 0x20000 to 0x30000. -/
def fxCopyBytes : List Byte := ((((List.replicate 256 (0 : Byte)).set 0x28 1).set 0x40 1).set 0x0A 2).set 0x12 3
def fxLayDesc (b : List Byte) (ck : Bool) : LayoutDesc := ⟨b, 0, 0x1000, none, ck, 0, 0, [], none, none, false⟩
def fxTabs : State :=
  fxSet { fxBase with mem := [(0, 1), (1, 0x20), (0x2000, 1), (0x2001, 0x30), (0x3000, 0x1F)] } [(schedPage .windward + 0xA00, 1)]
def fxLayout (x : LayoutDesc) : State := { fxTabs with layout := ⟨⟨[x], 15, 0⟩, ⟨[], 15, 0⟩⟩ }
def fxRowBytes : List Byte := ((((((List.replicate 256 (0 : Byte)).set 0 4).set 0x28 4).set 0x42 0x10).set 0x0A 2).set 0x12 3).set 0x22 4 |>.set 0xD0 0x20
theorem test_layout_checks : (fxLayout (fxLayDesc fxCopyBytes false)).layFront .windward 0 = some (fxLayDesc fxCopyBytes false) ∧
    (lDesc fxCopyBytes).badFields = [] ∧ (lDesc (List.replicate 256 0)).badFields = 0x28 :: [] := by decide
theorem test_layout_slices : (fxLayout (fxLayDesc fxCopyBytes true)).layNext .windward = some 0 ∧
    (match laySlice .windward 0 (fxLayDesc fxCopyBytes true) (fxLayout (fxLayDesc fxCopyBytes true)) with
     | (y, _, none) => (lDesc fxCopyBytes).units == y.pos | _ => false) = true ∧
    (match laySlice .windward 0 (fxLayDesc fxRowBytes true) (fxLayout (fxLayDesc fxRowBytes true)) with
     | (y, _, none) => y.pos == 12 && (lDesc fxRowBytes).units == 12 | _ => false) = true ∧
    (match laySlice .windward 0 (fxLayDesc fxCopyBytes true) { fxLayout (fxLayDesc fxCopyBytes true) with mem := [] } with
     | (_, _, some (.status st va)) => decide (st = 2 ∧ va = 0x20000) | _ => false) = true := by decide
theorem test_layout_ends : (fxLayout { fxLayDesc fxCopyBytes true with result := some (0, 0, 0) }).layEnded .windward 0 =
      some { fxLayDesc fxCopyBytes true with result := some (0, 0, 0) } ∧
    (fxLayout { fxLayDesc fxCopyBytes true with cancelled := true }).layEnded .windward 0 =
      some { fxLayDesc fxCopyBytes true with cancelled := true } ∧
    fxBase.flag (layoutPage .windward + 0x104) 4 = false ∧ bit (w64 0x1F).toNat 4 = true ∧ fxBase.locked (layoutPage .windward) = false ∧
    nibbleSum 0x4444444444444444 = 64 ∧ nibbleSum 0x4444444444444445 = 65 := by decide
def fxNop : List Byte := (((List.replicate 64 (0 : Byte)).set 1 1).set 0x15 1).set 0x1C 2
def fxPortState (w : PortWrite) : State := { fxBase with stk := [(0, some { Stack.empty with trained := true, port := [w] })] }
theorem test_port_ready : ((fxPortState ⟨0, fxNop, none, 0, 0, true⟩).stack 0).trained = true ∧ cOpcode fxNop = 0 ∧ 3 < cOpcode (fxNop.set 0 4) ∧
    ((fxPortState ⟨0, fxNop, none, 0, 0, true⟩).stack 0).port.find? (fun x => x.admitted) = some ⟨0, fxNop, none, 0, 0, true⟩ ∧
    ((fxPortState ⟨0, fxNop, none, 0, 0, true⟩).leavePort 0 ⟨0, fxNop, none, 0, 0, true⟩).cmdOk 0 ⟨0, fxNop, none, 0, 0, true⟩ = true ∧
    ((fxPortState ⟨0, fxNop.set 1 0, none, 0, 0, true⟩).leavePort 0 ⟨0, fxNop.set 1 0, none, 0, 0, true⟩).cmdOk 0
      ⟨0, fxNop.set 1 0, none, 0, 0, true⟩ = false ∧
    ((fxPortState ⟨15, fxNop, none, 0, 0, false⟩).stack 0).port.find? (fun x => x.part == 15 && !x.admitted) = some ⟨15, fxNop, none, 0, 0, false⟩ ∧
    (fxPortState ⟨15, fxNop, none, 0, 0, false⟩).portRoom 0 15 = true := by decide
/-- A command of stack 0 with one slice for an NBU. -/
def fxCmd (op nbu : Nat) (started : Bool) : StkCmd :=
  { StkCmd.fresh 5 0 (fxNop.set 0 (BitVec.ofNat 8 op)) none with slices := [⟨nbu, [], [], 0, started, 0⟩] }
def fxStack (c : StkCmd) (run : Map Nat) : State := { fxBase with stk := [(0, some { Stack.empty with trained := true, cmds := [c], running := run, gov := 512 })] }
theorem test_slice_ready : ((fxStack (fxCmd 2 511 false) []).stack 0).mayStart 511 = true ∧
    ((fxStack (fxCmd 2 511 false) []).stack 0).nextStart 511 = some 0 ∧
    ((fxStack (fxCmd 2 511 false) []).stack 0).ready 511 0 = some (fxCmd 2 511 false) ∧
    ((fxStack (fxCmd 2 511 true) [(511, 6)]).stack 0).slice 511 = some (fxCmd 2 511 true, ⟨511, [], [], 0, true, 0⟩) ∧
    (fxStack (fxCmd 1 0 false) []).nextScored 0 = some 0 ∧
    (((fxStack (fxCmd 1 0 false) []).takeUnit 0 0).stack 0).cmds.find? (fun x => x.part == 0 && x.needsUnit) = some (fxCmd 1 0 false) ∧
    ((fxStack (fxCmd 0 0 false) []).stack 0).cmd 5 = some (fxCmd 0 0 false) ∧ (fxStack (fxCmd 0 0 false) []).mayComplete 0 (fxCmd 0 0 false) = true :=
  by decide
theorem test_control_ready : Who.part (.strand 15) = some 15 ∧ bit (w64 1).toNat 0 = true ∧ bit (w64 2).toNat 0 = false ∧
    (1 % 2 ^ 32 + 2 ^ 32 - (fxSet fxBase [(ctlPage 15 15 + 0x18, 1)]).fld (ctlPage 15 15 + 0x1C) 0 32) % 2 ^ 32 ≤
      ((fxSet fxBase [(ctlPage 15 15 + 0x18, 1)]).fld (ctlPage 15 15 + 0x18) 0 32 + 2 ^ 32 -
        (fxSet fxBase [(ctlPage 15 15 + 0x18, 1)]).fld (ctlPage 15 15 + 0x1C) 0 32) % 2 ^ 32 ∧
    fxBase.locked (stackPage 0) = false ∧ (fxBase.stack 0).changing = false ∧
    ({ Stack.empty with going1 := some false } : Stack).changing = true ∧ ({ Stack.empty with going1 := some false } : Stack).going 1 = some false ∧
    ({ Stack.empty with going0 := some true } : Stack).going 0 = some true ∧ ([] : List StkCmd).any (fun c => c.namesHalf 1) = false := by decide
theorem test_own_ready : fxBase.fld (stackPage 0 + 0x104) 0 16 = 0 ∧ 0 * 2 ^ 20 < fxBase.stackBytes ∧
    (fxBase.stack 0).retiredGranules.contains 0 = false ∧ (fxBase.setReg (schedPage .windward + partOff 15 + 4) 1).mayOwn 0 0 15 = true ∧
    nibbleSum 0x1111111111111111 = 16 ∧ nibbleSum 0x1111111111111112 = 17 := by decide
def fxGroup (n : Nat) : Group := ⟨3, 0, 0, 1, 0, .windward, 0, 0, 64, false, [], List.replicate n 0, 0, false, [], none, 0, [], 0, false, false⟩
def fxBasin (b : Basin) : State := { fxBase with basin := ⟨b, ⟨[], [], [], []⟩⟩ }
theorem test_basin_ready :
    (fxBasin ⟨[], [], [⟨0, 8, none, 0, 0, 0, none⟩], []⟩).canReserve .windward 0 8 = true ∧
    ([⟨0, 8, none, 0, 0, 0, none⟩] : List RsvWait).find? (fun x => x.part == 0) = some ⟨0, 8, none, 0, 0, 0, none⟩ ∧
    ((fxBasin ⟨[fxGroup 0], [], [], [⟨3, 1, 0, 0, [], 0, [], 64, false⟩]⟩).basin.get .windward).group 3 1 = none ∧
    ((fxBasin ⟨[fxGroup 0], [], [], [⟨3, 0, 0, 0, [], 0, [], 64, false⟩]⟩).basin.get .windward).group 3 0 = some (fxGroup 0) ∧
    ([fxGroup 1] : List Group).find? (fun x => x.handle == 3) = some (fxGroup 1) ∧ (fxGroup 1).arrived.length = (fxGroup 1).membersM1 + 1 ∧
    fxBase.domainStopped .windward 0 = false := by decide
theorem test_rsv_ready : (fxGroup 1).bad = false ∧ ({ fxGroup 1 with bad := true } : Group).bad = true ∧ (rsvOf 9).bad = true ∧ (rsvOf 8).bad = false ∧ (rsvOf (95 * 2 ^ 12 + 8)).bad = false ∧ (rsvOf (96 * 2 ^ 12 + 8)).bad = true ∧
    (fxBase.canReserve .windward 0 8 && (fxBase.basin.get .windward).first 0 none) = true ∧
    ((fxSet fxBase [(basinPage .windward + 0x100, 0)]).canReserve .windward 0 8) = false ∧
    (fxBasin ⟨[fxGroup 0], [], [], []⟩).sccGroup .windward 3 = some (fxGroup 0) ∧ fxBase.locked (basinPage .windward) = false := by decide
theorem test_pool_ready : fxBase.locked (poolPage .windward) = false ∧ exclusiveOk 0 (fxBase.poolMasks .windward) = true ∧
    exclusiveOk 0x8000 (fxBase.poolMasks .windward) = false ∧ exclusiveOk 0x8000 ((fxBase.poolMasks .windward).set 15 0x8000) = false ∧
    (fxBase.poolWays .windward 15).filter (fun w => !bit 0xFFFF w) = [] ∧ (fxBase.poolWays .windward 15).filter (fun w => !bit 0x7FFF w) = [15] := by decide
def fxMaint (a : Activity) (running : Bool) : State := { fxBase with maint := [⟨a, 0, running, false⟩] }
theorem test_repair_ready : 0xFFFF < fxBase.stackBytes ∧
    (fxMaint (.rowRepair 0 0) false).nextRepair (Activity.isRowOf 0) = some ⟨.rowRepair 0 0, 0, false, false⟩ ∧
    fxBase.nextRepair (Activity.isSwapOf 15 15) = none ∧
    (fxMaint (.nbuSwap 15 511) false).nextRepair (Activity.isSwapOf 15 15) = some ⟨.nbuSwap 15 511, 0, false, false⟩ ∧
    (fxMaint (.vcSwap 15 31 255) false).nextRepair (Activity.isVcOf 15 31) = some ⟨.vcSwap 15 31 255, 0, false, false⟩ ∧
    (fxMaint (.rvrRefresh 11 2) true).rateChange (.controller 11) = some ⟨.rvrRefresh 11 2, 0, true, false⟩ := by decide
/-- Stack 0 in compute mode; NBU 0, which the repair needs, runs. -/
def fxBusyPair : State :=
  fxSet { fxBase with stk := [(0, some { Stack.empty with trained := true, cmds := [fxCmd 2 0 false] })], maint := [⟨.rowRepair 0 0, 0, false, false⟩] }
    [(stackPage 0 + 0x100, 0x303)]
theorem test_repair_starves : fxBusyPair.maint.find? (fun y => y.starves fxBusyPair 0) = some ⟨.rowRepair 0 0, 0, false, false⟩ := by decide
theorem test_retire_ready : (fxBase.role .windward 96).logical = none ∧ (fxBase.role .windward 96).retired = false ∧
    (fxBase.role .windward 0).logical = some 0 ∧ (fxBase.role .windward 0).retired = false ∧ bit (w64 1).toNat 0 = true ∧
    (fxMaint (.coreRetire .windward 0) true).mayMigrate .windward 0 0 = true ∧
    (fxMaint (.coreRetire .windward 0) true).spareCore .windward = some 96 := by decide
theorem test_retire_last : ({ fxMaint (.coreRetire .windward 0) true with roles := (List.range 8).map (fun i => (96 + i, some ⟨none, true⟩)) } :
    State).spareCore .windward = none := by decide
def fxScrub (q : List Nat) : State := { fxBase with scrub := [(scrubKey (pg .windward Blk.scrub 0), some ⟨0, q, [], 0, 0, false⟩)] }
theorem test_scrub_ready : 0 < fxBase.scrubUnits 0 .windward ∧ fxBase.flag (pg .windward Blk.scrub 0 + 0x100) 16 = true ∧
    fxBase.mayScrub (scrubUnitAt .windward 0 (fxBase.scrubber (pg .windward Blk.scrub 0)).cursor) = true ∧
    fxBase.rowMayStart (scrubUnitAt .windward 0 (fxBase.scrubber (pg .windward Blk.scrub 0)).cursor) = true ∧
    ((fxScrub [0x40]).scrubber (pg .windward Blk.scrub 0)).queue = 0x40 :: [] ∧ (fxScrub [0x40]).mayScrub 0x40 = true ∧
    ({ fxBase with units := [(0x40, ⟨true, false, false, true, false, false⟩)] } : State).unit 0x40 = ⟨true, false, false, true, false, false⟩ ∧
    fxBase.locked (pg .leeward Blk.scrub 13) = false := by decide
/-- Reservoir controller 11 has trained. -/
def fxRvr : State := fxSet fxBase [(rvrPage 11 + 0x104, 1), (rvrPage 11 + 0x100, 2 ^ 16)]
theorem test_poll_ready : fxRvr.flag (rvrPage 11 + 0x104) 0 = true ∧ fxRvr.rvrFailed 11 = false ∧
    (∀ x ∈ [((1 : Nat), false)], x.2 = false) ∧ ([((1 : Nat), false), (2, true)].length = 1 + 1) ∧
    (∀ j, j < 1 → ([((1 : Nat), false), (2, true)][j]?.map (·.2)) = some false) ∧ ([((1 : Nat), false), (2, true)][1]?.map (·.2)) = some true := by decide
def fxAsleep (p : Nat) : State := fxSet fxBase [(pwrState .windward, p)]
def fxFly1 : Strand := { fxStrand with inflight := [Inflight.fresh .sld [⟨0x10002000, 1, [(0x2000, 8, false)]⟩] false (.scalar 3)] }
theorem test_wake_ready : (fxAsleep 1).domainStopped .windward 0 = true ∧ (fxAsleep 2).domainStopped .windward 6 = true ∧
    ({ fxAsleep 2 with strands := [(0, some fxFly1)] } : State).strand fxSid.key = some fxFly1 ∧ ({ fxAsleep 2 with held := [.hostRead 0x40 4] } : State).held.find? (fun y => y.addr == 0x40) = some (.hostRead 0x40 4) ∧
    (fxFly1.inflight.find? (fun y => y.id == 0)).isSome = true ∧
    ({ fxAsleep 2 with strands := [(0, some fxFly1)] } : State).strand 0 = some fxFly1 ∧
    (({ fxAsleep 2 with held := [.hostRead 0x40 4] } : State).requester .crossing 0x40).isSome = true ∧
    ((fxAsleep 2).requester (.host false) 0x40).isSome = true ∧
    ((fxStack (fxCmd 2 0 true) []).requester (.stack 0 5) 0).isSome = true ∧
    (({ fxAsleep 2 with strands := [(0, some fxFly1)] } : State).requester (.strand fxSid 0) 0x2000).isSome = true ∧
    (fxAsleep 9).exiting .windward = true ∧ (fxAsleep 9).power .windward = 1 ∧
    (fxAsleep 0x90).isOff = false ∧ 9 ≤ (fxAsleep 0x90).stage ∧ (fxAsleep 0x90).stage ≠ 15 := by decide
theorem test_lull_ready : fxBase.lullReady .windward = true ∧ (fxAsleep 4).entering .windward = true ∧ (fxAsleep 4).power .windward = 0 ∧
    (fxAsleep 5).entering .windward = true ∧ (fxAsleep 5).power .windward ≠ 0 ∧ (∀ m ∈ (fxAsleep 5).maint, m.running = false) ∧
    (∀ e ∈ bothDies, (fxAsleep 5).voltWaits e = false) ∧
    (fxAsleep 2).power .windward = 2 := by decide
theorem test_calm_ready : (fxSet fxBase [(pwrState .windward, 1), (pwrState .leeward, 1), (leadPg .windward + 0x104, 1)]).calmReady = true := by decide
theorem test_watch_ready :
    (match ((fxAsleep 2).watchAt .windward).watchDiodes .windward ⟨[], [], [], 0, false⟩ |>.watchChans .windward ⟨[], [], [], 0, false⟩ [] with
     | (t, b) => !((b || t.anyHot .windward) && t.flag (pwrstPg .windward + 0x10C) 10)) = true ∧
    (match ((fxAsleep 2).watchAt .windward).watchDiodes .windward ⟨[1600], [], [], 0, false⟩ |>.watchChans .windward ⟨[1600], [], [], 0, false⟩ [] with
     | (t, b) => ((b || t.anyHot .windward) && t.flag (pwrstPg .windward + 0x10C) 10)) = true := by decide
theorem test_reset_ready : State.reset.pins.rails.contains .hk = true ∧ ({ State.reset with pins := { Pins.coldReset with rails := [] } } :
      State).pins.rails.contains .hk = false ∧
    (State.reset.setPkgRst true).mayBoot = true ∧ (fxBase.setPkgRst true).mayBoot = false ∧
    State.reset.flag (pwrstPg State.reset.active + 0x114) 16 = false ∧ State.reset.pins.clkLost.contains .pcie = false ∧
    ({ fxBase with pins := { Pins.coldReset with rails := [.hk, .stk] } } : State).pins.rails.contains .stk = true ∧
    (({ fxBase with pins := { Pins.coldReset with rails := [.hk, .stk] } } : State).dropRail .stk).railsDown = false := by decide
/-- Port p in a state, the housekeeping processors alive. -/
def fxPort1 (p st : Nat) : State := fxSet fxBase [(portPage p + 0x104, st), (hkPg .windward + 0x100, 4), (hkPg .leeward + 0x100, 4)]
def fxPkt (ty dst : Nat) : Packet := ⟨ty, 1, false, 1, dst, 7, 0, false, 0, .windward, 0x1000, 0, List.replicate 32 0, ⟨1, 0⟩⟩
/-- Window 7 of partition 0 admits module 7 to the first 64 KiB. -/
def fxWindow (p : Nat) : State :=
  { fxPort1 p 2 with windows := [(28, w64 (2 ^ 63)), (29, 0xFFFF), (30, w64 (2 ^ 33 + 7 * 2 ^ 16))] }
theorem test_packet_ready : (fxWindow 23).portLive 23 = true ∧ (fxWindow 23).inOrder 23 ⟨1, 0⟩ = true ∧ (fxWindow 23).inOrder 23 ⟨9, 0⟩ = false ∧ (fxPkt 1 0).dst = ((fxWindow 23).received 23 ⟨1, 0⟩ (pktUnits2 (fxPkt 1 0))).selfId ∧
    ((fxWindow 23).received 23 ⟨1, 0⟩ (pktUnits2 (fxPkt 1 0))).isSplit = false ∧
    ((fxWindow 23).received 23 ⟨1, 0⟩ (pktUnits2 (fxPkt 1 0))).inWindows (fxPkt 1 0) (reqLen (fxPkt 1 0)) (reqPerm (fxPkt 1 0)) = true ∧
    ((fxPort1 23 2).received 23 ⟨1, 0⟩ (pktUnits2 (fxPkt 1 0))).inWindows (fxPkt 1 0) (reqLen (fxPkt 1 0)) (reqPerm (fxPkt 1 0)) = false ∧
    ((fxWindow 23).received 23 ⟨1, 0⟩ (pktUnits2 (fxPkt 1 0))).spotWait 0x1000 = .go ∧
    (fxSet fxBase [(leadPg .leeward + 0x104, 2)]).isSplit = true ∧
    ((fxWindow 23).received 23 ⟨1, 0⟩ (pktUnits2 (fxPkt 1 0))).inCalm = false ∧
    (fxSet (fxWindow 23) [(pwrState .windward, 2), (pwrState .leeward, 2)]).inCalm = true ∧
    knownType 0x21 = false ∧ knownType 0x20 = true ∧ (fxPkt 0x20 1).dst ≠ fxBase.selfId := by decide
theorem test_packet_waits : ({ fxBase with rvrInit := [11] } : State).spotWait (rvrBase 11) = .held ∧
    (fxSet fxBase [(pwrState .windward, 1)]).spotWait (spadBase .windward 0) = .wake .windward := by decide
theorem test_link_ready : (fxPort1 0 3).portLive 0 = true ∧ ((fxPort1 0 3).port 0).replays 0 = [0] ∧
    (({ fxPort1 0 3 with ports := [(0, some { Port.empty with retryTimes := List.replicate 15 0 })] } : State).port 0 |>.replays 0).length = 16 ∧
    (fxPort1 0 2).flag (portPage 0 + 0x104) 3 = false ∧ (fxPort1 0 10).portState 0 = 2 ∧ (fxPort1 0 10).flag (portPage 0 + 0x104) 3 = true ∧
    fxBase.locked (portPage 23) = false ∧ fxBase.gUnitsElse 23 15 + 3520 % 4096 = 3520 ∧ 3520 < fxBase.gUnitsElse 23 15 + 3521 % 4096 ∧
    ({ Port.empty with retrainAt := some 0 } : Port).retrainAt = some 0 := by decide
theorem test_training_ready : (fxSet (fxPort1 5 4) [(portPage 5 + 0x100, 1), (pwrstPg fxBase.active + 0x114, 2 ^ 16)]).portState 5 = 4 ∧
    (fxSet (fxPort1 5 4) [(portPage 5 + 0x100, 1), (pwrstPg fxBase.active + 0x114, 2 ^ 16)]).flag (portPage 5 + 0x100) 0 = true ∧
    (fxSet (fxPort1 5 4) [(portPage 5 + 0x100, 1), (pwrstPg fxBase.active + 0x114, 2 ^ 16)]).flag (pwrstPg fxBase.active + 0x114) 16 = true ∧
    (fxPort1 5 1).portState 5 = 1 ∧ (fxPort1 5 1).identityConflict 5 1 0 = false ∧ (fxPort1 5 1).identityConflict 5 0 0 = true ∧
    (fxPort1 5 2).portState 5 = 2 ∧ (fxPort1 5 3).portState 5 = 3 := by decide
theorem test_watch_links : (fxPort1 12 2).mayBreeze 12 = true ∧ ({ fxPort1 12 2 with lossSeen := [(9, 3)] } : State).lossSeen.contains (9, 3) = true ∧
    (fxPort1 12 2).lossSeen.contains (9, 3) = false ∧ 9 ≠ ((fxPort1 12 2).received 12 ⟨1, 0⟩ 1).selfId ∧
    [fxPkt 1 0].any (fun k => k.vc == 1 && k.falling == false) = true ∧
    [(⟨4, .leeward, 9, 1, 0, 0, 0, 0, false, .gone⟩ : Request)].find? (fun r => r.die == .leeward && r.id == 4) = some ⟨4, .leeward, 9, 1, 0, 0, 0, 0, false, .gone⟩ ∧
    [((9 : Nat), (0 : Nat))].find? (fun e => e.1 == 9) = some (9, 0) := by decide
/-- A child of the time tree: ports 3 and 4 lead to its parent and its backup. -/
def fxTime (st3 st4 : Nat) : State :=
  { fxSet (fxPort1 3 st3) [(timePg + 0x108, 3 * 2 + 2 ^ 6 + 4 * 2 ^ 7 + 2 ^ 12 + 8 * 2 ^ 24), (timePg + 0x10C, 3 * 2 ^ 7), (portPage 4 + 0x104, st4)] with
    time := ⟨some 5, 0, 0, 0, 0⟩ }
theorem test_time_ready : (fxTime 2 2).timeState ≠ 3 ∧ (fxTime 2 2).timePorts = [3, 4] ∧ (fxTime 2 2).timePort = 3 ∧
    ((fxTime 2 2).received 3 ⟨1, 0⟩ 3).time.t1 = some 5 ∧ (fxTime 4 2).parentBad = true ∧ (fxTime 4 2).nextParent = some 4 ∧
    (fxTime 4 4).nextParent = none ∧ (fxTime 4 4).timeState ≠ 2 ∧ fxBase.locked (pg .leeward Blk.time 0) = false ∧
    bit (w64 1).toNat 0 = true ∧ bit (w64 0).toNat 0 = false := by decide
def fxShadow (run all : Bool) : Shadow := ⟨0x1000, 0, run, none, false, [], false, false, false, all, 0⟩
def fxShadows (l : List Shadow) (m : List Host.Cell) : State := { fxBase with shadow := ⟨l, []⟩, mem := m }
theorem test_shadow_ready : fxBase.locked (vroutePage .windward) = false ∧
    ((fxShadows (List.replicate 64 (fxShadow true true)) []).shadow.get .windward).length = 64 ∧
    ((fxShadows (List.replicate 63 (fxShadow true true)) []).shadow.get .windward).length < 64 ∧
    ((fxShadows [fxShadow false false] []).shadowReady .windward (fxShadow false false)).2 = false ∧
    ((fxShadows [fxShadow true false] []).shadowReady .windward (fxShadow true false)).2 = true ∧
    (shadowDesc ((fxShadows [fxShadow true true] [(0x1018, 8)]).bytes 0x1000 64)).peerCtr ≠ 0 ∧
    (fxShadow true true).waits (shadowDesc ((fxShadows [fxShadow true true] []).bytes 0x1000 64)) = false := by decide
def fxDl (f : Nat) : State := fxSet fxBase [(dlBase .windward 63 + 0x1C, f), (dlBase .windward 63, 1999)]
theorem test_monitor_ready : (fxBase.dlFields .windward 63 ((0 : Word) ||| 1).toNat).dlArmed .windward 63 = false ∧
    ((fxDl 1).dlFields .windward 63 ((0 : Word) ||| 1).toNat).dlArmed .windward 63 = true ∧ (fxDl 1).dlMissed .windward 63 = false ∧
    (fxDl 3).dlMissed .windward 63 = true ∧ (fxDl 3).dlArmed .windward 63 = true ∧ ({ fxDl 1 with now := 1001 } : State).dlAt .windward 63 < 1001 ∧
    ({ fxDl 1 with now := 1000 } : State).dlAt .windward 63 = 1000 ∧ ((fxDl 1).dlEvaluate .windward 63).dlArmed .windward 63 = false ∧
    ((fxSet (fxDl 1) [(dlBase .windward 63 + 0x10, 1)]).dlEvaluate .windward 63).dlArmed .windward 63 = true := by decide
def fxHk (h : Hk) : State := { fxBase with hk := ⟨h, Hk.reset⟩ }
def fxAvs (tries : Nat) : AvsReq := ⟨1, 3, .readVolt, 800, tries⟩
def fxOff (l : List AvsReq) : State := fxHk { Hk.reset with downRails := some [.coreW, .sramW], avs := l }
theorem test_housekeeping_ready : Hk.reset.downRails = none ∧
    ((fxOff []).hk.get .windward).downRails = some [.coreW, .sramW] ∧ ((fxOff []).hk.get .windward).avs = [] ∧
    ((fxOff [{ fxAvs 0 with kind := .off }]).hk.get .windward).avs.any (fun q => q.kind == .off) = true ∧
    115 * 16 ≤ (1840 : Int) ∧ (1839 : Int) < 115 * 16 ∧ fxBase.flag (thermPg .leeward + 0x100 + 8 * 4) 20 = false ∧
    ((fxHk { Hk.reset with avs := [fxAvs 2] }).hk.get .windward).nextAvs = some (fxAvs 2) ∧ (fxAvs 2).tries < 3 ∧
    ((fxHk { Hk.reset with avs := [fxAvs 3] }).hk.get .windward).nextAvs = some (fxAvs 3) ∧
    ((fxHk { Hk.reset with raiseTo := some 38 }).hk.get .windward).raiseTo = some 38 ∧
    ((fxHk { Hk.reset with raiseTo := some 38 }).hk.get .windward).avs = [] ∧ (PowerCap.mk 0 (some 5) false none (some 7) false true).t0 = some 5 ∧ PowerCap.fresh ⟨0, none, false, none, some 7, false, true⟩ = true ∧
    ({ Hk.reset with throttling := true, history := [3, 2, 2, 2, 2] } : Hk).rising = true ∧
    ({ Hk.reset with rateOn := true, history := [2, 2, 2, 2, 2] } : Hk).rising = false ∧ (Hk.reset.throttling || Hk.reset.rateOn) = false := by decide
/-- The third sample of channel 0 in a row at its trip limit. -/
def fxTrip : State := fxHk { Hk.reset with chans := [{ Chan.reset with tripRun := 2 }, Chan.reset, Chan.reset, Chan.reset, Chan.reset] }
theorem test_samples_ready : (fxBase.takeSamples .windward [] []).2 = false ∧ fxBase.hkSleeps .windward = false ∧ fxTrip.hkSleeps .windward = false ∧
    (fxTrip.takeSamples .windward [⟨4000000, 0, false, false⟩] [800]).2 = true := by decide
theorem test_estimator_ready : Hk.reset.quietRun = 0 ∧ (Hk.reset.window 5 7 [] (quietWindow 9 [19])).quietRun = 1 ∧
    (({ Hk.reset with quietRun := 7 } : Hk).window 5 7 [] (quietWindow 9 [19])).quietRun = 8 ∧ quietWindow 10 [] = false ∧ (({ Hk.reset with quietRun := 7, windows := List.replicate 7 [5, 7] } : Hk).window 5 7 [] (quietWindow 9 [19])).steady = true ∧ ({ Hk.reset with windows := [[5], [9]] } : Hk).steady = false ∧
    ({ Hk.reset with windows := List.replicate 256 [] } : Hk).windows.length = 256 ∧ fxBase.flag (measPg .windward + 0x204) 30 = false := by decide
theorem test_leadership_ready : fxBase.flag (leadPg .leeward + 0x104) 1 = false ∧ (fxSet fxBase [(leadPg .windward + 0x104, 2)]).flag (leadPg .windward + 0x104) 1 = true ∧
    (({ Hk.reset with lastBeat := some 0, beatsSince := some 0 } : Hk).heard 1000000 1 0).beatsSince.getD 1000000 + 1000000 ≤ 1000000 ∧
    1000001 < (({ Hk.reset with lastBeat := some 0, beatsSince := some 0 } : Hk).heard 1000001 1 0).beatsSince.getD 1000001 + 1000000 ∧
    ({ Hk.reset with lastBeat := some 0 } : Hk).lastBeat = some 0 ∧ fxBase.power .windward < 2 ∧
    ({ Hk.reset with probeMisses := 2 } : Hk).probeMisses + 1 = 3 ∧ ({ Hk.reset with probeMisses := 1 } : Hk).probeMisses + 1 < 3 ∧
    (fxSet fxBase [(hkPg .windward + 0x108, 1)]).fld (hkPg .windward + 0x108) 0 32 ≠ Hk.reset.beatSeen ∧
    fxBase.fld (hkPg .windward + 0x108) 0 32 = Hk.reset.beatSeen := by decide
/-- A model whose one task is published as one second, without weights. -/
def fxModel : ModelPackage := ⟨true, true, [], [[.published 1000000000 0 0 0]], 0, 0, 0, [], [], [], 0, 0⟩
/-- Quiley runs; pair 0 of function 0 runs, with one entry unread. -/
def fxQ (tail : Nat) (q : Quiley) : State :=
  { fxSet fxBase [(fxBase.qpBase 0 0 + 0x10, 0x144), (fxBase.qpBase 0 0 + 0x14, 1), (fxBase.qpBase 0 0 + 0x18, tail)] with
    quiley := { q with running := true, models := [(0, some fxModel)] } }
/-- The 128 B of a submission entry: an opcode and bytes set in an entry of zeros. -/
def fxSqB (op : Nat) (l : List (Nat × Byte)) : List Byte :=
  l.foldl (fun b e => b.set e.1 e.2) ((List.replicate 128 (0 : Byte)).set 0 (BitVec.ofNat 8 op))
/-- A SUBMIT of request 5 with a prompt of 1 token and 1 new one. -/
def fxSub (l : List (Nat × Byte)) : List Byte := fxSqB 1 ([(8, 5), (0x18, 1), (0x1C, 1)] ++ l)
def fxSq (period : Nat) : SqEntry := sqEntry 0 0 (fxSub [(4, BitVec.ofNat 8 period), (5, BitVec.ofNat 8 (period / 256)), (6, BitVec.ofNat 8 (period / 65536))])
def fxTaken (l : List Serve) : State := ((fxQ 1 { Quiley.absent with reqs := l }).takeEntry 0 0).getD fxBase
def fxReq (st : ReqStat) : Serve := { fxBase.newReq (fxSq 0) with stat := st, primary := some 0 }
/-- The first of a command's reasons that holds in a state, as the statements spell it. -/
def fxVerdict (op : Nat) (b : List Byte) (l : SqEntry → State → List (Bool × Nat)) (t : State) : Option Nat :=
  let e := sqEntry 0 0 b
  verdict ((t.shutOut e, 8) :: (sqOpcode b != op, 1) :: l e t)
theorem test_submit_ready : ((fxQ 1 Quiley.absent).takeEntry 0 0).isSome = true ∧
    fxVerdict 1 (fxSub []) submitReasons (fxTaken []) = none ∧
    fxVerdict 1 (fxSub [(0x34, 1), (0x35, 4)]) submitReasons (fxTaken []) = some 1 ∧
    fxVerdict 1 (fxSub [(0x7F, 1)]) submitReasons (fxTaken []) = none ∧
    fxVerdict 1 (fxSqB 6 []) submitReasons (fxTaken []) = some 1 ∧ knownSq 6 = false ∧
    fxVerdict 1 (fxSub [(0x1E, 0x40)]) submitReasons (fxTaken []) = some 7 ∧
    (fxSq 0).shadow = false ∧
    (fxTaken []).overRate (((fxTaken []).newReq (fxSq 0)).withPeer none) = none ∧
    (fxTaken []).overRate (((fxTaken []).newReq (fxSq 100)).withPeer none) = some 1000035 := by decide
theorem test_commands_ready :
    fxVerdict 3 (fxSqB 3 [(8, 6), (0x1C, 1), (0x60, 5)]) resumeReasons (fxTaken [fxReq .orphaned]) = none ∧
    fxVerdict 3 (fxSqB 3 [(8, 6), (0x1C, 1), (0x60, 5)]) resumeReasons (fxTaken []) = some 11 ∧
    fxVerdict 2 (fxSqB 2 [(8, 5)]) cancelReasons (fxTaken [fxReq .decoding]) = none ∧
    (fxTaken [fxReq .decoding]).byId 0 5 = some (fxReq .decoding) ∧
    fxVerdict 2 (fxSqB 2 [(8, 5)]) cancelReasons (fxTaken []) = some 11 ∧
    fxVerdict 4 (fxSqB 4 [(8, 5)]) queryReasons (fxTaken [fxReq .decoding]) = none ∧
    (fxTaken [fxReq .decoding]).asked (fxSq 0) = some (fxReq .decoding) ∧
    fxVerdict 4 (fxSqB 4 [(8, 5)]) queryReasons (fxTaken []) = some 11 ∧
    fxVerdict 5 (fxSqB 5 [(0x60, 5)]) releaseReasons (fxTaken [fxReq .orphaned]) = none ∧
    fxVerdict 5 (fxSqB 5 [(0x60, 5)]) releaseReasons (fxTaken []) = some 11 := by decide
theorem test_models_ready :
    fxVerdict 0x10 (fxSqB 0x10 []) (loadReasons fxModel) (fxTaken []) = none ∧
    fxVerdict 0x10 (fxSqB 0x10 []) (loadReasons { fxModel with crcOk := false }) (fxTaken []) = some 10 ∧
    fxVerdict 0x11 (fxSqB 0x11 []) unloadReasons (fxTaken []) = none ∧
    fxVerdict 0x11 (fxSqB 0x11 []) unloadReasons (fxTaken [fxReq .decoding]) = some 2 ∧
    (∀ w ∈ [(96, none), (97, some 1)], fxVerdict 0x20
      (fxSqB 0x20 [(0x10, 15), (0x11, BitVec.ofNat 8 w.1), (0x12, 0), (0x14, 0xE8), (0x15, 3), (0x18, 0), (0x1C, 0x80), (0x1D, 0x51), (0x1E, 1)])
      (policyReasons 15 ⟨w.1, 0, 1000, 0, 86400⟩) (fxTaken []) = w.2) := by decide
theorem test_pair_ready : (fxQ 1 Quiley.absent).pairRuns 0 0 = true ∧ (fxQ 1 Quiley.absent).pairRuns 16 3 = false ∧
    2 ^ 4 < (17 + 65536 - (fxQ 1 Quiley.absent).sqTail 0 0) % 65536 +
      ((fxQ 1 Quiley.absent).sqTail 0 0 + 65536 - (fxQ 1 Quiley.absent).sqHead 0 0) % 65536 ∧ (fxQ 1 Quiley.absent).sqLog2 0 0 = 4 ∧
    (16 + 65536 - (fxQ 1 Quiley.absent).sqTail 0 0) % 65536 +
      ((fxQ 1 Quiley.absent).sqTail 0 0 + 65536 - (fxQ 1 Quiley.absent).sqHead 0 0) % 65536 = 2 ^ 4 ∧
    (fxQ 1 Quiley.absent).flag (fxBase.qpBase 0 0 + 0x10) 8 = true ∧ (fxQ 1 Quiley.absent).flag (fxBase.qpBase 16 3 + 0x10) 8 = false ∧
    asksRun 0x1CC = true ∧ asksRun 0x1CD = false ∧ asksRun 0x144 = true ∧ asksRun 0x143 = false ∧
    ((fxQ 1 Quiley.absent).setQpCfg 0 3 0x144).pairMay 0 = true ∧ (fxBase.setQpCfg 0 3 0x144).pairMay 0 = false := by decide
/-- A request of two tokens whose prefill has no launch, and one that is a lane with a period, its PREFILLED event written. -/
def fxPre (sums : List (Nat × List Byte)) (summed : Bool) : Serve := { fxReq .prefill with sums := sums, summed := summed }
def fxLane (period : Nat) : Serve := { fxReq .decoding with entry := fxSq period, told := true }
theorem test_prefill_ready : (fxTaken [fxPre [] false]).req (fxPre [] false).slot = some (fxPre [] false) ∧ (fxTaken []).serving = true ∧
    (fxPre [] false).stat = .prefill ∧ (fxPre [] false).masked = false ∧ (fxPre [] false).launches.any (fxTaken [fxPre [] false]).launchLeft = false ∧
    (match ((fxTaken [fxPre [] false]).sumPrompt (fxPre [] false)).req (fxPre [] false).slot with
      | some x => !((fxTaken [fxPre [] false]).sumPrompt (fxPre [] false)).sumsLeft x | none => false) = true ∧
    (match ((fxTaken [fxPre [] true]).gapWork 0).req (fxPre [] true).slot with
      | some x => !((fxTaken [fxPre [] true]).gapWork 0).sumsLeft x | none => false) = true := by decide
/-- A step of partition 0 runs: what waits for its gap goes on waiting. -/
def fxStep : ServeStep := ⟨0, 0, 0, .windward, 0, 0, [], [], []⟩
def fxStepping (l : List Serve) : State := { fxTaken l with quiley := { (fxTaken l).quiley with steps := [(0, some fxStep)] } }
theorem test_prefill_waits : (match ((fxStepping [fxPre [(0, [])] true]).gapWork 0).req (fxPre [] true).slot with
      | some x => ((fxStepping [fxPre [(0, [])] true]).gapWork 0).sumsLeft x | none => false) = true := by decide
theorem test_steps_ready : ((fxTaken [fxLane 0]).carry (mget 0 (fxTaken [fxLane 0]).quiley.gapUntil 0)).holdCold 0 = fxTaken [fxLane 0] ∧
    (fxTaken [fxLane 0]).mayStep 0 .windward 63 0 = true ∧ (fxTaken [fxLane 0]).promise 0 = none ∧ (fxTaken [fxLane 1000000]).promise 0 = none ∧
    (fxTaken []).mayStep 0 .windward 0 0 = false ∧ mget none (fxTaken []).quiley.steps 0 = none := by decide
/-- A lane whose model has no stage keeps any period: the step has a deadline, and a monitor to watch its counter. -/
def fxTimed : State :=
  { fxTaken [fxLane 1000000] with quiley := { (fxTaken [fxLane 1000000]).quiley with models := [(0, some { fxModel with stages := [] })] } }
theorem test_step_timed : (fxTimed.carry (mget 0 fxTimed.quiley.gapUntil 0)).holdCold 0 = fxTimed ∧ fxTimed.promise 0 = some 1000000000 ∧
    fxTimed.mayStep 0 .windward 63 0x4000 = true ∧ fxTimed.mayStep 0 .windward 63 0x4004 = false := by decide
theorem test_commit_ready : mget none (fxStepping []).quiley.steps 0 = some fxStep ∧ (fxStepping []).serving = true ∧
    (fxStepping []).stepDone 0 fxStep = true := by decide
/-- A lane whose first page is cold in its one head, waiting for a spare. -/
def fxBare : Serve := { fxLane 0 with spareWait := some 5, committed := 1 }
def fxHeaded : State :=
  { fxTaken [fxBare] with mem := [(0x4004, 1)], quiley := { (fxTaken [fxBare]).quiley with
    models := [(0, some { fxModel with heads := [⟨0, [], 0x4000, 0, 0, 0, 0, 1, 0, 0, 1, 0, 0, 0, 0, 0⟩] })] } }
theorem test_spare_waits : fxHeaded.req fxBare.slot = some fxBare ∧ fxBare.stat.live = true ∧ fxBare.masked = false ∧
    fxHeaded.whole fxBare = false := by decide
theorem test_holds_ready : (fxTaken [fxReq .orphaned]).req (fxReq .orphaned).slot = some (fxReq .orphaned) ∧
    (fxTaken [{ fxLane 0 with spareWait := some 5 }]).req (fxLane 0).slot = some { fxLane 0 with spareWait := some 5 } ∧
    (fxLane 0).stat.live = true ∧ (fxLane 0).masked = false ∧ (fxTaken [{ fxLane 0 with spareWait := some 5 }]).whole { fxLane 0 with spareWait := some 5 } = true ∧
    fxBase.noSlice 15 (fun u => decide (u / 256 = 1)) = true := by decide

theorem test_policy_entry : (fun b => (sqOpcode b, policyPart b, policyOf b, b.length))
    (policyBytes [0x20] 3 40 40 30 16 600) = (0x20, 3, ⟨40, 40, 30, 16, 600⟩, 128) := by decide +kernel
def fxWrite (ops : Nat) : StoreWrite := ⟨0, 1, ops, none, ⟨[], [], []⟩, 0, 0⟩
def fxStore (ops : Nat) : State := { fxBase with store := { Store.factory with writing := some (fxWrite ops) } }
theorem test_store_ready : State.reset.store.writing = none ∧ (fxStore 3).store.writing = some (fxWrite 3) ∧ (fxStore 3).mayCommit (fxWrite 3) = true ∧
    (State.reset.store.copy 1 (State.reset.store.used 1)).valid = true ∧ fxBase.storeWarm = true ∧
    ({ fxBase with hk := ⟨{ Hk.reset with diodeNow := 1441 }, Hk.reset⟩ } : State).storeWarm = false ∧
    ({ fxBase with hk := ⟨{ Hk.reset with diodeNow := 1440 }, Hk.reset⟩ } : State).storeWarm = true ∧ Store.factory.svnWaiting = false ∧
    ({ Store.factory with svnWaiting := true } : Store).svnWaiting = true ∧ 4 ≤ (fxWrite 4).ops ∧ bit (w64 1).toNat 0 = true := by decide
/-- The link is up and memory 0x4000 of stack 0 can be read. -/
def fxHost (l : List Held) : State := { fxBase with host := { State.reset.host with linkUp := true }, held := l }
theorem test_host_ready : (fxHost []).host.inReset.contains (hostFunction (2 ^ 42 + 0x100000)) = false ∧ (fxHost []).hostWait 0x4000 4 = .go ∧
    (fxHost [.hostWrite 0 [] false]).hostWait 0x4000 4 = .held ∧
    (fxSet (fxHost []) [(pwrState .windward, 2), (pwrState .leeward, 2)]).hostWait 0x4000 4 = .wake .windward ∧
    (fxHost []).hostPlace (2 ^ 42 + 0x110000) 4 = .nothing ∧ (fxHost []).hostPlace 0x4000 4 = .addr 0x4000 ∧
    ((fxHost []).spotRead .host 3 0 false 0x4000 4).2 = (0, [0, 0, 0, 0]) := by decide
/-- DMA channel 15 runs with a ring of 16 at 0x8000 whose first descriptor moves 4 bytes. -/
def fxDma (op len : Nat) : State :=
  fxSet { fxHost [] with mem := (if op = 0 then [] else [(0x8000, BitVec.ofNat 8 op)]) ++ [(0x8004, BitVec.ofNat 8 len)] }
    [(fxBase.dmaBase 15, 0x8000), (fxBase.dmaBase 15 + 8, 0x14), (fxBase.dmaBase 15 + 0x14, 1)]
theorem test_dma_ready : (fxDma 0 4).dmaRuns 15 = true ∧ (fxDma 0 4).dmaWaits 15 = true ∧
    (16 + 65536 - (fxDma 0 4).fld (fxBase.dmaBase 15 + 0x14) 0 16) % 65536 +
      ((fxDma 0 4).fld (fxBase.dmaBase 15 + 0x14) 0 16 + 65536 - (fxDma 0 4).fld (fxBase.dmaBase 15 + 0x10) 0 16) % 65536 =
      2 ^ (fxDma 0 4).fld (fxBase.dmaBase 15 + 8) 0 4 ∧
    [0, 1].all (fun op => match (fxDma op 4).homeRead 0xFF 0 ((fxDma op 4).dmaAt 15) 32 with
     | (t, 0, x) => decide ((dmaDesc x).op = op ∧ (dmaDesc x).len = 4 ∧ dmaDescOk (dmaDesc x) = true ∧ t.dmaReach (dmaDesc x) = true ∧
        (fxDma op 4).spotWait (dmaDesc x).place = .go)
     | _ => false) ∧
    (match (fxDma 0 3).homeRead 0xFF 0 ((fxDma 0 3).dmaAt 15) 32 with
     | (_, 0, x) => !dmaDescOk (dmaDesc x)
     | _ => false) = true := by decide
theorem test_training_pin : ((fxBase.setPerst true).setInReset []).mayTrain = false ∧
    (((fxSet fxBase [(hkPg fxBase.active + 0x100, 4)]).setPerst true).setInReset []).mayTrain = true ∧ (fxHost []).host.linkUp = true := by decide
theorem test_management_ready : State.reset.pins.rails.contains .hk = true ∧ (fxPort1 23 2).portLive 23 = true ∧
    (fxPkt 0x20 0).dst = ((fxPort1 23 2).received 23 ⟨1, 0⟩ (pktUnits2 (fxPkt 0x20 0))).selfId ∧
    (State.reset.bump (mgmtPg State.reset.active) 0x040 32 1).mgmtReaches 0 = false ∧
    (({ fxBase with host := { fxBase.host with agent := some 1 } } : State).bump (mgmtPg fxBase.active) 0x040 32 1).host.agent = some 1 ∧
    (fxBase.bump (mgmtPg fxBase.active) 0x040 32 1).goodResponse 0 [] = false ∧
    (({ fxBase with host := { fxBase.host with challengeNotBefore := 1 } } : State).bump (mgmtPg fxBase.active) 0x040 32 1).now < 1 := by decide
theorem test_jtag_ready : State.reset.pins.pkgRstN = false ∧ (fxSet fxBase [(mgmtPg fxBase.active + 0x104, 4)]).maintMode = true ∧
    fxBase.maintMode = false ∧ (State.reset.setPkgRst true).pins.pkgRstN = true := by decide
theorem test_register_ready : fxBase.isOff = false ∧ fxBase.sleeps (regBase + poolPage .windward) = none ∧ fxBase.regSleeps (poolPage .windward) = none ∧
    (fxSet fxBase [(pwrState .windward, 1)]).regSleeps (pg .windward Blk.core 0) = some .windward ∧
    (fxSet fxBase [(pwrState .windward, 1)]).sleeps (regBase + pg .windward Blk.core 0) = some .windward ∧
    fxBase.pageHeader (pg .leeward Blk.core 103) = true ∧ fxBase.pageOk (pg .leeward Blk.core 104) = false ∧ (5 : Nat) ≠ 4 ∧ 2 % 4 ≠ 0 ∧
    (fxSet fxBase [(pg .windward Blk.core 0 + 0x0C, 2)]).flag (pg .windward Blk.core 0 + 0x0C) 1 = true ∧
    fxBase.flag (pg .windward Blk.core 0 + 0x0C) 1 = false ∧ Who.root (.strand 1) = false ∧ regType (pg .windward Blk.core 0) ≠ Blk.fault := by decide
def fxRec : FaultRec := ⟨1, 2, 0x0901, 0, 4, 5⟩
def fxLog (wr rd : Nat) : State :=
  { fxSet fxBase [(faultPage .windward + 0x100, wr), (faultPage .windward + 0x104, rd)] with faultLog := [(0, some fxRec)] }
theorem test_log_ready : mget [] [(poolPage .windward, [fxRec])] (poolPage .windward) = fxRec :: [] ∧
    (1 + 2 ^ 32 - (fxLog 1 0).fld (faultPage .windward + 0x104) 0 32) % 2 ^ 32 ≤
      ((fxLog 1 0).fld (faultPage .windward + 0x100) 0 32 + 2 ^ 32 - (fxLog 1 0).fld (faultPage .windward + 0x104) 0 32) % 2 ^ 32 ∧
    ((fxLog 1 0).fld (faultPage .windward + 0x100) 0 32 + 2 ^ 32 - (fxLog 1 0).fld (faultPage .windward + 0x104) 0 32) % 2 ^ 32 <
      (2 + 2 ^ 32 - (fxLog 1 0).fld (faultPage .windward + 0x104) 0 32) % 2 ^ 32 ∧
    (fxLog 1 0).logRecord .windward 0 = some fxRec ∧ (fxLog 1 0).logRecord .windward 1 = none ∧ (fxLog 4096 0).logRecord .windward 0 = some fxRec ∧
    (fxLog 4097 0).logRecord .windward 0 = none := by decide
theorem test_end_with_queue : Issues (fx { fxStrand with endA := true, queues := [(0, [⟨[7], false⟩])] }) fxSid .execute
      { fxStrand with endA := true, queues := [(0, [⟨[7], false⟩])] } ∧
    (∃ e ∈ ({ fxStrand with endA := true, queues := [(0, [⟨[7], false⟩])] } : Strand).queues, e.2 ≠ []) :=
  ⟨⟨rfl, by decide, by decide, by decide⟩, ⟨_, List.mem_cons_self, by decide⟩⟩
theorem test_page_ready : (0xFF : Nat) < 256 ∧ (0xFFF : Nat) < 0x1000 ∧
    0x3FF1FFFFFFF = 0x3FF00000000 + Die.leeward.idx <<< 28 + 0xFF <<< 20 + 0xFF <<< 12 + 0xFFF := by decide
theorem test_field_ready : (fRwlIn 0 16 1440 60 43200).admits 60 = true ∧ (fRwlIn 0 16 1440 60 43200).admits 43201 = false ∧
    (fRw 0 4 0).admits 15 = true ∧ (fW1c 20 1).acc = .rw1c ∧ (fRos 0 32).acc = .ros ∧ (fRwl 0 1 0).acc = .rwl := by decide
theorem test_held_ready : (fxAsleep 1).regSleeps (pg .windward Blk.core 0 + 0x200) = some .windward ∧
    (fxSet fxBase [(pwrState .windward, 2), (pwrState .leeward, 2)]).regSleeps (schedPage .windward + 0x918) = some .windward ∧
    (fxSet fxBase [(pwrState .windward, 2), (pwrState .leeward, 2)]).regSleeps (schedPage .leeward + 0x100 + 63 * 0x20 + 0x14) = some .leeward ∧
    (fxSet fxBase [(pwrState .windward, 2), (pwrState .leeward, 2)]).regSleeps (schedPage .leeward + 0x998) = some .leeward ∧
    (fxSet fxBase [(pwrState .windward, 2), (pwrState .leeward, 2)]).regSleeps (schedPage .leeward + (0xC00 + 15 * 0x40 + 4)) = some .leeward ∧
    (fxSet fxBase [(pwrState .windward, 2), (pwrState .leeward, 2)]).regSleeps (portPage 23 + 0x140 + 15 * 4) = some .leeward ∧
    (fxSet fxBase [(pwrState .windward, 2), (pwrState .leeward, 2)]).regSleeps (pg .leeward Blk.core 103 + 0x18) = some .leeward ∧
    (fxSet fxBase [(pwrState .windward, 2), (pwrState .leeward, 2)]).pageHeader (pg .leeward Blk.core 103) = true := by decide
/-- Execute descriptors: 0 and 1 and 7 two FP32, 2 one scale, 3 two BF16, 4 two bytes, 5 one BF16, 6 one byte. -/
def fxVecStrand : Strand :=
  { fxStrand with
    desc := [(32, fxDesc 0 4 2 0), (33, fxDesc 0x200 4 2 0), (34, fxDesc 0x400 2 1 0), (35, fxDesc 0x600 3 2 0), (36, fxDesc 0x800 2 2 0),
      (37, fxDesc 0xA00 3 1 0), (38, fxDesc 0xC00 2 1 0), (39, fxDesc 0xE00 4 2 0)] }
def fxTf (od oa ob oc fmtD fmtA fmtB sblk : Nat) : TF :=
  ⟨BitVec.ofNat 6 od, BitVec.ofNat 6 oa, BitVec.ofNat 6 ob, BitVec.ofNat 6 oc, BitVec.ofNat 4 fmtD, BitVec.ofNat 4 fmtA, BitVec.ofNat 4 fmtB,
    0, false, 0, BitVec.ofNat 2 sblk, false, 0⟩
/-- An operand is in order: a destination, or a source whose words are sound. -/
def fxOp (x : Strand) (o : BitVec 6) (align : Nat) (dest : Bool) : Prop := x.operandOk o align dest ∧ (fx x).sourceSound fxSid (x.named o)
theorem fx_operands : fxOp fxVecStrand 0 32 true ∧ fxOp fxVecStrand 1 32 false ∧ fxOp fxVecStrand 2 32 true ∧ fxOp fxVecStrand 3 32 true ∧
    fxOp fxVecStrand 4 32 true ∧ fxOp fxVecStrand 5 32 false ∧ fxOp fxVecStrand 6 32 false ∧ fxOp fxVecStrand 7 32 false := by
  unfold fxOp Strand.operandOk State.sourceSound; and_intros <;> decide
theorem test_copies_ready : Issues (fx fxVecStrand) fxSid .execute fxVecStrand ∧ fxVecStrand.prog .execute = none ∧
    selReserved (fxTf 0 1 63 63 0 0 0 0) = false ∧ fmtReserved (fxTf 0 1 63 63 0 0 0 0).fmtB = false ∧ (fxTf 0 1 63 63 0 0 0 0).shape.toNat ≤ 2 ∧
    spansMeet (fxVecStrand.named 0).span (fxVecStrand.named 1).span = false ∧ (fxVecStrand.named 0).esize = (fxVecStrand.named 1).esize ∧
    broadcasts (fxVecStrand.named 1).sizes (fxVecStrand.named 0).sizes = true := ⟨⟨rfl, by decide, by decide, by decide⟩, by decide⟩
theorem test_conversions_ready :
    (tfReserved (fxTf 3 1 63 63 1 0 0 0) true = false ∧ (fxVecStrand.named 3).esize = fmtEsize 1 ∧ (fxVecStrand.named 1).esize = fmtEsize 0 ∧
      spansMeet (fxVecStrand.named 3).span (fxVecStrand.named 1).span = false ∧
      broadcasts (fxVecStrand.named 1).sizes (fxVecStrand.named 3).sizes = true) ∧
    (tfReserved (fxTf 4 1 2 63 2 0 0 2) true = false ∧ (fxVecStrand.named 4).esize = fmtEsize 2 ∧ (fxVecStrand.named 2).esize = 2 ∧
      spansMeet (fxVecStrand.named 4).span (fxVecStrand.named 1).span = false ∧
      spansMeet (fxVecStrand.named 2).span (fxVecStrand.named 1).span = false ∧
      (fxVecStrand.named 2).sizes = scaleSizes (blockLen 2) (fxVecStrand.named 4).sizes) ∧
    (tfReserved (fxTf 0 4 2 63 0 2 0 1) true = false ∧ (fxVecStrand.named 0).size 0 = (fxVecStrand.named 4).size 0 ∧
      spansMeet (fxVecStrand.named 0).span (fxVecStrand.named 2).span = false ∧
      (fxVecStrand.named 2).sizes = scaleSizes (blockLen 1) (fxVecStrand.named 4).sizes) := by decide
theorem test_blocks_ready :
    (tfReserved (fxTf 63 3 63 63 0 1 0 0) true = false ∧ (arrayClass 1).isSome = true ∧ (fxVecStrand.named 3).esize = fmtEsize 1 ∧
      scalesOk 1 0 = true ∧ (fxVecStrand.named 3).ndim ≤ 2 ∧ (fxVecStrand.named 3).size 0 ≤ shapeN 0 ∧ (fxVecStrand.named 3).size 1 ≤ shapeK 0) ∧
    (tfReserved (fxTf 63 4 4 63 0 2 0 2) true = false ∧ (fxVecStrand.named 4).esize = fmtEsize 2 ∧ scalesOk 2 2 = true ∧
      (fxVecStrand.named 4).sizes = [(fxVecStrand.named 4).size 0, ceilDiv ((fxVecStrand.named 4).size 1) (blockLen 2), 1, 1]) := by decide
/-- Stationary blocks of one row and two columns: BF16, and FP8 with scales. -/
def fxStat (fmt sblk : Nat) (w : List Nat) : Block := ⟨0, fmt, sblk, false, 1, 2, [0, 0], w⟩
def fxMulStrand (b : Block) : Strand := { fxVecStrand with shadow := some b }
theorem test_products_ready : Issues (fx (fxMulStrand (fxStat 1 0 []))) fxSid .execute (fxMulStrand (fxStat 1 0 [])) ∧
    (fxMulStrand (fxStat 1 0 [])).shadow = some (fxStat 1 0 []) ∧
    (tfReserved (fxTf 0 5 63 63 0 1 0 0) false = false ∧ selOf (fxTf 0 5 63 63 0 1 0 0).oc = .none ∧ (fxVecStrand.named 0).size 0 = 2 ∧
      (fxVecStrand.named 5).size 0 = 1 ∧ (fxVecStrand.named 5).rows = (fxVecStrand.named 0).rows ∧ pairOk 1 1 = true ∧ scalesOk 1 0 = true ∧
      (fxVecStrand.named 5).esize = fmtEsize 1 ∧ (fxVecStrand.named 0).esize = fmtEsize 0 ∧
      spansMeet (fxVecStrand.named 0).span (fxVecStrand.named 5).span = false) ∧
    (tfReserved (fxTf 0 6 2 7 0 2 0 2) true = false ∧ selOf (fxTf 0 6 2 7 0 2 0 2).oc ≠ .none ∧ pairOk 2 2 = true ∧ scalesOk 2 2 = true ∧
      (fxVecStrand.named 6).esize = fmtEsize 2 ∧ (fxVecStrand.named 2).size 0 = ceilDiv 1 (blockLen 2) ∧
      (fxVecStrand.named 2).rows = (fxVecStrand.named 0).rows ∧ spansMeet (fxVecStrand.named 0).span (fxVecStrand.named 2).span = false ∧
      spansMeet (fxVecStrand.named 0).span (fxVecStrand.named 7).span = false ∧ (fxVecStrand.named 7).esize = fmtEsize 0 ∧
      (fxVecStrand.named 7).size 0 = 2 ∧ (fxVecStrand.named 7).rows = (fxVecStrand.named 0).rows) :=
  ⟨⟨rfl, by decide, by decide, by decide⟩, by decide⟩
/-- Worked examples of 07_in_stack_attention.md and 12_serving.md: head h of the premium step, with q query vectors. -/
def fxHead (q : Nat) : HeadPlan :=
  let p := patch (patch (patch (patch (patch (List.replicate 256 (0 : Byte)) 0 (leBytes 2 1)) 0x18 (leBytes 4 8192)) 0x1C (leBytes 2 16 ++ leBytes 2 16))
    0x20 ((List.range 16).flatMap (leBytes 2))) 0x40 (List.replicate 128 0xFF)
  ⟨0, patch (patch (List.replicate 64 (0 : Byte)) 0x15 (leBytes 1 q)) 0x1C (leBytes 2 0x16 ++ leBytes 2 128) ++
    patch p 0xC8 (leBytes 4 16 ++ leBytes 4 895), 0, 0, 0, 0, 0, 256, 0, 0, 0, 0, 0, 0, 0, 0⟩
def fxPremium : State := fxBase.setReg (schedPage .windward + partOff 3) 3
/-- The attention stage: 2 + 26.0895 µs; step_bound of 72 layers with the other stages as published, the commit and the gap. -/
theorem test_attention_bound : costPage (fxHead 5).cmd = 1376 ∧ fxPremium.pagesOn (fxHead 5) (cPattern (patternFor (fxHead 5) 0 65536)) 0 = 4 ∧
    fxPremium.attendPs 3 [fxHead 5, fxHead 4] [(0, 65536)] = 28089500 := by decide +kernel
theorem test_step_bound : ceilDiv (72 * (28090 + 58400) * 1000 + 18000 * 1000) 1000 + commitBound [(fxReq .decoding).withPeer none] +
    (fxPremium.policy 3).gapUs * 1000 = 6279300 := by decide +kernel

-- Decode: words written out from the tables of R79, R84, R85 and R86.
theorem test_table_words : decodeTableWord 128 0x81 = none ∧ (State.reset.withFetchWord 128 0x81) = State.reset := ⟨rfl, rfl⟩
/-- SADD: opcode 0x02, rd [11:8] = 2, rs1 [15:12] = 1, rs2 [19:16] = 3, imm [127:64] = −1. -/
theorem test_word_sadd : decodeCore fxSid .access (0x02 + 2 * 2 ^ 8 + 1 * 2 ^ 12 + 3 * 2 ^ 16 + (2 ^ 64 - 1) * 2 ^ 64) =
    some (.sadd fxSid .access ⟨2, 1, 3, 0xFFFFFFFFFFFFFFFF⟩) := rfl
/-- LD: opcode 0x40, op_s [13:8] = 35, op_m [19:14] = 5, op_x [25:20] = 63, rs [29:26] = 9, rt [33:30] = 12, imm = 16. -/
theorem test_word_ld : decodeCore fxSid .access (0x40 + 35 * 2 ^ 8 + 5 * 2 ^ 14 + 63 * 2 ^ 20 + 9 * 2 ^ 26 + 12 * 2 ^ 30 + 16 * 2 ^ 64) =
    some (.ld fxSid .access ⟨35, 5, 63, 9, 12, 16⟩) := rfl
/-- ATADD has format S among the access instructions: opcode 0x46. -/
theorem test_word_atadd : decodeCore fxSid .access (0x46 + 4 * 2 ^ 8 + 5 * 2 ^ 12 + 6 * 2 ^ 16) = some (.atadd fxSid .access ⟨4, 5, 6, 0⟩) := rfl
/-- MMA: opcode 0x81, od = 1, oa = 2, ob = 3, oc = 63, fmt_d = 1, fmt_a = 6, fmt_b = 0, rnd = 2, sat, shape = 2, sblk = 1, sfmt,
imm = 7. -/
theorem test_word_mma : decodeCore fxSid .execute (0x81 + 1 * 2 ^ 8 + 2 * 2 ^ 14 + 3 * 2 ^ 20 + 63 * 2 ^ 26 + 1 * 2 ^ 32 + 6 * 2 ^ 36 + 2 * 2 ^ 44 +
    1 * 2 ^ 46 + 2 * 2 ^ 47 + 1 * 2 ^ 50 + 1 * 2 ^ 52 + 7 * 2 ^ 64) =
    some (.mma fxSid .execute ⟨1, 2, 3, 63, 1, 6, 0, 2, true, 2, 1, true, 7⟩) := rfl
theorem test_word_tmark : decodeCore fxSid .execute 0x91 = some (.tmark fxSid .execute ⟨0, 0, 0, 0, 0, 0, 0, 0, false, 0, 0, false, 0⟩) := rfl
/-- A word stands for an instruction exactly where its opcode is not reserved (R82). -/
theorem test_word_reserved : (List.range 256).all (fun o => (decodeCore fxSid .access o).isSome == opcodeKnown o) = true := by decide

-- The spec's worked examples and single steps.
/-- Worked example of 01_organisation.md. -/
theorem test_scratchpad_address : spadBase .leeward 5 = 0x30021400000 ∧ regBase + pg .leeward Blk.rvr 1 + 0x20 = 0x3FF12001020 := by decide
/-- Worked example of 17_register_pages.md. -/
theorem test_monitor_address : regBase + pg .windward Blk.fault 0 + 0x800 + 12 * 0x20 + 0x1C = 0x3FF0600099C := by decide
/-- Worked example of 06_ryoratra_stacks.md: NBU 372, slot 100, bank 1, column block 5, byte 0x40. -/
theorem test_bank_pair_address : bpaOffset 372 0x64D40 = 0xC9BA340 := by decide
/-- Worked example of 05_formats_and_layout.md: the block whose largest is 5.0, and −1.3 in binary64 digits. -/
def fxBlock : List (Machine.Num × Nat) := [(.fin false 5 0, 0), (.fin true 5854679515581645 (-52), 0)]
theorem test_quantise_fp4_e8m0 : (quantBlock 6 false 0 false fxBlock).1 = 0x7F ∧
    (quantBlock 6 false 0 false fxBlock).2.map (·.bits) = [0x6, 0xB] := by decide +kernel
theorem test_quantise_fp4_e4m3 : (quantBlock 6 true 0 false fxBlock).1 = 0x36 ∧
    (quantBlock 6 true 0 false fxBlock).2.map (·.bits) = [0x7, 0xB] := by decide +kernel
theorem test_quantise_int3 : (quantBlock 9 false 0 false fxBlock).1 = 0x80 ∧
    (quantBlock 9 false 0 false fxBlock).2.map (·.bits) = [0b010, 0b111] := by decide +kernel

/-- What holds of the state a command leaves. -/
def fxAfter (c : Instr) (s : State) (p : State → Bool) : Bool :=
  match step { s with pending := [c] } with
  | .next t => p t
  | _ => false

/-- A strand's scalar register after a command. -/
def fxReg (c : Instr) (x : Strand) (r : Nat) (v : Word) : Bool :=
  fxAfter c (fx x) (fun t => ((t.strand 0).map (fun y => y.sreg .access r)) == some v)

theorem test_sadd_wraps : fxReg (.sadd fxSid .access (fxF 2 1 1 (2 ^ 64 - 0x201))) fxStrand 2 (0xFFFFFFFFFFFFFFFF) = true := by decide +kernel
theorem test_sli_sign : fxReg (.sli fxSid .access (fxF 3 0 0 (2 ^ 64 - 2))) fxStrand 3 0xFFFFFFFFFFFFFFFE = true := by decide +kernel
theorem test_register_zero : fxReg (.sli fxSid .access (fxF 0 0 0 7)) fxStrand 0 0 = true := by decide +kernel
theorem test_shift_left : fxReg (.sshl fxSid .access (fxF 2 1 0 4)) fxStrand 2 0x1000 = true := by decide +kernel
theorem test_idle_step : (match step (fx fxStrand) with | .next t => t.now == 1 | _ => false) = true := by decide +kernel
theorem test_queue_order : (match step { (fx fxStrand) with pending := [.jtagBypass, .jtagIdcode] } with
    | .next t => t.pending == [.jtagIdcode] | _ => false) = true := by decide +kernel

end Sys2Proof.Tests
end

section
/-!
PROOFS. What END does in the stream that ends second (R71).
-/

namespace Sys2Proof.Machine

/-- R71: with an entry left in one of its queues, a strand that has ended both streams halts and does not end normally. -/
theorem State.finishStrand_of_entry_left (s : State) (i : Sid) (str : Stream) {x : Strand} (h : ∃ e ∈ x.queues, e.2 ≠ []) :
    s.finishStrand i str x = s.halt i str 0x11 := by
  have hany : x.queues.any (fun e => !e.2.isEmpty) = true := by
    obtain ⟨e, he, hne⟩ := h
    exact List.any_eq_true.mpr ⟨e, he, by simpa using hne⟩
  unfold State.finishStrand
  rw [if_pos hany]

/-- An END that its strand issues after the other stream has ended finishes the strand. -/
theorem endStream_does_finishStrand {s : State} {i : Sid} {str : Stream} {x y : Strand} (f : SF) (hi : Issues s i str x)
    (ht : Taken s i str x (s.takeStream i str x) y) (hA : str = .execute → x.endA = true) (hE : str = .access → x.endE = true) :
    Does (.endStream i str f) s (((s.takeStream i str x).setStrand i.key { y with endA := true, endE := true }).finishStrand i str
      { y with endA := true, endE := true }) := by
  show execEndStream i str f s = commit s _
  unfold execEndStream
  rw [issue_at hi ht none (.inl rfl)]
  cases str with
  | access =>
    have hyE : y.endE = true := ht.endE.trans (hE rfl)
    simp only [hyE, Bool.and_self, if_true]
  | execute =>
    have hyA : y.endA = true := ht.endA.trans (hA rfl)
    simp only [hyA, Bool.and_self, if_true]

end Sys2Proof.Machine

namespace Sys2Proof

open Machine

/-- Settles O52: taking the stream leaves the strand's queues as they stood, so the END that finishes the strand finds the
entry and halts. -/
theorem queueLeftAtEnd : Obligations.QueueLeftAtEnd := by
  unfold Obligations.QueueLeftAtEnd
  intro s i str f x hi hA hE hleft
  obtain ⟨y, ht⟩ := s.takeStream_taken i str x
  have hyleft : ∃ e ∈ y.queues, e.2 ≠ [] := ht.queues ▸ hleft
  have hdoes := endStream_does_finishStrand f hi ht hA hE
  rw [State.finishStrand_of_entry_left _ i str (x := { y with endA := true, endE := true }) hyleft] at hdoes
  exact ⟨s.takeStream i str x, y, ht, hdoes⟩

end Sys2Proof
end

section
/-!
PROOFS. Why SCHED rejects a launch whose watchdog is too long (R46, R349).
-/

namespace Sys2Proof.Machine

/-- A launch that passes step 1 of R46 has a watchdog within its partition's cap, and of at most 50 µs in class G. -/
theorem State.watchdog_le_of_launchOk {s : State} {l : Launch} (h : s.launchOk l = true) :
    l.wdUs ≤ s.wdCapMs l.part * 1000 ∧ (s.partG l.part = true → l.wdUs ≤ 50) := by
  unfold State.launchOk at h
  simp only [Bool.and_eq_true, Bool.or_eq_true, Bool.not_eq_true', decide_eq_true_eq] at h
  obtain ⟨⟨⟨⟨⟨-, hclass⟩, hcap⟩, -⟩, -⟩, -⟩ := h
  exact ⟨hcap, fun hG => hclass.resolve_left (by simp [hG])⟩

/-- R349: a watchdog above the cap, or above 50 µs in class G, fails the checks of step 1 of R46. -/
theorem State.launchOk_of_watchdog_above {s : State} {l : Launch}
    (h : s.wdCapMs l.part * 1000 < l.wdUs ∨ (s.partG l.part = true ∧ 50 < l.wdUs)) : s.launchOk l = false := by
  refine Bool.eq_false_iff.mpr fun hok => ?_
  obtain ⟨hcap, hclass⟩ := State.watchdog_le_of_launchOk hok
  rcases h with hover | ⟨hG, hover⟩
  · exact absurd hcap (Nat.not_le.mpr hover)
  · exact absurd (hclass hG) (Nat.not_le.mpr hover)

/-- R46: a launch that fails its checks and was not killed before leaves a 0x0201 record and completes with status 2. -/
theorem State.judgeLaunch_of_bad {s : State} {l : Launch} (h : s.launchOk l = false) :
    s.judgeLaunch l false =
      (s.raise (schedPage l.die) 0x0201 (some l.part) l.descPa (l.tag + l.ring * 2 ^ 32) false false).abortLaunch l 2 := by
  unfold State.judgeLaunch
  rw [if_neg Bool.false_ne_true, h, Bool.not_false, if_pos rfl]

/-- R46: a descriptor that is read, not killed before, and fails its checks is rejected with status 2, with the
record in the die that read it. -/
theorem launchDescriptorCheck_does_reject {s u : State} {d : Die} {r : Nat} {l : Launch} (hr : Reads s d r u l)
    (hlive : s.doomed.contains l.key = false) (hbad : u.launchOk l = false) :
    Does (.launchDescriptorCheck d r) s
      ((u.raise (schedPage d) 0x0201 (some (r / 4)) l.descPa (l.tag + r * 2 ^ 32) false false).abortLaunch l 2) := by
  obtain ⟨hexec, hdie, hring, hpart⟩ := reads_judged hr
  rw [hlive, State.judgeLaunch_of_bad hbad, hdie, hring, hpart] at hexec
  exact hexec

end Sys2Proof.Machine

namespace Sys2Proof

open Machine

/-- Settles O53: either excess fails a check of step 1 of R46, so the descriptor that was read is rejected. -/
theorem watchdogCaps : Obligations.WatchdogCaps := by
  unfold Obligations.WatchdogCaps
  intro s d r u l hr hlive hover
  exact launchDescriptorCheck_does_reject hr hlive (State.launchOk_of_watchdog_above hover)

end Sys2Proof
end

section
/-!
PROOFS. What the housekeeping domain does with a MGMT packet that arrives for this package (R422).
-/

namespace Sys2Proof.Machine

/-- R296: a packet for this package that arrives in its order on a live port is acted on once it has been received. -/
theorem arrivePacket_of_dst_selfId {p : Nat} {k : Packet} {act : Packet → State → State} {s : State} (hp : p < 24)
    (hl : s.portLive p = true) (ho : s.inOrder p k.link = true) (hd : k.dst = (s.received p k.link (pktUnits2 k)).selfId) :
    arrivePacket p k act s = act k (s.received p k.link (pktUnits2 k)) := by
  unfold arrivePacket
  rw [takeFrame_in hp hl ho, if_pos hd]

/-- R422: a MGMT packet in its order for this package is discarded and counted, or served, as its arg and partition say. -/
theorem mgmtPacket_does_serve_or_discard {s : State} {p : Nat} {k q : Packet} {r : MgmtReq} (hp : p < 24)
    (hl : s.portLive p = true) (hq : q = { k with ptype := 0x20 }) (ho : s.inOrder p q.link = true)
    (hd : q.dst = (s.received p q.link (pktUnits2 q)).selfId) :
    Does (.mgmtPacket p k r) s
      (if q.arg ≠ 0 ∨ q.part ≠ 0 then
        (s.received p q.link (pktUnits2 q)).bump (vroutePage (dieOf (p / 12))) 0x050 32 1
      else (s.received p q.link (pktUnits2 q)).serveMgmt (some (p, q)) r) := by
  show execMgmtPacket p k r s = commit s _
  unfold execMgmtPacket
  rw [← hq, arrivePacket_of_dst_selfId hp hl ho hd]

end Sys2Proof.Machine

namespace Sys2Proof

open Machine

/-- Settles O54: the packet is received as one of type 0x20, and its arg and source partition then choose between the
housekeeping domain and the discard that VROUTE_BAD_PKT counts. -/
theorem managementPackets : Obligations.ManagementPackets := by
  unfold Obligations.ManagementPackets
  rintro s _ p k _ r hp hl rfl ho rfl hd
  have hdoes := mgmtPacket_does_serve_or_discard (r := r) hp hl rfl ho hd
  constructor
  · intro harg hpart
    rwa [if_neg (not_or.mpr ⟨not_not.mpr harg, not_not.mpr hpart⟩)] at hdoes
  · intro hbad
    rwa [if_pos hbad] at hdoes

end Sys2Proof
end

section
/-!
PROOFS. Where the register pages lie in the register space (R26, R427).
-/

namespace Sys2Proof.Machine

theorem dieOf_idx (d : Die) : dieOf d.idx = d := by
  cases d <;> rfl

section
variable (d : Die) {t i o : Nat}

/-- R427: every offset in a page of a die lies in the die's own 256 MB of the register space. -/
theorem pg_add_in_die (ht : t < 256) (hi : i < 256) (ho : o < 0x1000) :
    d.idx * 0x10000000 ≤ pg d t i + o ∧ pg d t i + o < (d.idx + 1) * 0x10000000 := by
  unfold pg
  omega

theorem pg_add_lt (ht : t < 256) (hi : i < 256) (ho : o < 0x1000) : pg d t i + o < 0x20000000 := by
  obtain ⟨-, hhi⟩ := pg_add_in_die d ht hi ho
  cases d with
  | windward => exact hhi.trans (by decide)
  | leeward => exact hhi

theorem regDie_pg_add (ht : t < 256) (hi : i < 256) (ho : o < 0x1000) : regDie (pg d t i + o) = d := by
  obtain ⟨hlo, hhi⟩ := pg_add_in_die d ht hi ho
  have hdie : (pg d t i + o) / 0x10000000 = d.idx := Nat.div_eq_of_lt_le hlo hhi
  rw [regDie, hdie, dieOf_idx]

theorem regType_pg_add (ht : t < 256) (hi : i < 256) (ho : o < 0x1000) : regType (pg d t i + o) = t := by
  unfold regType pg
  omega

theorem regInst_pg_add (hi : i < 256) (ho : o < 0x1000) : regInst (pg d t i + o) = i := by
  unfold regInst pg
  omega

theorem regOff_pg_add (ho : o < 0x1000) : regOff (pg d t i + o) = o := by
  unfold regOff pg
  omega

/-- The shifts of R427 are the multiples that `pg` adds. -/
theorem pageAddress_eq_regBase_add_pg :
    0x3FF00000000 + d.idx <<< 28 + t <<< 20 + i <<< 12 + o = regBase + (pg d t i + o) := by
  simp only [regBase, pg, Nat.shiftLeft_eq, Nat.reducePow, Nat.add_assoc]

theorem regBase_add_pg_in_die (ht : t < 256) (hi : i < 256) (ho : o < 0x1000) :
    regBase + d.idx * 0x10000000 ≤ regBase + (pg d t i + o) ∧
      regBase + (pg d t i + o) ≤ regBase + d.idx * 0x10000000 + 0xFFFFFFF := by
  obtain ⟨hlo, hhi⟩ := pg_add_in_die d ht hi ho
  omega

end

/-- R26: the 512 MB from the register base on, both dies' ranges, are the register space. -/
theorem locOf_regBase_add {a : Nat} (h : a < 0x20000000) : locOf (regBase + a) = .reg a := by
  unfold locOf regBase
  rw [if_neg (by omega), if_neg (by omega), if_neg (by omega), if_neg (by omega), if_neg (by omega), if_neg (by omega),
    if_neg (by omega), if_pos (by omega), Nat.add_sub_cancel_left]

end Sys2Proof.Machine

namespace Sys2Proof

open Machine

/-- Settles O55: the address is the register base and an offset in the die's range, from which each part is read back. -/
theorem pageAddresses : Obligations.PageAddresses := by
  unfold Obligations.PageAddresses
  rintro d t i o _ ht hi ho rfl
  rw [pageAddress_eq_regBase_add_pg]
  refine ⟨locOf_regBase_add (pg_add_lt d ht hi ho), regDie_pg_add d ht hi ho, regType_pg_add d ht hi ho, regInst_pg_add d hi ho,
    regOff_pg_add d ho, ?windward, ?leeward⟩
  case windward =>
    rintro rfl
    exact regBase_add_pg_in_die .windward ht hi ho
  case leeward =>
    rintro rfl
    exact regBase_add_pg_in_die .leeward ht hi ho

end Sys2Proof
end

section
/-!
PROOFS. What every step answers, and what that keeps: the queue, the bus and the form of memory (logs 1, 2, 18).
-/

namespace Sys2Proof.Machine

/-- Every command gathers its writes on the bus and commits them: none faults and none is refused. -/
theorem exec_eq_commit (c : Instr) (s : State) : ∃ t, exec c s = commit s t := by
  cases c <;> exact ⟨_, rfl⟩

theorem step_of_pending_cons {s : State} {c : Instr} {r : List Instr} (h : s.pending = c :: r) :
    step s = exec c { s with pending := r } := by
  unfold step
  rw [h]

theorem step_of_pending_nil {s : State} (h : s.pending = []) : step s = .next s.tick := by
  unfold step
  rw [h]

/-- What a nanosecond of the idle package leaves alone (log 18): its ports send, and memory, strands and the queue stay. -/
theorem State.tick_keeps (s : State) : s.tick.now = s.now + 1 ∧ s.tick.pending = s.pending ∧ s.tick.mem = s.mem ∧
    s.tick.strands = s.strands ∧ s.tick.launches = s.launches ∧ s.tick.units = s.units ∧ s.tick.bus = s.bus :=
  drain_keeps allPorts (s.passNs 1)

theorem State.safe_tick {s : State} (h : Safe s) : Safe s.tick := by
  obtain ⟨hwf, hbus⟩ := h
  obtain ⟨-, -, hmem, -, -, -, hbus'⟩ := s.tick_keeps
  exact ⟨hmem ▸ hwf, hbus'.trans hbus⟩

theorem exec_safe {c : Instr} {s t : State} (hwf : Memory.wf s.mem = true) (h : exec c s = .next t) : Safe t := by
  obtain ⟨u, hu⟩ := exec_eq_commit c s
  exact commit_wf (hu.symm.trans h) hwf

end Sys2Proof.Machine

namespace Sys2Proof

open Machine

/-- Settles O3: a command ends in a commit, which replays its writes into canonical memory and clears the bus, and a step on an
empty queue touches neither. -/
theorem stepKeepsMemoryForm : Obligations.StepKeepsMemoryForm := by
  unfold Obligations.StepKeepsMemoryForm
  intro s t hsafe hstep
  cases hq : s.pending with
  | nil =>
    rw [step_of_pending_nil hq] at hstep
    cases hstep
    exact State.safe_tick hsafe
  | cons c r =>
    rw [step_of_pending_cons hq] at hstep
    exact exec_safe (s := { s with pending := r }) hsafe.1 hstep

/-- Settles O2: a command answers with the commit it ends in, and an empty queue with a tick. -/
theorem everyStepAnswers : Obligations.EveryStepAnswers := by
  unfold Obligations.EveryStepAnswers
  constructor
  · intro c s
    obtain ⟨u, hu⟩ := exec_eq_commit c s
    rw [commit_eq] at hu
    exact ⟨_, hu, rfl, rfl⟩
  · intro s hq
    obtain ⟨hnow, hpend, hmem, hstrands, hlaunches, hunits, -⟩ := s.tick_keeps
    exact ⟨s.tick, step_of_pending_nil hq, hnow, hpend.trans hq, hmem, hstrands, hlaunches, hunits⟩

/-- Settles O1. -/
theorem stepRunsFront : Obligations.StepRunsFront := by
  unfold Obligations.StepRunsFront
  exact fun c r s h => step_of_pending_cons h

end Sys2Proof
end

section
/-!
PROOFS. The scalar registers of a strand, and the control instructions that need no memory (R67, R84, R92, R71).
-/

namespace Sys2Proof.Machine

/-! ### Registers -/

theorem Strand.sreg_zero (x : Strand) (str : Stream) : x.sreg str 0 = 0 := if_pos rfl

theorem Strand.setSreg_zero (x : Strand) (str : Stream) (v : Word) : x.setSreg str 0 v = x := if_pos rfl

theorem Strand.sreg_setSreg_self (x : Strand) (str : Stream) {r : BitVec 4} (v : Word) (h : r ≠ 0) :
    (x.setSreg str r v).sreg str r = v := by
  unfold Strand.sreg Strand.setSreg
  rw [if_neg h, if_neg h]
  exact mget_mset_self _ _ _ _

/-- The keys of the scalar table are different for different registers and streams. -/
theorem sregKey_ne {str str' : Stream} {r r' : BitVec 4} (h : str' ≠ str ∨ r' ≠ r) :
    16 * streamIdx str' + r'.toNat ≠ 16 * streamIdx str + r.toNat := by
  have hr := r.isLt
  have hr' := r'.isLt
  rcases h with h | h
  · cases str <;> cases str' <;> simp_all only [streamIdx, ne_eq, not_true_eq_false, reduceCtorEq, not_false_eq_true] <;> omega
  · have hne : r'.toNat ≠ r.toNat := fun e => h (BitVec.eq_of_toNat_eq e)
    cases str <;> cases str' <;> simp only [streamIdx] <;> omega

theorem Strand.sreg_setSreg_other (x : Strand) {str str' : Stream} {r r' : BitVec 4} (v : Word)
    (h : str' ≠ str ∨ r' ≠ r) : (x.setSreg str r v).sreg str' r' = x.sreg str' r' := by
  unfold Strand.sreg Strand.setSreg
  by_cases hr : r = 0
  · rw [if_pos hr]
  · rw [if_neg hr]
    dsimp only
    rw [mget_mset_ne _ _ _ (sregKey_ne h)]

theorem Strand.setSreg_only (x : Strand) (str : Stream) (r : BitVec 4) (v : Word) :
    x.setSreg str r v = { x with scal := (x.setSreg str r v).scal } := by
  unfold Strand.setSreg
  split <;> rfl

/-! ### An instruction that issues -/

section
variable {c : Instr} {s t : State} {i : Sid} {str : Stream} {x y : Strand} {own : Option Stream} {body : Strand → State → State}

/-- An instruction that issues does what its body says of the strand with the stream taken. -/
theorem does_of_issue (hi : Issues s i str x) (ht : Taken s i str x (s.takeStream i str x) y)
    (hown : own = none ∨ own = some str) (he : exec c s = commit s (issue i str own body s))
    (hbody : body y (s.takeStream i str x) = t) : Does c s t := by
  rw [issue_at hi ht own hown, hbody] at he
  exact he

/-- An instruction that issues commits where its body ends in a commit and writes nothing but the strand. -/
theorem commits_of_issue {z : Strand} (hi : Issues s i str x) (ht : Taken s i str x (s.takeStream i str x) y)
    (hown : own = none ∨ own = some str) (he : exec c s = commit s (issue i str own body s))
    (hbody : body y (s.takeStream i str x) = (s.takeStream i str x).commitStrand i str z) :
    Commits c s i str (s.takeStream i str x) z := by
  rw [issue_at hi ht own hown, hbody] at he
  exact he.trans (commit_taken hi.1 ht _ _)

/-- A scalar instruction that issues with its registers free commits with rd written. -/
theorem commits_of_scalarOp {rs : List (BitVec 4)} {rd : BitVec 4} {v : Strand → State → Word} {w : Word}
    (hi : Issues s i str x) (ht : Taken s i str x (s.takeStream i str x) y) (hb : x.isBusy str (rd :: rs) = false)
    (he : exec c s = commit s (scalarOp i str rs rd v s)) (hw : v y (s.takeStream i str x) = w) :
    Commits c s i str (s.takeStream i str x) (y.setSreg str rd w) :=
  hw ▸ he.trans (scalarOp_commits hi ht rfl rs rd v hb)

end

/-! ### Special registers and branches -/

/-- R84: a special register reads the same before and after the stream is taken. -/
theorem special_of_taken {s t : State} {i : Sid} {str : Stream} {x y : Strand} (ht : Taken s i str x t y) (n : Nat) :
    special i n y t = special i n x s := by
  unfold special residentCycles
  rw [ht.index, ht.part, ht.argVa, ht.tiles, ht.cycles, ht.cycSince, ht.now, ht.cycle8]

theorem special_eq_none {i : Sid} {n : Nat} {x : Strand} {s : State} (h : 8 < n) : special i n x s = none := by
  unfold special
  split
  case h_10 => rfl
  all_goals omega

theorem condHolds_eq_none {c : Nat} (a b : Word) (h : 6 < c) : condHolds c a b = none := by
  unfold condHolds
  split
  case h_8 => rfl
  all_goals omega

end Sys2Proof.Machine

namespace Sys2Proof

open Machine

/-- Settles O4. -/
theorem scalarRegisters : Obligations.ScalarRegisters := by
  unfold Obligations.ScalarRegisters
  exact fun x str r v => ⟨x.sreg_zero str, x.setSreg_zero str v, x.sreg_setSreg_self str v,
    fun _ _ h => x.sreg_setSreg_other v h, x.setSreg_only str r v⟩

/-- Settles O5: each is a `scalarOp`, whose operands read the same once the stream is taken. -/
theorem scalarResults : Obligations.ScalarResults := by
  unfold Obligations.ScalarResults
  intro s i str f x hi hb
  obtain ⟨y, ht⟩ := s.takeStream_taken i str x
  have hbrd : x.isBusy str [f.rd] = false := isBusy_sub hb (by simp)
  refine ⟨_, y, ht, commits_of_issue hi ht (.inl rfl) rfl rfl, commits_of_scalarOp hi ht hbrd rfl rfl, ?_⟩
  rw [← ht.sreg str f.rs1, ← ht.sreg str f.rs2]
  exact ⟨commits_of_scalarOp hi ht hb rfl rfl, commits_of_scalarOp hi ht hb rfl rfl, commits_of_scalarOp hi ht hb rfl rfl,
    commits_of_scalarOp hi ht hb rfl rfl, commits_of_scalarOp hi ht hb rfl rfl, commits_of_scalarOp hi ht hb rfl rfl,
    commits_of_scalarOp hi ht hb rfl rfl⟩

/-- Settles O6: the nine numbers are the cases of `special`, and every other number is none of them. -/
theorem specialRegisters : Obligations.SpecialRegisters := by
  unfold Obligations.SpecialRegisters
  intro s i str f x hi hb
  obtain ⟨y, ht⟩ := s.takeStream_taken i str x
  refine ⟨_, y, ht, fun n v hv hn => ?_, fun hn => ?_⟩
  · have hval : special i (f.imm.toNat % 256) x s = some v := by
      rw [hn]
      simp only [List.mem_cons, Prod.mk.injEq, List.not_mem_nil, or_false] at hv
      rcases hv with ⟨rfl, rfl⟩ | ⟨rfl, rfl⟩ | ⟨rfl, rfl⟩ | ⟨rfl, rfl⟩ | ⟨rfl, rfl⟩ | ⟨rfl, rfl⟩ | ⟨rfl, rfl⟩ | ⟨rfl, rfl⟩ |
        ⟨rfl, rfl⟩ <;> rfl
    refine commits_of_issue hi ht (.inl rfl) rfl ?_
    rw [special_of_taken ht, hval, ht.isBusy, hb]
    rfl
  · refine does_of_issue hi ht (.inl rfl) rfl ?_
    rw [special_eq_none hn]

/-- Settles O7: `condHolds` gives each condition's test, and nothing for a reserved one. -/
theorem branches : Obligations.Branches := by
  unfold Obligations.Branches
  intro s i str f x hi hb
  obtain ⟨y, ht⟩ := s.takeStream_taken i str x
  refine ⟨_, y, ht, fun c h hc hf => ?_, fun hn => ?_⟩
  · obtain ⟨r, hr, hrh⟩ := cond_some c _ _ h hc
    have hcond : condHolds f.rd.toNat (y.sreg str f.rs1) (y.sreg str f.rs2) = some r := by
      rw [hf, ht.sreg, ht.sreg, hr]
    refine ⟨fun hh => ?_, fun hh => ?_⟩
    · show execBr i str f s = _
      unfold execBr
      rw [issue_at hi ht none (.inl rfl), hcond, ht.isBusy, hb, hrh.mpr hh, ht.pc]
      exact commit_taken hi.1 ht _ _
    · refine commits_of_issue hi ht (.inl rfl) rfl ?_
      have hfalse : r = false := by simpa using mt hrh.mp hh
      rw [hcond, ht.isBusy, hb, hfalse]
      rfl
  · refine does_of_issue hi ht (.inl rfl) rfl ?_
    rw [condHolds_eq_none _ _ hn]

end Sys2Proof
end

section
/-!
PROOFS. The strand's own scratchpad, descriptors from the image, and the instructions that end or yield (R71, R74, R84, R92,
R222).
-/

namespace Sys2Proof.Machine

/-! ### The strand's own scratchpad -/

section
variable {s : State} {i : Sid} {str : Stream} {x y : Strand} {rs : List (BitVec 4)} {n a : Nat} {w : Bool}
  {body : Strand → State → State}

/-- R84: an access in order, in no conflict with an instruction in flight, runs its body. -/
theorem spadAccess_body (hi : Issues s i str x) (ht : Taken s i str x (s.takeStream i str x) y)
    (hb : x.isBusy str rs = false) (ha : a % n = 0) (hn : a + n ≤ 0x180000)
    (hsp : x.spanBusy str ((a : Int), (a : Int) + n) w = false) :
    spadAccess i str rs n a w body s = body y (s.takeStream i str x) := by
  unfold spadAccess
  rw [issue_at hi ht none (.inl rfl), ht.isBusy, hb, if_neg Bool.false_ne_true, if_neg (not_not.mpr ha),
    if_neg (show ¬ spadBytes < a + n from Nat.not_lt.mpr hn), ht.spanBusy, hsp, if_neg Bool.false_ne_true]

/-- R84: a misaligned access halts with 0x0B before it has any effect. -/
theorem spadAccess_misaligned (hi : Issues s i str x) (ht : Taken s i str x (s.takeStream i str x) y)
    (hb : x.isBusy str rs = false) (ha : a % n ≠ 0) :
    spadAccess i str rs n a w body s = (s.takeStream i str x).haltStrand i 0x0B a := by
  unfold spadAccess
  rw [issue_at hi ht none (.inl rfl), ht.isBusy, hb, if_neg Bool.false_ne_true, if_pos ha]

/-- R84: an aligned access that reaches outside the scratchpad halts with 0x04 before it has any effect. -/
theorem spadAccess_outside (hi : Issues s i str x) (ht : Taken s i str x (s.takeStream i str x) y)
    (hb : x.isBusy str rs = false) (ha : a % n = 0) (hn : 0x180000 < a + n) :
    spadAccess i str rs n a w body s = (s.takeStream i str x).halt i str 0x04 := by
  unfold spadAccess
  rw [issue_at hi ht none (.inl rfl), ht.isBusy, hb, if_neg Bool.false_ne_true, if_neg (not_not.mpr ha),
    if_pos (show spadBytes < a + n from hn)]

/-- R74: on the unit a read of sound bytes gives what they held, and counts the demand. -/
theorem spadRead_taken {k : Nat → Strand → State → State} (ht : Taken s i str x (s.takeStream i str x) y)
    (h : s.firstBad (spadBase i.die i.core + a) n = none) :
    spadRead i n a k y (s.takeStream i str x) = k (s.load (spadBase i.die i.core + a) n) y
      ((s.takeStream i str x).demand 1 (some x.part) (spadBase i.die i.core + a) n).1 := by
  rw [spadRead_ok ((firstBad_congr ht.units _ _).trans h), ht.part, load_congr ht.mem ht.bus]

end

/-! ### Ends of a strand -/

/-- Queues that hold nothing leave nothing at the end. -/
theorem State.finishStrand_of_queues_nil (s : State) (i : Sid) (str : Stream) {x : Strand} (h : x.queues = []) :
    s.finishStrand i str x =
      (((s.breakGroups x).setStrand i.key { (x.cleared .free) with inflight := x.inflight }).dropHolds i).restatCore i.die i.core := by
  unfold State.finishStrand
  rw [if_neg (by rw [h]; exact Bool.false_ne_true)]

end Sys2Proof.Machine

namespace Sys2Proof

open Machine

/-- Settles O8: `spadAccess` orders the checks, and a read of sound words is a demand that gives their bytes. -/
theorem ownScratchpad : Obligations.OwnScratchpad := by
  unfold Obligations.OwnScratchpad
  constructor
  · intro s i str f x a hi ha
    obtain ⟨y, ht⟩ := s.takeStream_taken i str x
    have haddr : s.effAddr i str f = a := (effAddr_eq f hi.2.1).trans ha.symm
    refine ⟨_, y, ht, fun hb h8 hin hsp hsound => ?sldp, fun hb h32 hin hsp hsound => ?dld, fun hb h8 hin hsp => ?sstp⟩
    case sldp =>
      show execSldp i str f s = commit s _
      unfold execSldp
      rw [haddr, spadAccess_body hi ht hb h8 hin hsp, spadRead_taken ht hsound]
      rfl
    case dld =>
      show execDld i str f s = commit s _
      unfold execDld
      rw [haddr, spadAccess_body hi ht hb h32 hin hsp, spadRead_taken ht hsound]
      rfl
    case sstp =>
      show execSstp i str f s = commit s _
      unfold execSstp
      rw [haddr, spadAccess_body hi ht hb h8 hin hsp, ht.sreg]
      rfl
  · intro s i str f x a hi hb ha
    obtain ⟨y, ht⟩ := s.takeStream_taken i str x
    obtain rfl : s.effAddr i str f = a := (effAddr_eq f hi.2.1).trans ha.symm
    have hsldp : x.isBusy str [f.rd, f.rs1] = false := isBusy_sub hb (by simp)
    have hsstp : x.isBusy str [f.rs1, f.rs2] = false := isBusy_sub hb (by simp)
    have hdld : x.isBusy str [f.rs1] = false := isBusy_sub hb (by simp)
    refine ⟨_, y, ht, fun h => ⟨?_, ?_⟩, fun h => ?_, fun h hout => ⟨?_, ?_⟩, fun h hout => ?_⟩
    · exact congrArg (commit s) (spadAccess_misaligned hi ht hsldp h)
    · exact congrArg (commit s) (spadAccess_misaligned hi ht hsstp h)
    · exact congrArg (commit s) (spadAccess_misaligned hi ht hdld h)
    · exact congrArg (commit s) (spadAccess_outside hi ht hsldp h hout)
    · exact congrArg (commit s) (spadAccess_outside hi ht hsstp h hout)
    · exact congrArg (commit s) (spadAccess_outside hi ht hdld h hout)

/-- Settles O9: the image, its length and the descriptor read the same once the stream is taken. -/
theorem descriptors : Obligations.Descriptors := by
  unfold Obligations.Descriptors
  intro s i str f x hi
  obtain ⟨y, ht⟩ := s.takeStream_taken i str x
  refine ⟨_, y, ht, fun hb => ?dbase, fun m hm hal hlen hsound => ?dldi, fun hal => ?misaligned, fun hal hlen => ?outside⟩
  case dbase =>
    refine commits_of_issue hi ht (.inl rfl) rfl ?_
    rw [ht.isBusy, hb, if_neg Bool.false_ne_true, ht.sreg, ht.dreg]
  case dldi =>
    have himage : (s.takeStream i str x).imageOf i y = some m := by
      rw [s.imageOf_takeStream, imageOf_part s i ht.part ht.kernelVa, hm]
    have hgood : m.bad.any (fun b => decide (b < f.imm.toNat + 32) && decide (f.imm.toNat < b + 8)) = false := by
      simpa [List.any_eq_false] using hsound
    refine commits_of_issue hi ht (.inl rfl) rfl ?_
    rw [if_neg (not_not.mpr hal), ht.imageLen, if_neg (Nat.not_lt.mpr hlen), himage]
    dsimp only
    rw [hgood, if_neg Bool.false_ne_true]
  case misaligned =>
    refine does_of_issue hi ht (.inl rfl) rfl ?_
    rw [if_pos hal]
  case outside =>
    refine does_of_issue hi ht (.inl rfl) rfl ?_
    rw [if_neg (not_not.mpr hal), ht.imageLen, if_pos hlen]

/-- Settles O10: each body reads of the strand only what taking the stream leaves as it was. -/
theorem endingInstructions : Obligations.EndingInstructions := by
  unfold Obligations.EndingInstructions
  intro s i str f x hi
  obtain ⟨y, ht⟩ := s.takeStream_taken i str x
  refine ⟨_, y, ht, fun h => ?fence, ?yield, ?halt, ?endA, ?endE, fun hA hE hq => ?endBoth⟩
  case fence =>
    refine commits_of_issue hi ht (.inl rfl) rfl ?_
    have hpass : ¬ (str = .access ∧ (!y.inflight.isEmpty) = true) := by
      rw [ht.inflight]
      rintro ⟨rfl, hne⟩
      simp [h.resolve_left (by simp)] at hne
    rw [if_neg hpass]
  case yield =>
    refine does_of_issue hi ht (.inl rfl) rfl ?_
    rw [ht.prio]
    rfl
  case halt =>
    refine does_of_issue hi ht (.inl rfl) rfl ?_
    rw [ht.pc]
  case endA =>
    rintro rfl hE
    refine does_of_issue hi ht (.inl rfl) rfl ?_
    simp only [ht.endE, hE, Bool.and_false, Bool.false_eq_true, if_false]
  case endE =>
    rintro rfl hA
    refine does_of_issue hi ht (.inl rfl) rfl ?_
    simp only [ht.endA, hA, Bool.false_and, Bool.false_eq_true, if_false]
  case endBoth =>
    have hdoes := endStream_does_finishStrand f hi ht (fun h => hA.resolve_right (by simp [h]))
      (fun h => hE.resolve_right (by simp [h]))
    rwa [State.finishStrand_of_queues_nil _ i str (x := { y with endA := true, endE := true }) (ht.queues.trans hq)] at hdoes

end Sys2Proof
end

section
/-!
PROOFS. The counter wait: how it begins, goes on, commits and times out (R97, R98).
-/

namespace Sys2Proof.Machine

/-! ### Registers of different blocks -/

/-- R427: the pages of different block types share no register. -/
theorem pg_add_ne_of_type {d d' : Die} {t t' i i' o o' : Nat} (ht : t < 256) (ht' : t' < 256) (hi : i < 256) (hi' : i' < 256)
    (ho : o < 0x1000) (ho' : o' < 0x1000) (h : t ≠ t') : pg d t i + o ≠ pg d' t' i' + o' := fun e =>
  h (by rw [← regType_pg_add d ht hi ho, e, regType_pg_add d' ht' hi' ho'])

theorem State.lostAt_of_rvrFailed_eq {s t : State} (h : ∀ c, t.rvrFailed c = s.rvrFailed c) (a : Nat) :
    t.lostAt a = s.lostAt a := by
  unfold State.lostAt
  split
  · exact h _
  · rfl

/-- A counter of an arrive block is no register of a Reservoir controller. -/
theorem State.lostAt_bump_arrive (s : State) (d : Die) {o : Nat} (ho : o < 0x1000) (w k a : Nat) :
    (s.bump (pg d Blk.arrive 0) o w k).lostAt a = s.lostAt a := by
  refine State.lostAt_of_rvrFailed_eq (fun c => ?_) a
  have hne : rvrPage c + 0x104 ≠ pg d Blk.arrive 0 + o :=
    pg_add_ne_of_type (by decide) (by decide) (by omega) (by decide) (by decide) ho (by decide)
  unfold State.rvrFailed State.flag
  rw [show s.bump (pg d Blk.arrive 0) o w k = s.setReg (pg d Blk.arrive 0 + o) _ from rfl, State.reg_setReg_ne s _ hne]

/-! ### Evaluating a wait -/

section
variable {s : State} {i : Sid} {str : Stream} {x : Strand} {w : CtrWait}

theorem CtrWait.elapsed_congr {s t : State} (h : t.issue8 = s.issue8) (w : CtrWait) (d : Die) :
    w.elapsed t d = w.elapsed s d := by
  unfold CtrWait.elapsed State.time8
  rw [h]

/-- R97: a counter short of its target whose time is not up leaves the wait standing with the value seen. -/
theorem evalWait_short (hb : x.waitBehind str w = false) (hl : s.lostAt w.pa = false) (h : s.badUnits w.pa 8 = [])
    (ht : (w64 (s.load w.pa 8)).toNat < w.target.toNat) (he : w.elapsed s i.die < w.timeoutUs * 8000) :
    evalWait i str w x s = ((s.countRvr w.pa false 8).setStrand i.key
      (x.setCtrWait str (some { w with seen := w64 (s.load w.pa 8) }))).restatCore i.die i.core := by
  unfold evalWait
  rw [hb, hl, demand_sound _ _ _ _ _ h]
  simp only [countRvr_load, Nat.not_le.mpr ht, if_false, Bool.false_eq_true,
    w.elapsed_congr (countRvr_issue8 s w.pa 8 false), Nat.not_le.mpr he]

/-- R97: a counter short of its target halts the strand with 0x0A once the wait has been resident for its timeout. -/
theorem evalWait_late (hb : x.waitBehind str w = false) (hl : s.lostAt w.pa = false) (h : s.badUnits w.pa 8 = [])
    (ht : (w64 (s.load w.pa 8)).toNat < w.target.toNat) (he : w.timeoutUs * 8000 ≤ w.elapsed s i.die) :
    evalWait i str w x s = (s.countRvr w.pa false 8).halt i str 0x0A := by
  unfold evalWait
  rw [hb, hl, demand_sound _ _ _ _ _ h]
  simp only [countRvr_load, Nat.not_le.mpr ht, if_false, Bool.false_eq_true,
    w.elapsed_congr (countRvr_issue8 s w.pa 8 false), he, if_true]

variable (hx : s.strand i.key = some x) (hw : x.ctrWait str = some w) (ha : x.active = true) (hh : x.atHalt = false)
  (hc : s.coreClock i.die = true)
include hx hw ha hh hc

/-- R98: a wait that stands is evaluated, and a change of its counter is counted. -/
theorem waitcReevaluate_does : Does (.waitcReevaluate i str) s (evalWait i str w x
    (if w64 (s.load w.pa 8) = w.seen then s else s.bump (pg (homeDie w.pa) Blk.arrive 0) 0x044 32 1)) := by
  show execWaitcReevaluate i str s = commit s _
  unfold execWaitcReevaluate
  simp only [hx, hw, ha, hh, hc, Bool.not_true, Bool.or_self, Bool.false_eq_true, if_false]

theorem remoteWaitTimeout_does : Does (.remoteWaitTimeout i str) s (evalWait i str w x
    (s.carryIssue i.die (w.since8 + (w.timeoutUs * 8000 - w.elapsed8)))) := by
  show execRemoteWaitTimeout i str s = commit s _
  unfold execRemoteWaitTimeout
  simp only [hx, hw, ha, hh, hc, Bool.not_true, Bool.or_self, Bool.false_eq_true, if_false]

end

theorem State.time8_bump (s : State) (p o w k : Nat) (d : Die) : (s.bump p o w k).time8 d = s.time8 d := rfl

/-- The clock stands where it is when the moment has come. -/
theorem State.carryIssue_of_le {s : State} {d : Die} {t8 : Nat} (h : t8 ≤ s.time8 d) : s.carryIssue d t8 = s := by
  unfold State.carryIssue
  rw [if_neg (fun hlt => absurd h (Nat.not_le.mpr hlt.1))]

end Sys2Proof.Machine

namespace Sys2Proof

open Machine

/-- Settles O11: an evaluation compares the counter with its target and then the time with the timeout; the count of a change
lies in an arrive block, so the counter's place stays as sound as it was. -/
theorem counterWaits : Obligations.CounterWaits := by
  unfold Obligations.CounterWaits
  constructor
  · rintro s i str x w _ hx hw ha hh hc hb hl hgood _ rfl
    refine ⟨?reached, fun hlt hseen htime => ?short, fun hlt htime hsince => ?late⟩
    case reached =>
      rintro hle rfl
      have hdoes := waitcReevaluate_does hx hw ha hh hc
      by_cases hseen : w64 (s.load w.pa 8) = w.seen
      · rw [if_pos hseen, evalWait_reached hb hl hgood hle] at hdoes
        rwa [if_pos hseen]
      · have hload : ∀ p o k c, (s.bump p o k c).load w.pa 8 = s.load w.pa 8 := fun p o k c => load_congr rfl rfl _ _
        rw [if_neg hseen, evalWait_reached hb ((s.lostAt_bump_arrive _ (by decide) _ _ _).trans hl)
          ((badUnits_congr (s.bump_units _ _ _ _) _ _).trans hgood) (by rw [hload]; exact hle), hload] at hdoes
        rwa [if_neg hseen]
    case short =>
      have hdoes := waitcReevaluate_does hx hw ha hh hc
      rwa [if_pos hseen, evalWait_short hb hl hgood hlt htime] at hdoes
    case late =>
      have hdoes := remoteWaitTimeout_does hx hw ha hh hc
      rwa [State.carryIssue_of_le htime, evalWait_late hb hl hgood hlt (by unfold CtrWait.elapsed; omega)] at hdoes
  · intro s i f x va hi hb hva
    obtain ⟨y, ht⟩ := s.takeStream_taken i .access x
    refine ⟨_, y, ht, fun h0 => ?reserved, fun h0 h8 => ?misaligned, fun u ga pool h0 h8 htr hgood => ?begins⟩
    case reserved =>
      refine does_of_issue hi ht (.inl rfl) rfl ?_
      rw [if_pos h0]
    case misaligned =>
      subst hva
      refine does_of_issue hi ht (.inl rfl) rfl ?_
      rw [if_neg h0, ht.isBusy, hb, if_neg Bool.false_ne_true, ht.sreg]
      exact if_pos h8
    case begins =>
      subst hva
      refine does_of_issue hi ht (.inl rfl) rfl ?_
      rw [if_neg h0, ht.isBusy, hb, if_neg Bool.false_ne_true, ht.sreg, ht.sreg, ht.part, ht.saved]
      unfold va64
      rw [if_neg (not_not.mpr h8), htr]
      dsimp only
      rw [hgood]
      dsimp only
      rw [if_neg (by decide), State.time8_bump]

end Sys2Proof
end

section
/-!
PROOFS. How the memory instructions of the access stream begin (R85, R88, R89, R218).
-/

namespace Sys2Proof.Machine

/-! ### Loads -/

section
variable {i : Sid} {f : MF} {y : Strand} {t : State} {n : Nat}

/-- R85, R88: an LD that is not multicast, with its operands in order, is started on the rows of its shape. -/
theorem ldBody_eq_startLoad (hf : mfReserved f = false) (hrt : f.rt = 0) (hn : selOf f.opM = .desc n)
    (hb : y.isBusy .access [f.rs, f.rt] = false) (hs : y.selBad .access true (selOf f.opS) = none)
    (hsh : y.shapeBad (.desc n) = none)
    (hd : ∀ d, y.descAt .access (selOf f.opS) = some d →
      d.esize = (descOf (y.dreg .access n)).esize ∧ d.elems = (descOf (y.dreg .access n)).elems ∧ padHalt d = none)
    (hal : mfAddr y f % runBytes 1 (descOf (y.dreg .access n)).width = 0) :
    ldBody i f y t =
      startLoad i .ld (selOf f.opS) n (shapeRuns (descOf (y.dreg .access n)) (mfAddr y f)) 1 [] none y t := by
  have hmc : (f.rt != 0) = false := by simp [hrt]
  unfold ldBody
  rw [hn, hmc, hb]
  dsimp only
  rw [firstHalt_none (by simp [reserved, hf, hs, hsh])]
  cases hsel : y.descAt .access (selOf f.opS) with
  | none => rw [firstHalt_none (by simp [need])]; simp [hal]
  | some d =>
    obtain ⟨hesize, helems, hpad⟩ := hd d hsel
    rw [firstHalt_none (by simp [need, hesize, helems])]
    simp [hal, hpad]

/-- R85, R88: a GATHER whose operands and indices are in order is started on one run of its shape for each index. -/
theorem gatherBody_eq_startLoad {u : State} {ix : Desc} {starts : List Nat} (hf : mfReserved f = false)
    (hn : selOf f.opM = .desc n) (hb : y.isBusy .access [f.rs, f.rt] = false)
    (hs : y.selBad .access true (selOf f.opS) = none) (hsh : y.shapeBad (.desc n) = none)
    (hx : y.selBad .access false (selOf f.opX) = none) (hix : y.descAt .access (selOf f.opX) = some ix)
    (hxd : ∃ k, selOf f.opX = .desc k) (hie : ix.esize = 4) (hip : padHalt ix = none)
    (hbusy : y.spanBusy .access ix.span false = false)
    (hd : ∀ d, y.descAt .access (selOf f.opS) = some d → d.esize = (descOf (y.dreg .access n)).esize ∧
      d.elems = ix.elems * (descOf (y.dreg .access n)).elems ∧ padHalt d = none ∧ spansMeet d.span ix.span = false)
    (hread : t.demandOperand y.part (spadBase i.die i.core) ix = (u, none))
    (hst : starts = (u.operandElems (spadBase i.die i.core) ix).map (fun e =>
      va64 ((mfAddr y f : Int) + signed e 32 * (y.sreg .access f.rt).toInt)))
    (hal : ∀ a ∈ starts, a % runBytes 1 (descOf (y.dreg .access n)).width = 0) :
    gatherBody i f y t = startLoad i .gather (selOf f.opS) n (starts.flatMap (shapeRuns (descOf (y.dreg .access n)))) ix.elems
      [ix.span] none y u := by
  obtain ⟨k, hk⟩ := hxd
  rw [hk] at hx hix
  have hfind : starts.find? (fun a => decide (a % runBytes 1 (descOf (y.dreg .access n)).width ≠ 0)) = none :=
    find_none (fun a ha => by simp [hal a ha])
  unfold gatherBody
  rw [hn, hk, hb, firstHalt_none (by simp [reserved, need, hf, hs, hsh, hx]), hix]
  dsimp only
  cases hsel : y.descAt .access (selOf f.opS) with
  | none =>
    rw [firstHalt_none (by simp [need, hie]), hbusy, hread]
    simp only [List.nil_append, List.filterMap_cons_none hip, List.filterMap_nil, List.head?_nil, Bool.false_eq_true, if_false,
      ← hst, hfind]
  | some d =>
    obtain ⟨hesize, helems, hpad, hmeet⟩ := hd d hsel
    rw [firstHalt_none (by simp [need, hie, hesize, helems]), hbusy, hread]
    simp only [hmeet, List.cons_append, List.nil_append, List.filterMap_cons_none hip, List.filterMap_cons_none hpad,
      List.filterMap_nil, List.head?_nil, Bool.false_eq_true, if_false, ← hst, hfind]

end

end Sys2Proof.Machine

namespace Sys2Proof

open Machine

/-- Settles O12: with its operands in order an LD reaches `startLoad`, which begins it where there is room. -/
theorem loadsBegin : Obligations.LoadsBegin := by
  unfold Obligations.LoadsBegin
  intro s i f x n hi hf hrt hn
  obtain ⟨y, ht⟩ := s.takeStream_taken i .access x
  refine ⟨y, ht, ?_⟩
  rintro hb hs hsh _ rfl hal u runs hruns hmapped
  rw [← ht.dreg] at hal hruns ⊢
  have hdoes : ∀ {t : State}, (∀ d, y.descAt .access (selOf f.opS) = some d → d.esize = (descOf (y.dreg .access n)).esize ∧
      d.elems = (descOf (y.dreg .access n)).elems ∧ padHalt d = none) →
      startLoad i .ld (selOf f.opS) n (shapeRuns (descOf (y.dreg .access n)) (mfAddr y f)) 1 [] none y
        (s.takeStream i .access x) = t → Does (.ld i .access f) s t := fun hd he =>
    does_of_issue hi ht (.inr rfl) rfl ((ldBody_eq_startLoad hf hrt hn hb hs hsh hd hal).trans he)
  constructor
  · rintro k d hk hdef hesize helems hpad hbusy hroom
    have hsel : y.descAt .access (.desc k) = some d := hdef ▸ ht.descAt .access k
    refine hdoes (fun e he => ?_) ?_
    · rw [hk, hsel] at he
      obtain rfl := Option.some.inj he
      exact ⟨hesize, helems, hpad⟩
    · rw [hk]
      exact startLoad_pad hruns hmapped hsel (.inl ⟨rfl, rfl⟩) (by simpa using hbusy) hroom
  · intro q hq hlen hroom
    refine hdoes (fun e he => ?_) ?_
    · rw [hq] at he
      exact absurd he nofun
    · rw [hq]
      exact startLoad_queue hruns hmapped hlen rfl hroom

/-- Settles O13: with its indices read a GATHER reaches `startLoad`, with one row for each index. -/
theorem gathersBegin : Obligations.GathersBegin := by
  unfold Obligations.GathersBegin
  intro s i f x n k hi hf hn hk
  obtain ⟨y, ht⟩ := s.takeStream_taken i .access x
  refine ⟨y, ht, ?_⟩
  rintro hb hs hsh hx _ ix rfl hix hie hip hbusy t hread starts hst hal u runs hruns hmapped
  rw [← ht.dreg] at hal hruns ⊢
  have hixd : y.descAt .access (selOf f.opX) = some ix := by rw [hk, hix]; exact ht.descAt .access k
  have hdoes : ∀ {v : State}, (∀ d, y.descAt .access (selOf f.opS) = some d → d.esize = (descOf (y.dreg .access n)).esize ∧
      d.elems = ix.elems * (descOf (y.dreg .access n)).elems ∧ padHalt d = none ∧ spansMeet d.span ix.span = false) →
      startLoad i .gather (selOf f.opS) n (starts.flatMap (shapeRuns (descOf (y.dreg .access n)))) ix.elems
        [ix.span] none y t = v → Does (.gather i .access f) s v := fun hd he =>
    does_of_issue hi ht (.inr rfl) rfl ((gatherBody_eq_startLoad hf hn hb hs hsh (hk ▸ hx) hixd ⟨k, hk⟩ hie hip hbusy hd
      hread hst hal).trans he)
  constructor
  · rintro j d hj hdef hesize helems hpad hmeet hdbusy hroom
    have hsel : y.descAt .access (.desc j) = some d := hdef ▸ ht.descAt .access j
    refine hdoes (fun e he => ?_) ?_
    · rw [hj, hsel] at he
      obtain rfl := Option.some.inj he
      exact ⟨hesize, helems, hpad, hmeet⟩
    · rw [hj]
      exact startLoad_pad hruns hmapped hsel (.inr rfl) (by simp [hbusy, hdbusy]) hroom
  · intro q hq hlen hroom
    refine hdoes (fun e he => ?_) ?_
    · rw [hq] at he
      exact absurd he nofun
    · rw [hq]
      exact startLoad_queue hruns hmapped hlen (by simp [hbusy]) hroom

end Sys2Proof
end

section
/-!
PROOFS. How stores and doubleword accesses begin (R85, R88, R89, R218).
-/

namespace Sys2Proof.Machine

section
variable {i : Sid} {f : MF} {y : Strand} {t u : State} {n : Nat} {m : Desc} {runs : List Run}

/-- The checks that every store passes before its span is translated (R75, R77, R78, R80, R88). -/
structure StoreReady (f : MF) (y : Strand) (n : Nat) : Prop where
  selectors : mfReserved f = false
  memory : selOf f.opM = .desc n
  free : y.isBusy .access [f.rs, f.rt] = false
  source : y.selBad .access false (selOf f.opS) = none
  shape : y.shapeBad (.desc n) = none
  repeats : (descOf (y.dreg .access n)).repeats = false
  agrees : ∀ d, y.descAt .access (selOf f.opS) = some d →
    d.esize = (descOf (y.dreg .access n)).esize ∧ d.elems = (descOf (y.dreg .access n)).elems ∧ padHalt d = none
  aligned : mfAddr y f % runBytes 1 (descOf (y.dreg .access n)).width = 0

/-- R85: an ST with its operands in order and its span mapped is started on the rows of its shape. -/
theorem storeBody_st (hr : StoreReady f y n) (hm : m = descOf (y.dreg .access n))
    (hruns : t.placeRuns i y.part .w m.width (shapeRuns m (mfAddr y f)) = (u, .inr runs))
    (hmapped : u.unmapped y.part runs = none) :
    storeBody i .st f y t = startStore i .st f m runs (shapeRuns m (mfAddr y f)) none y u := by
  subst hm
  obtain ⟨hf, hn, hb, hs, hsh, hrep, hd, hal⟩ := hr
  unfold storeBody
  rw [hn, hb, firstHalt_none (by simp [reserved, hf, hs, hsh])]
  dsimp only
  cases hsel : y.descAt .access (selOf f.opS) with
  | none => rw [firstHalt_none (by simp [need, hrep])]; simp [hal, hruns, hmapped]
  | some d =>
    obtain ⟨hesize, helems, hpad⟩ := hd d hsel
    rw [firstHalt_none (by simp [need, hrep, hesize, helems])]
    simp [hal, hpad, hruns, hmapped]

/-- R85, R89: an STA also has its counter's address translated and judged. -/
theorem storeBody_sta {v : State} {cva cga : Nat} {pool : Bool} (hr : StoreReady f y n) (hm : m = descOf (y.dreg .access n))
    (hruns : t.placeRuns i y.part .w m.width (shapeRuns m (mfAddr y f)) = (u, .inr runs))
    (hmapped : u.unmapped y.part runs = none) (hcva : cva = (y.sreg .access f.rt).toNat) (h8 : cva % 8 = 0)
    (htr : u.coreTranslate i.die i.core y.part cva .w = (v, .ok cga pool))
    (hgood : v.staCounterBad y.part cga ((runs.flatMap (·.pieces)).map (fun p => gaModule p.1)) = none) :
    storeBody i .sta f y t = startStore i .sta f m runs (shapeRuns m (mfAddr y f)) (some (cva, cga)) y v := by
  subst hm hcva
  obtain ⟨hf, hn, hb, hs, hsh, hrep, hd, hal⟩ := hr
  unfold storeBody
  rw [hn, hb, firstHalt_none (by simp [reserved, hf, hs, hsh])]
  dsimp only
  cases hsel : y.descAt .access (selOf f.opS) with
  | none =>
    rw [firstHalt_none (by simp [need, hrep])]
    simp [hal, h8, hruns, hmapped, htr, hgood]
  | some d =>
    obtain ⟨hesize, helems, hpad⟩ := hd d hsel
    rw [firstHalt_none (by simp [need, hrep, hesize, helems])]
    simp [hal, h8, hpad, hruns, hmapped, htr, hgood]

/-- R72, R88: a store from the scratchpad whose source is sound takes its data and stands in flight, off its stream. -/
theorem startStore_desc {kind : MemKind} {rows : List (Nat × Nat)} {counter : Option (Nat × Nat)} {k : Nat} {d : Desc}
    {r : State × List Nat × List Bool × Option Nat} (hk : selOf f.opS = .desc k) (hd : d = descOf (y.dreg .access k))
    (hbusy : y.spanBusy .access d.span false = false)
    (hroom : t.memRoom i y { Inflight.fresh kind runs true .none with
      counter := counter, value := w64 ((counter.map (·.1)).getD 0) } = true)
    (hr : t.storeElems i y.part d = r) (hsound : r.2.2.2 = none) :
    startStore i kind f m runs rows counter y t = r.1.beginMem i y { Inflight.fresh kind runs true .none with
      counter := counter
      value := w64 ((counter.map (·.1)).getD 0)
      spans := [(d.span.1, d.span.2, false)]
      rest := some [⟨runData m.width rows r.2.1, false⟩] } false := by
  subst hd
  unfold startStore
  rw [hk]
  dsimp only
  rw [hbusy, hroom, hr, hsound]
  rfl

end

end Sys2Proof.Machine

namespace Sys2Proof

open Machine

/-- Settles O14: with its operands in order a store reaches `startStore`, an STA with its counter's place. -/
theorem storesBegin : Obligations.StoresBegin := by
  unfold Obligations.StoresBegin
  intro s i f x n hi hf hn
  obtain ⟨y, ht⟩ := s.takeStream_taken i .access x
  refine ⟨y, ht, ?_⟩
  rintro hb hs hsh m hm hrep hd hal u runs hruns hmapped
  have hm' : m = descOf (y.dreg .access n) := by rw [hm, ht.dreg]
  have hready : StoreReady f y n :=
    ⟨hf, hn, hb, hs, hsh, hm' ▸ hrep, hm' ▸ hd, hm' ▸ hal⟩
  have hst : ∀ {t : State}, startStore i .st f m runs (shapeRuns m (mfAddr y f)) none y u = t → Does (.st i .access f) s t :=
    fun he => does_of_issue hi ht (.inr rfl) rfl ((storeBody_st hready hm' hruns hmapped).trans he)
  have hsrc : ∀ {k : Nat} {d : Desc}, d = descOf (x.dreg .access k) → d = descOf (y.dreg .access k) :=
    fun h => by rw [h, ht.dreg]
  refine ⟨hst rfl, fun k d r hk hdef hbusy hroom hr hsound => ?_, fun v cva cga pool hcva h8 htr hgood => ?_⟩
  · exact hst (startStore_desc hk (hsrc hdef) hbusy hroom hr hsound)
  · have hsta : ∀ {t : State}, startStore i .sta f m runs (shapeRuns m (mfAddr y f)) (some (cva, cga)) y v = t →
        Does (.sta i .access f) s t :=
      fun he => does_of_issue hi ht (.inr rfl) rfl ((storeBody_sta hready hm' hruns hmapped hcva h8 htr hgood).trans he)
    exact ⟨hsta rfl, fun k d r hk hdef hbusy hroom hr hsound =>
      hsta (startStore_desc hk (hsrc hdef) hbusy hroom hr hsound)⟩

/-- Settles O15: `wordBody` judges the alignment first, and a mapped access with room leaves its stream. -/
theorem wordAccessesBegin : Obligations.WordAccessesBegin := by
  unfold Obligations.WordAccessesBegin
  intro s i f x va hi hb hva
  obtain ⟨y, ht⟩ := s.takeStream_taken i .access x
  have hbadd : y.isBusy .access [f.rd, f.rs1, f.rs2] = false := (ht.isBusy _ _).trans hb
  have hbsld : y.isBusy .access [f.rd, f.rs1] = false := isBusy_sub hbadd (by simp)
  have hva' : (y.sreg .access f.rs1 + f.imm).toNat = va := by rw [ht.sreg, hva]
  refine ⟨y, ht, fun h8 => ⟨?_, ?_⟩, fun u runs h8 hmapped => ⟨fun hplace hroom => ?_, fun hplace hroom => ?_⟩⟩
  · exact does_of_issue hi ht (.inr rfl) rfl (word_halt .sld hbsld hva' h8)
  · exact does_of_issue hi ht (.inr rfl) rfl (word_halt .atadd hbadd hva' h8)
  · exact does_of_issue hi ht (.inr rfl) rfl (word_ok .sld hbsld hva' h8 hplace hmapped hroom)
  · rw [← ht.sreg] at hroom ⊢
    exact does_of_issue hi ht (.inr rfl) rfl (word_ok .atadd hbadd hva' h8 hplace hmapped hroom)

end Sys2Proof
end

section
/-!
PROOFS. Moves between the scratchpad and the queues (R69, R85, R131).
-/

namespace Sys2Proof.Machine

/-- A queue-bound instruction that has not begun may begin: it needs no entry and finds room, or some queue it pops holds one
(R69). -/
def Strand.queueBegins (x : Strand) (needs : List (Nat × Nat × Nat)) (push : Option Nat) : Prop :=
  (needs = [] ∧ ∀ q, push = some q → (x.queue q).length < 32) ∨ ∃ n ∈ needs, x.queue n.2.1 ≠ []

section
variable {i : Sid} {str : Stream} {needs : List (Nat × Nat × Nat)} {push : Option Nat}
  {make : Bool → (Nat → List Byte) → List Nat → State → QResult} {x y z w : Strand} {p : QProgress} {s t : State}
  {todo : List (Nat × QEntry)} {made : List Nat}

/-- R69: an instruction that begins with all it needs in its queues and with room for all it pushes commits at once. -/
theorem queueRun_commits (hprog : x.prog str = none) (hbegin : x.queueBegins needs push)
    (hpop : popNeeds needs x ⟨[], [], false, []⟩ = (w, p, false))
    (hall : ∀ n ∈ needs, entriesOf n.2.2 ≤ (p.have n.1).length / 256)
    (hmake : make true p.have [] (s.setStrand i.key w) = .ok t todo made) (hy : t.strand i.key = some y)
    (hpush : pushAll todo y = (z, [])) :
    queueRun i str needs push make x s = t.commitStrand i str z := by
  have hlacks : needs.find? (fun n => decide ((p.have n.1).length / 256 < entriesOf n.2.2)) = none :=
    find_none (fun n hn => decide_eq_false (Nat.not_lt.mpr (hall n hn)))
  unfold queueRun
  simp only [hprog, Option.isSome_none, Option.getD_none, Bool.false_or, hpop, Bool.false_eq_true, if_false, hlacks,
    Option.isNone_none, hmake, hy, List.nil_append, hpush]
  rw [if_neg]
  rcases hbegin with ⟨rfl, hroom⟩ | ⟨n, hn, hne⟩
  · cases push with
    | none => simp
    | some q => simp [hroom q rfl]
  · have hneeds : needs.isEmpty = false := List.isEmpty_eq_false_iff_exists_mem.mpr ⟨n, hn⟩
    have hany : needs.any (fun n => !(x.queue n.2.1).isEmpty) = true := List.any_eq_true.mpr ⟨n, hn, by simpa using hne⟩
    simp only [hneeds, hany, Bool.false_eq_true, if_false, Bool.not_true, not_false_eq_true]

end

section
variable {i : Sid} {f : MF} {y : Strand} {t : State} {k q : Nat} {d : Desc}

theorem moveBody_push (hs : y.descAt .access (selOf f.opS) = some d) (hq : selOf f.opM = .queue q)
    (hhalt : y.moveHalt f true = none) (hbusy : y.spanBusy .access d.span false = false)
    (hbehind : y.padBehind y.nextId = false) :
    moveBody i f true y t = queueRun i .access [] (some q) (fun _ _ _ u =>
      match u.demandOperand y.part (spadBase i.die i.core) d with
      | (v, some b) => .halt v 0x08 (some (b - spadBase i.die i.core))
      | (v, none) => .ok v ((toEntries (queueBytes d.width (d.size 0) (v.operandElems (spadBase i.die i.core) d))).map
          (fun e => (q, e))) []) y t := by
  unfold moveBody
  simp only [hhalt, hs, hq, hbusy, hbehind, Bool.not_true, Bool.and_false, Bool.or_self, Bool.false_eq_true, if_false, if_true] <;> rfl

theorem moveBody_pop (hs : y.descAt .access (selOf f.opS) = some d) (hq : selOf f.opM = .queue q)
    (hhalt : y.moveHalt f false = none) (hbusy : y.spanBusy .access d.span true = false) :
    moveBody i f false y t = queueRun i .access [(0, q, runBytes (d.size 0) d.width * d.rows)] none (fun all popped made u =>
      .ok (if all && made.isEmpty
          then u.putOperand (spadBase i.die i.core) d (unqueue d.width (d.size 0) d.rows (popped 0))
          else u.putRest (spadBase i.die i.core) d (made.headD 0) ((unqueue d.width (d.size 0) d.rows (popped 0)).take
            (if all then (unqueue d.width (d.size 0) d.rows (popped 0)).length
              else queueElems d.width (d.size 0) (popped 0).length))) []
        [if all then (unqueue d.width (d.size 0) d.rows (popped 0)).length
          else queueElems d.width (d.size 0) (popped 0).length]) y t := by
  unfold moveBody
  simp only [hhalt, hs, hq, hbusy, Bool.not_false, Bool.false_and, Bool.or_self, Bool.false_eq_true, if_false]

end

end Sys2Proof.Machine

namespace Sys2Proof

open Machine

/-- Settles O16: both moves are a `queueRun` that begins with everything at hand. -/
theorem queueMoves : Obligations.QueueMoves := by
  unfold Obligations.QueueMoves
  intro s i f x k q d hi hprog hk hq hd
  obtain ⟨y, ht⟩ := s.takeStream_taken i .access x
  have hs : y.descAt .access (selOf f.opS) = some d := by rw [hk, hd]; exact ht.descAt .access k
  have hyprog : y.prog .access = none := (ht.prog _).trans hprog
  refine ⟨y, ht, fun hhalt hbusy hbehind hlen v hread hv z hpush => ?push, fun hhalt hbusy hne z p hpop hhave v hv hz => ?pop⟩
  case push =>
    refine does_of_issue hi ht (.inr rfl) rfl ((moveBody_push hs hq hhalt hbusy hbehind).trans ?_)
    refine queueRun_commits hyprog (.inl ⟨rfl, ?_⟩) rfl nofun (by rw [hread]) hv hpush
    rintro _ ⟨⟩
    exact hlen
  case pop =>
    refine does_of_issue hi ht (.inr rfl) rfl ((moveBody_pop hs hq hhalt hbusy).trans ?_)
    subst hv
    refine queueRun_commits hyprog (.inr ⟨_, List.mem_singleton_self _, hne⟩) hpop ?_ rfl hz rfl
    rintro n hn
    obtain rfl := List.mem_singleton.mp hn
    exact hhave

end Sys2Proof
end

section
/-!
PROOFS. Stack-command fences, stack commands and layout descriptors of a strand (R85, R90, R137, R162, R183).
-/

namespace Sys2Proof.Machine

section
variable {i : Sid} {f : MF} {y : Strand} {t u v : State} {d : Desc} {b : List Byte}

/-- R85, R90, R162: an SCMD whose operand and address are in order writes its command to the port; neither an ATTEND nor a
done counter asks for more. -/
theorem scmdBody_eq_writeCmd {k ga n : Nat} {pool : Bool} (hf : mfReserved f = false) (hk : selOf f.opS = .desc k)
    (hd : y.descAt .access (selOf f.opS) = some d) (hs : y.selBad .access false (selOf f.opS) = none) (hpad : padHalt d = none)
    (hb : y.isBusy .access [f.rs] = false) (hsp : y.spanBusy .access d.span false = false) (hroom : y.inflight.length < 32)
    (htr : t.coreTranslate i.die i.core y.part (mfAddr y f) .w = (u, .ok ga pool)) (hport : u.portOf y.part ga = .inl n)
    (hread : u.demandOperand y.part (spadBase i.die i.core) d = (v, none))
    (hbytes : b = queueBytes d.width (d.size 0) (v.operandElems (spadBase i.die i.core) d)) (hdone : bit (cFlags b) 1 = false)
    (hop : cOpcode b ≠ 1) :
    scmdBody i f y t = v.writeCmd i y n (mfAddr y f) (cmdBytes i y.part b (cDonePa b) 0) d.span := by
  subst hbytes
  rw [hk] at hd hs
  unfold scmdBody
  rw [hk, firstHalt_none (by simp [reserved, need, hf, hs]), hd]
  dsimp only
  rw [hpad, hb, hsp, htr]
  simp only [Bool.or_self, Bool.false_eq_true, if_false, hport, hread, hdone, hop, Nat.not_le.mpr hroom, ne_eq,
    not_false_eq_true, if_true]

/-- R137: an LXSUB whose descriptor can be read and names no counter is queued where the die's engine has room. -/
theorem lxsubBody_queues {spa : Nat} (hf : mfReserved f = false) (hd : y.descAt .access (selOf f.opS) = some d)
    (hs : y.selBad .access false (selOf f.opS) = none) (hshape : d.ndim = 1 ∧ d.size 0 = 256 ∧ d.esize = 2)
    (hpad : padHalt d = none) (hsp : y.spanBusy .access d.span false = false) (hroom : y.inflight.length < 32)
    (hread : t.demandOperand y.part (spadBase i.die i.core) d = (u, none))
    (hbytes : b = queueBytes 8 256 (u.operandElems (spadBase i.die i.core) d)) (hal : leAt b 0xC8 8 % 32 = 0)
    (hctr : leAt b 0xC0 8 = 0) (hstatus : u.statusOf i y.part (leAt b 0xC8 8) = (v, .inl spa))
    (hlay : v.layRoom i.die y.part = true) :
    lxsubBody i f y t = (v.setLayQueue i.die (v.layQueue i.die ++
      [⟨b, y.part, spa, none, false, 0, 0, [], none, none, false⟩])).commitStrand i .access y := by
  subst hbytes
  obtain ⟨hdim, hsize, hesize⟩ := hshape
  unfold lxsubBody
  rw [hd]
  dsimp only
  rw [firstHalt_none (by simp [reserved, need, hf, hs, hdim, hsize, hesize])]
  dsimp only
  rw [hpad, hsp, hread]
  simp only [hal, hctr, hstatus, hlay, Bool.false_eq_true, if_false, ne_eq, not_true_eq_false, if_true, Bool.not_true,
    Bool.false_or, decide_eq_true_eq, Nat.not_le.mpr hroom]

end

end Sys2Proof.Machine

namespace Sys2Proof

open Machine

/-- Settles O17: no command outstanding lets the SFENCE pass or report, and the two submissions read their operand and then
their addresses. -/
theorem fencesAndSubmissions : Obligations.FencesAndSubmissions := by
  unfold Obligations.FencesAndSubmissions
  refine ⟨fun s i f x hi hcmds hflight => ?sfence, fun s i f x k d hi hf hk hd => ?scmd,
    fun s i f x k d hi hf hk hd hdim hsize hesize => ?lxsub⟩
  case sfence =>
    obtain ⟨y, ht⟩ := s.takeStream_taken i .access x
    have hnone : x.inflight.any (fun m => m.kind == .scmd) = false := by simpa [List.any_eq_false] using hflight
    refine ⟨y, ht, fun hbad => ?_, fun va hbad => ?_⟩
    · refine commits_of_issue hi ht (.inr rfl) rfl ?_
      rw [ht.cmds, hcmds, ht.inflight, hnone, ht.badCmd, hbad]
      simp only [List.isEmpty_nil, Bool.not_true, Bool.or_self, Bool.false_eq_true, if_false]
    · refine does_of_issue hi ht (.inr rfl) rfl ?_
      rw [ht.cmds, hcmds, ht.inflight, hnone, ht.badCmd, hbad]
      simp only [List.isEmpty_nil, Bool.not_true, Bool.or_self, Bool.false_eq_true, if_false]
  case scmd =>
    obtain ⟨y, ht⟩ := s.takeStream_taken i .access x
    refine ⟨y, ht, fun hs hpad hb hsp hroom u ga pool n htr hport v b hread hbytes hdone hop => ?_⟩
    have hsel : y.descAt .access (selOf f.opS) = some d := by rw [hk, hd]; exact ht.descAt .access k
    exact does_of_issue hi ht (.inr rfl) rfl
      (scmdBody_eq_writeCmd hf hk hsel (hk ▸ hs) hpad hb hsp hroom htr hport hread hbytes hdone hop)
  case lxsub =>
    obtain ⟨y, ht⟩ := s.takeStream_taken i .access x
    refine ⟨y, ht, fun hs hpad hsp hroom u b hread hbytes hal hctr v spa hstatus hlay => ?_⟩
    have hsel : y.descAt .access (selOf f.opS) = some d := by rw [hk, hd]; exact ht.descAt .access k
    exact does_of_issue hi ht (.inr rfl) rfl
      (lxsubBody_queues hf hsel (hk ▸ hs) ⟨hdim, hsize, hesize⟩ hpad hsp hroom hread hbytes hal hctr hstatus hlay)

end Sys2Proof
end

section
/-!
PROOFS. What memory answers a local doubleword access, and the limits of a tile, a wait on queues and the hold of a stream
(R70, R92, R96, R218, R222).
-/

namespace Sys2Proof.Machine

/-! ### A doubleword in this package, alone in flight -/

/-- An instruction that accesses one doubleword of this package and is of no multicast. -/
structure Inflight.LocalWord (s : State) (m : Inflight) (va ga : Nat) : Prop where
  runs : m.runs = [⟨va, 1, [(ga, 8, false)]⟩]
  mcast : m.mcast = none
  isLocal : s.isLocal ga = true

section
variable {s : State} {m : Inflight} {va ga : Nat}

theorem Inflight.LocalWord.placed (h : m.LocalWord s va ga) : m.placed = [(0, va, (ga, 8, false))] := by
  unfold Inflight.placed
  rw [h.runs]
  rfl

theorem Inflight.LocalWord.remoteParts (h : m.LocalWord s va ga) : s.remoteParts m = [] := by
  unfold State.remoteParts
  simp [h.placed, h.isLocal]

theorem Inflight.LocalWord.mergeOf (h : m.LocalWord s va ga) : s.mergeOf m = none := by
  unfold State.mergeOf
  rw [h.mcast]
  rfl

theorem Inflight.LocalWord.mustWait (h : m.LocalWord s va ga) (hgo : s.spotWait (gaLocal ga) = .go) :
    s.mustWait m = .go := by
  unfold State.mustWait State.localParts
  simp [h.placed, h.isLocal, hgo]

theorem Inflight.LocalWord.setStrand (h : m.LocalWord s va ga) (k : Nat) (x : Strand) : m.LocalWord (s.setStrand k x) va ga :=
  ⟨h.runs, h.mcast, h.isLocal⟩

variable {i : Sid} {x : Strand}

/-- Nothing of it is sent to another package. -/
theorem Inflight.LocalWord.sendOut (h : m.LocalWord s va ga) (hkind : m.kind = .sld ∨ m.kind = .atadd) :
    s.sendOut i x m = (s, m) := by
  unfold State.sendOut
  split
  · rfl
  · rcases hkind with hk | hk
    · rw [hk]
      dsimp only
      unfold State.sendReads
      rw [h.remoteParts]
      rfl
    · rw [hk, h.runs]
      simp [h.isLocal]

/-- R222: a doubleword load takes what stands at its address and is placed where it goes. -/
theorem Inflight.LocalWord.answerLoad {u : State} {b : List Byte} (h : m.LocalWord s va ga) (hkind : m.kind = .sld)
    (hrest : m.rest = none) (herr : m.err = none) (hremote : m.remote = [])
    (hx : x.inflight = [m])
    (hread : (s.setStrand i.key x).spotRead (.strand x.part) (askedBy (s.corePage i.die i.core) 0) x.part false (gaLocal ga) 8 =
      (u, 0, b)) :
    s.answerLoad i x m = (u.countFar (spotDie (gaLocal ga)) i.die 8).placeLoad i m b := by
  have h' := h.setStrand i.key x
  have hbytes : (s.setStrand i.key x).gatherBytes i x.part m = (u.countFar (spotDie (gaLocal ga)) i.die 8, none, b) := by
    unfold State.gatherBytes
    rw [h.placed, List.foldl_cons, List.foldl_nil]
    dsimp only
    rw [h'.isLocal, if_pos rfl, show (s.setStrand i.key x).corePage i.die i.core = s.corePage i.die i.core from rfl, hread]
    rfl
  unfold State.answerLoad State.withFetch State.noteFetch
  simp only [hrest, h.mergeOf, h.sendOut (.inl hkind), setInflight_self hx, herr, hremote, h'.remoteParts, List.any_nil,
    List.isEmpty_nil, Bool.not_true, Bool.or_self, Bool.false_eq_true, if_false, hbytes]

/-- R218, R222: an ATADD takes the old value and the sum is stored. -/
theorem Inflight.LocalWord.answerAdd {u : State} {old : Word} (h : m.LocalWord s va ga) (hkind : m.kind = .atadd)
    (herr : m.err = none) (hx : x.inflight = [m])
    (hadd : (s.setStrand i.key x).homeAdd (askedBy (s.corePage i.die i.core) 0) x.part (gaLocal ga) m.value = (u, 0, old)) :
    s.answerAdd i x m = u.placeLoad i m (leBytes 8 old.toNat) := by
  have h' := h.setStrand i.key x
  unfold State.answerAdd
  simp only [h.sendOut (.inr hkind), setInflight_self hx, herr, h.runs, List.flatMap_cons, List.flatMap_nil, List.append_nil,
    h'.isLocal, if_true, show (s.setStrand i.key x).corePage i.die i.core = s.corePage i.die i.core from rfl, hadd]

/-- R222: memory's answer finds the only instruction in flight ready. -/
theorem Inflight.LocalWord.memoryAnswer {t : State} {rd : Nat} (h : m.LocalWord s va ga) (hs : s.strand i.key = some x)
    (hx : x.inflight = [m]) (hdest : m.dest = .scalar rd) (hgo : s.spotWait (gaLocal ga) = .go)
    (hkind : m.kind = .sld ∧ s.answerLoad i x m = t ∨ m.kind = .atadd ∧ s.answerAdd i x m = t) :
    Does (.memoryAnswer i m.id) s t := by
  show execMemoryAnswer i m.id s = commit s t
  have hfind : x.inflight.find? (fun y => y.id == m.id) = some m := by rw [hx]; simp
  unfold execMemoryAnswer
  rcases hkind with ⟨hk, rfl⟩ | ⟨hk, rfl⟩ <;>
    simp only [hs, hfind, behind_single hx, hdest, Bool.or_self, Bool.false_eq_true, if_false, h.mustWait hgo, hk]

theorem State.placeLoad_scalar {rd : BitVec 4} (hdest : m.dest = .scalar rd.toNat) (b : List Byte) :
    s.placeLoad i m b = s.endMem i m (fun z =>
      { z.setSreg .access rd (w64 (leNat b)) with busy := z.busy.filter (fun k => k != rd.toNat) }) := by
  unfold State.placeLoad
  simp only [hdest, BitVec.ofNat_toNat, BitVec.setWidth_eq]

end

end Sys2Proof.Machine

namespace Sys2Proof

open Machine

/-- Settles O18: a doubleword of this package alone in flight asks nothing of another package, so its answer is one read or one
sum; the limits end in a halt or a switch at their moment. -/
theorem answersAndTimeouts : Obligations.AnswersAndTimeouts := by
  unfold Obligations.AnswersAndTimeouts
  constructor
  · intro s i x m va ga rd place id hs hx hlocal hgo _
    refine ⟨fun u b hm hread => ?sld, fun u old a hm hadd => ?atadd⟩
    case sld =>
      have hword : m.LocalWord s va ga := ⟨congrArg Inflight.runs hm, congrArg Inflight.mcast hm, hlocal⟩
      have hkind : m.kind = .sld := congrArg Inflight.kind hm
      have hdest : m.dest = .scalar rd.toNat := congrArg Inflight.dest hm
      obtain rfl : m.id = id := congrArg Inflight.id hm
      refine hword.memoryAnswer hs hx hdest hgo (.inl ⟨hkind, ?_⟩)
      rw [hword.answerLoad hkind (congrArg Inflight.rest hm) (congrArg Inflight.err hm) (congrArg Inflight.remote hm) hx hread,
        State.placeLoad_scalar hdest]
    case atadd =>
      have hword : m.LocalWord s va ga := ⟨congrArg Inflight.runs hm, congrArg Inflight.mcast hm, hlocal⟩
      have hkind : m.kind = .atadd := congrArg Inflight.kind hm
      have hdest : m.dest = .scalar rd.toNat := congrArg Inflight.dest hm
      obtain rfl : m.value = a := congrArg Inflight.value hm
      obtain rfl : m.id = id := congrArg Inflight.id hm
      refine hword.memoryAnswer hs hx hdest hgo (.inr ⟨hkind, ?_⟩)
      rw [hword.answerAdd hkind (congrArg Inflight.err hm) hx hadd, State.placeLoad_scalar hdest]
  · intro s i x hs
    refine ⟨fun ha hw hc => ?watchdog, fun a e ha hwa hwe hx => ?deadlock, fun str hhold hprog hc => ?hold⟩
    case watchdog =>
      show execTileWatchdogExpiry i s = commit s _
      unfold execTileWatchdogExpiry
      simp only [hs, ha, hw, hc, Bool.not_true, Option.isSome_none, Bool.or_self, Bool.false_eq_true, if_false]
    case deadlock =>
      show execQueueDeadlock i s = commit s _
      unfold execQueueDeadlock
      simp only [hs, hwa, hwe, ha, hx, List.any_nil, Bool.not_true, Bool.or_self, Bool.false_eq_true, if_false]
    case hold =>
      show execStreamHoldExpiry i.die i.core str s = commit s _
      unfold execStreamHoldExpiry
      have hkey : s.strand (strandKey i.die i.core i.ctx) = some x := hs
      cases str <;>
        simp only [hhold, hkey, hprog, hc, Option.isSome_none, Bool.not_true, Bool.or_self, Bool.false_eq_true, if_false]

end Sys2Proof
end

section
/-!
PROOFS. The tensor instructions and their plans, TMARK, and instructions of the wrong stream (R82, R86, R96).
-/

namespace Sys2Proof.Machine

section
variable {c : Instr} {s : State} {i : Sid} {x y : Strand} {plan : Strand → State → Nat ⊕ Plan} {p : Plan}

/-- A tensor instruction that issues with a plan carries it out. -/
theorem tensor_of_plan (hi : Issues s i .execute x) (ht : Taken s i .execute x (s.takeStream i .execute x) y)
    (hp : plan y (s.takeStream i .execute x) = .inr p) :
    tensor i .execute plan s = runPlan i .execute p y (s.takeStream i .execute x) := by
  unfold tensor
  rw [issue_at hi ht _ (.inr rfl), hp]

theorem tensor_of_halt {r : Nat} (hi : Issues s i .execute x) (ht : Taken s i .execute x (s.takeStream i .execute x) y)
    (hp : plan y (s.takeStream i .execute x) = .inl r) :
    tensor i .execute plan s = (s.takeStream i .execute x).halt i .execute r := by
  unfold tensor
  rw [issue_at hi ht _ (.inr rfl), hp]

/-- R74, R78, R86: a tensor instruction that issues halts as its checks say, or carries out its plan. -/
theorem tensors_of_exec (hi : Issues s i .execute x) (he : exec c s = commit s (tensor i .execute plan s)) :
    Tensors c s i x plan := by
  obtain ⟨y, ht⟩ := s.takeStream_taken i .execute x
  refine ⟨y, ht, fun r hr => ?_, fun p hp => ⟨?_, fun hprog hspan hdesc u l hread t z hplace hz => ?_⟩⟩
  · rw [tensor_of_halt hi ht hr] at he
    exact he
  · rw [tensor_of_plan hi ht hp] at he
    exact he
  · rw [tensor_of_plan hi ht hp, runPlan_place i p y _ ((ht.prog _).trans hprog) hspan hdesc u l hread t z hplace hz] at he
    exact he

/-- R82: an instruction of the other stream halts its strand with 0x01. -/
theorem does_halt_of_wrong_stream {str own : Stream} {body : Strand → State → State} (hi : Issues s i str x) (ho : own ≠ str)
    (he : exec c s = commit s (issue i str (some own) body s)) :
    Does c s ((s.takeStream i str x).halt i str 0x01) := by
  rw [issue_wrong hi ho] at he
  exact he

theorem does_halt_of_tensor_in_access (hi : Issues s i .access x) (he : exec c s = commit s (tensor i .access plan s)) :
    Does c s ((s.takeStream i .access x).halt i .access 0x01) :=
  does_halt_of_wrong_stream hi (own := .execute) nofun he

end

end Sys2Proof.Machine

namespace Sys2Proof

open Machine

/-- Settles O19: each is a `tensor` of an elementwise plan or of a reduction's. -/
theorem vectorResults : Obligations.VectorResults := by
  unfold Obligations.VectorResults
  refine ⟨fun s i f x hi => ⟨?_, ?_, ?_, ?_, ?_, ?_, ?_⟩, fun s i f x hi => ⟨?_, ?_, ?_, ?_, ?_, ?_⟩⟩ <;>
    exact tensors_of_exec hi rfl

/-- Settles O20: each is a `tensor` of its own plan. -/
theorem arrayAndConversionResults : Obligations.ArrayAndConversionResults := by
  unfold Obligations.ArrayAndConversionResults
  exact fun s i f x hi =>
    ⟨tensors_of_exec hi rfl, tensors_of_exec hi rfl, tensors_of_exec hi rfl, tensors_of_exec hi rfl⟩

/-- Settles O21: TMARK's body judges its reserved fields first, and `issue` judges the stream before any body. -/
theorem tileMarksAndStreams : Obligations.TileMarksAndStreams := by
  unfold Obligations.TileMarksAndStreams
  refine ⟨fun s i f x hi => ?mark, fun s i x f g h => ⟨fun hi c hc => ?access, fun hi c hc => ?execute⟩⟩
  case mark =>
    obtain ⟨y, ht⟩ := s.takeStream_taken i .execute x
    refine ⟨y, ht, fun hok => ?_, fun hbad => ?_⟩
    · refine commits_of_issue hi ht (.inr rfl) rfl ?_
      rw [hok, if_neg Bool.false_ne_true, ht.tiles, State.time8, ht.issue8]
      rfl
    · refine does_of_issue hi ht (.inr rfl) rfl ?_
      rw [hbad, if_pos rfl]
  case access =>
    simp only [List.mem_cons, List.not_mem_nil, or_false] at hc
    rcases hc with rfl | rfl | rfl | rfl | rfl | rfl | rfl | rfl | rfl | rfl | rfl | rfl | rfl | rfl | rfl | rfl | rfl | rfl
    on_goal 18 => exact does_halt_of_wrong_stream hi (own := .execute) nofun rfl
    all_goals exact does_halt_of_tensor_in_access hi rfl
  case execute =>
    simp only [List.mem_cons, List.not_mem_nil, or_false] at hc
    rcases hc with rfl | rfl | rfl | rfl | rfl | rfl | rfl | rfl | rfl | rfl | rfl <;>
      exact does_halt_of_wrong_stream hi (own := .access) nofun rfl

end Sys2Proof
end

section
/-!
PROOFS. Tensor instructions between descriptors complete: XCOPY, VCVT, MLOAD and MMA (R86, R87, R102 to R110, R121, R134,
R135).
-/

namespace Sys2Proof.Machine

/-! ### A plan whose operands are descriptors in order -/

section
variable {s t : State} {i : Sid} {x y : Strand} {n : Nat}

/-- R74: sources in order, of one alignment, deliver their elements and leave the state as it was. -/
theorem readSrcs_named {u : State} (ht : Taken s i .execute x t y) (hu : u.units = s.units) (hm : u.mem = s.mem)
    (hb : u.bus = s.bus) {gs : List (BitVec 6)} (hgs : ∀ g ∈ gs, x.operandOk g n false ∧ s.sourceSound i (x.named g)) (j : Nat)
    (l : List Opd) (hl : l.map (·.sel) = gs.map selOf) :
    readSrcs i y .execute (fun _ => []) j l u = (u, none, gs.map (fun g => s.elemsOf i (x.named g))) := by
  induction gs generalizing j l with
  | nil =>
    obtain rfl := List.map_eq_nil_iff.mp hl
    rfl
  | cons g r ih =>
    cases l with
    | nil => exact absurd hl nofun
    | cons o l =>
      obtain ⟨ho, hl⟩ := List.cons.inj hl
      obtain ⟨hok, hsound⟩ := hgs g List.mem_cons_self
      rw [readSrcs_one ht j l ho hok hsound hu hm hb, ih (fun e he => hgs e (List.mem_cons_of_mem _ he)) (j + 1) l hl]
      rfl

/-- An operand of a list named by fields is the descriptor that one of the fields names. -/
theorem exists_named_of_mem (ht : Taken s i .execute x t y) {l : List Opd} {gs : List (BitVec 6)} {b : Bool}
    (hl : l.map (·.sel) = gs.map selOf) (hgs : ∀ g ∈ gs, x.operandOk g n b) {o : Opd} (ho : o ∈ l) :
    ∃ g ∈ gs, o.sel = .desc g.toNat ∧ y.descAt .execute o.sel = some (x.named g) := by
  have hsel : o.sel ∈ gs.map selOf := hl ▸ List.mem_map_of_mem ho
  obtain ⟨g, hg, he⟩ := List.mem_map.mp hsel
  obtain ⟨hlt, -⟩ := hgs g hg
  exact ⟨g, hg, by rw [← he, selOf_desc hlt], by rw [← he, descAt_named ht hlt]⟩

/-- What the plan of an instruction needs to complete at once: descriptors in order on both sides that do not meet. -/
structure PlanReady (s : State) (i : Sid) (x : Strand) (p : Plan) (n : Nat) (gs hs : List (BitVec 6)) : Prop where
  align : p.align = n
  srcs : p.srcs.map (·.sel) = gs.map selOf
  dsts : p.dsts.map (·.sel) = hs.map selOf
  read : ∀ g ∈ gs, x.operandOk g n false ∧ s.sourceSound i (x.named g)
  written : ∀ h ∈ hs, x.operandOk h n true
  apart : ∀ h ∈ hs, ∀ g ∈ gs, spansMeet (x.named h).span (x.named g).span = false

variable {p : Plan} {gs hs : List (BitVec 6)}

/-- R78: descriptors in order give no halt of their spans. -/
theorem PlanReady.spanHalt (hp : PlanReady s i x p n gs hs) (ht : Taken s i .execute x t y) : spanHalt y .execute p = none := by
  have hread : ∀ g ∈ gs, x.operandOk g n false := fun g hg => (hp.read g hg).1
  refine spanHalt_ok (fun o ho d hd => ?_) (fun o ho e he d g hd hg => ?_)
  · rw [hp.align]
    rcases List.mem_append.mp ho with ho | ho
    · obtain ⟨g, hg, -, hdesc⟩ := exists_named_of_mem ht hp.srcs hread ho
      obtain rfl := Option.some.inj (hdesc.symm.trans hd)
      obtain ⟨-, -, -, -, hspan⟩ := hread g hg
      exact hspan
    · obtain ⟨g, hg, -, hdesc⟩ := exists_named_of_mem ht hp.dsts hp.written ho
      obtain rfl := Option.some.inj (hdesc.symm.trans hd)
      obtain ⟨-, -, -, -, hspan⟩ := hp.written g hg
      exact hspan
  · obtain ⟨a, ha, -, hadesc⟩ := exists_named_of_mem ht hp.dsts hp.written ho
    obtain ⟨b, hb, -, hbdesc⟩ := exists_named_of_mem ht hp.srcs hread he
    obtain rfl := Option.some.inj (hadesc.symm.trans hd)
    obtain rfl := Option.some.inj (hbdesc.symm.trans hg)
    exact hp.apart a ha b hb

theorem PlanReady.descs (hp : PlanReady s i x p n gs hs) (ht : Taken s i .execute x t y) :
    ∀ o ∈ p.srcs ++ p.dsts, ∃ n, o.sel = .desc n := by
  intro o ho
  rcases List.mem_append.mp ho with ho | ho
  · obtain ⟨g, -, hsel, -⟩ := exists_named_of_mem ht hp.srcs (fun g hg => (hp.read g hg).1) ho
    exact ⟨_, hsel⟩
  · obtain ⟨g, -, hsel, -⟩ := exists_named_of_mem ht hp.dsts hp.written ho
    exact ⟨_, hsel⟩

/-- An instruction whose plan is ready completes with what the plan computes from its sources' elements, placed. -/
theorem PlanReady.completes {c : Instr} {plan : Strand → State → Nat ⊕ Plan} {effect : State → State}
    (hp : PlanReady s i x p n gs hs) (hi : Issues s i .execute x) (ht : Taken s i .execute x (s.takeStream i .execute x) y)
    (hprog : x.prog .execute = none) (he : exec c s = commit s (tensor i .execute plan s))
    (hplan : plan y (s.takeStream i .execute x) = .inr p)
    (heff : ∀ t r, r = p.compute (gs.map (fun g => s.elemsOf i (x.named g))) t →
      (placeDsts i y .execute p.dsts r.1 r.2).1 = effect t)
    (hkeep : ∀ t y, State.strand t i.key = some y → ∃ z, (effect t).strand i.key = some z) :
    Completes c s i x effect := by
  obtain ⟨z, hz⟩ := hkeep ((s.takeStream i .execute x).setStrand i.key y) y (State.strand_setStrand _ _ _)
  refine ⟨y, z, ht, hz, ?_⟩
  have hread := readSrcs_named (u := (s.takeStream i .execute x).setStrand i.key y) ht
    ((State.setStrand_units _ _ _).trans ht.units) ((State.setStrand_mem _ _ _).trans ht.mem)
    ((State.setStrand_bus _ _ _).trans ht.bus) hp.read 0 p.srcs hp.srcs
  rw [tensor_of_plan hi ht hplan, runPlan_place i p y _ ((ht.prog _).trans hprog) (hp.spanHalt ht) (hp.descs ht) _ _ hread _ z
    (heff _ _ rfl).symm hz] at he
  exact he

end

/-! ### Results placed in the scratchpad -/

section
variable {s t u : State} {i : Sid} {x y : Strand}

/-- Results for named descriptors are put there, in order. -/
theorem placeDsts_named (ht : Taken s i .execute x t y) {o : Opd} {g : BitVec 6} (ho : o.sel = selOf g) (hg : g.toNat < 32)
    (r : List Opd) (v : List Nat) (l : List (List Nat)) :
    (placeDsts i y .execute (o :: r) (v :: l) u).1 = (placeDsts i y .execute r l (u.putElems i (x.named g) v)).1 := by
  rw [placeDsts, ho, descAt_named ht hg]
  rfl

theorem placeDsts_nil : (placeDsts i y .execute [] [] u).1 = u := rfl

end

/-! ### The plans of XCOPY and VCVT between descriptors -/

section
variable {s t : State} {i : Sid} {f : TF} {x y : Strand}

/-- The sizes of an elementwise instruction into a descriptor are the descriptor's (R461). -/
theorem elemSizes_desc {d a : Desc} (h : broadcasts a.sizes d.sizes = true) : elemSizes (some d) [some a] = some d.sizes := by
  unfold elemSizes
  simp [h]

theorem xcopyPlan_named {d a : Desc} (ht : Taken s i .execute x t y) (hsel : selReserved f = false)
    (hfmt : fmtReserved f.fmtB = false) (hshape : f.shape.toNat ≤ 2) (hd : d = x.named f.od) (ha : a = x.named f.oa)
    (hod : x.operandOk f.od 8 true) (hoa : x.operandOk f.oa 8 false) (hw : d.esize = a.esize)
    (hb : broadcasts a.sizes d.sizes = true) :
    ∃ p, xcopyPlan .execute f y t = .inr p ∧ p.align = 8 ∧ p.srcs.map (·.sel) = [selOf f.oa] ∧
      p.dsts.map (·.sel) = [selOf f.od] ∧ ∀ l t, p.compute l t = (l.map (spread a.sizes d.sizes), t) := by
  refine ⟨⟨[⟨selOf f.oa, a.width, a.sizes⟩], [⟨selOf f.od, d.width, d.sizes⟩], 8, fun n => [allCome d.elems n],
    fun l t => (l.map (spread a.sizes d.sizes), t)⟩, ?_, rfl, rfl, rfl, fun _ _ => rfl⟩
  unfold xcopyPlan
  rw [descAt_named ht hod.1, descAt_named ht hoa.1, selBad_ok ht hod, selBad_ok ht hoa, hsel, hfmt, ← hd, ← ha,
    firstHalt_none (by simp [reserved, hshape])]
  simp [hw, hb]

/-- The checks of VCVT that every kind passes (R81, R121, R135). -/
theorem cvtPlan_kind (ht : Taken s i .execute x t y) (hr : tfReserved f true = false) (hod : x.operandOk f.od 8 true)
    (hoa : x.operandOk f.oa 8 false) (hfd : (x.named f.od).esize = fmtEsize f.fmtD.toNat)
    (hfa : (x.named f.oa).esize = fmtEsize f.fmtA.toNat) {quant : Bool}
    (hq : quant = (decide (f.fmtA.toNat < 2) && decide (2 ≤ f.fmtD.toNat) && decide (f.fmtD.toNat ≤ 6)))
    (hblocked : f.sblk ≠ 0 → y.selBad .execute quant (selOf f.ob) = none ∧
      (quant = true ∨ f.fmtD.toNat < 2 ∧ 2 ≤ f.fmtA.toNat ∧ f.fmtA.toNat ≤ 6)) :
    cvtPlan i .execute f y t =
      if f.sblk = 0 then cvtPlain i .execute f y else if quant then cvtQuant i .execute f y else cvtDequant i .execute f y := by
  unfold cvtPlan
  dsimp only
  rw [← hq, descAt_named ht hod.1, descAt_named ht hoa.1, selBad_ok ht hod, selBad_ok ht hoa, hr, fmtAgrees_some hfd,
    fmtAgrees_some hfa]
  by_cases h0 : f.sblk = 0
  · rw [firstHalt_none (by simp [reserved, need, h0])]
    simp [h0]
  · obtain ⟨hscale, hkind⟩ := hblocked h0
    rcases hkind with hk | ⟨hfmtD, hlo, hhi⟩
    · rw [hk] at hscale ⊢
      rw [firstHalt_none (by simp [reserved, need, hscale])]
      simp
    · rw [firstHalt_none (by simp [reserved, need, hscale, hfmtD, hlo, hhi])]
      simp

/-- The sizes of an operand named by a descriptor are the descriptor's. -/
theorem sizes_getD (a : Desc) (l : List Nat) : ((some a).map (·.sizes)).getD l = a.sizes := rfl

/-- A plain VCVT's plan between descriptors (R121). -/
theorem cvtPlain_named {d a : Desc} (hD : y.descAt .execute (selOf f.od) = some d) (hA : y.descAt .execute (selOf f.oa) = some a)
    (hb : broadcasts a.sizes d.sizes = true) : ∃ p, cvtPlain i .execute f y = .inr p ∧ p.align = 8 ∧
      p.srcs.map (·.sel) = [selOf f.oa] ∧ p.dsts.map (·.sel) = [selOf f.od] ∧
      ∀ u t r, r = convertAll f.fmtD.toNat f.rnd.toNat f.sat (tfSeed f) y.tiles
          ((spread a.sizes d.sizes u).map (decodeNum f.fmtA.toNat)) →
        p.compute [u] t = ([r.map (·.bits)], t.countElems i r) := by
  unfold cvtPlain
  dsimp only
  rw [hD, hA, elemSizes_desc hb]
  exact ⟨_, rfl, rfl, rfl, rfl, fun u t r hr => hr ▸ rfl⟩

/-- A quantising VCVT's plan between descriptors (R134, R135). -/
theorem cvtQuant_named {d a b : Desc} (hD : y.descAt .execute (selOf f.od) = some d) (hA : y.descAt .execute (selOf f.oa) = some a)
    (hB : y.descAt .execute (selOf f.ob) = some b) (hb : broadcasts a.sizes d.sizes = true) (hbe : b.esize = 2)
    (hbs : b.sizes = scaleSizes (blockLen f.sblk.toNat) d.sizes) (hbr : b.repeats = false) :
    ∃ p, cvtQuant i .execute f y = .inr p ∧ p.align = 8 ∧ p.srcs.map (·.sel) = [selOf f.oa] ∧
      p.dsts.map (·.sel) = [selOf f.od, selOf f.ob] ∧
      ∀ u t v q r, v = (spread a.sizes d.sizes u).map (decodeNum f.fmtA.toNat) →
        q = ((rowsOf (d.size 0) ((v.zip (List.range v.length)).map (fun e => (e.1, srBits (tfSeed f) y.tiles e.2)))).flatMap
          (rowsOf (blockLen f.sblk.toNat))).map (quantBlock f.fmtD.toNat f.sfmt f.rnd.toNat f.sat) → r = q.flatMap (·.2) →
        p.compute [u] t = ([r.map (·.bits), q.map (·.1)], t.countElems i r) := by
  unfold cvtQuant
  dsimp only
  rw [hD, hA, hB, elemSizes_desc hb]
  dsimp only
  rw [if_neg (by simp [hbe, hbs, hbr])]
  exact ⟨_, rfl, rfl, rfl, rfl, fun u t v q r hv hq hr => by subst hr hq hv; rfl⟩

/-- A dequantising VCVT's plan between descriptors (R133, R135). -/
theorem cvtDequant_named {d a b : Desc} (hD : y.descAt .execute (selOf f.od) = some d)
    (hA : y.descAt .execute (selOf f.oa) = some a) (hB : y.descAt .execute (selOf f.ob) = some b)
    (hb : broadcasts a.sizes d.sizes = true) (hbe : b.esize = 2) (hbs : b.sizes = scaleSizes (blockLen f.sblk.toNat) a.sizes)
    (h0 : a.size 0 = d.size 0) :
    ∃ p, cvtDequant i .execute f y = .inr p ∧ p.align = 8 ∧ p.srcs.map (·.sel) = [selOf f.oa, selOf f.ob] ∧
      p.dsts.map (·.sel) = [selOf f.od] ∧
      ∀ u w t n per sc v r, n = a.size 0 → per = ceilDiv n (blockLen f.sblk.toNat) → sc = w.map (decodeScale f.sfmt) →
        v = ((u.map (decodeNum f.fmtA.toNat)).zip (List.range u.length)).map (fun e =>
          e.1.mul (sc.getD (e.2 / n * per + e.2 % n / blockLen f.sblk.toNat) .nan)) →
        r = convertAll f.fmtD.toNat f.rnd.toNat f.sat (tfSeed f) y.tiles
          ((spread a.sizes d.sizes (List.range v.length)).map (fun k => v.getD k .nan)) →
        p.compute [u, w] t = ([r.map (·.bits)], t.countElems i r) := by
  have h0' : (a.sizes.getD 0 1 != d.sizes.getD 0 1) = false := bne_eq_false_iff_eq.mpr h0
  unfold cvtDequant
  dsimp only
  rw [hD, hA, hB, elemSizes_desc hb]
  dsimp only
  rw [sizes_getD, h0', if_neg (by simp [hbe, hbs])]
  refine ⟨_, rfl, rfl, rfl, rfl, fun u w t n per sc v r hn hper hsc hv hr => ?_⟩
  subst hr hv hsc hper hn
  simp only [List.getD_cons_zero, List.getD_cons_succ, List.length_map]
  rfl

end

end Sys2Proof.Machine
end

section
/-!
PROOFS. XCOPY and VCVT between descriptors (R86, R113, R121, R134, R135).
-/

namespace Sys2Proof.Machine

section
variable {s : State} {i : Sid} {f : TF} {x : Strand} {d a : Desc}

theorem xcopy_completes (hi : Issues s i .execute x) (hprog : x.prog .execute = none) (hsel : selReserved f = false)
    (hfmt : fmtReserved f.fmtB = false) (hshape : f.shape.toNat ≤ 2) (hd : d = x.named f.od) (ha : a = x.named f.oa)
    (hod : x.operandOk f.od 8 true) (hoa : x.operandOk f.oa 8 false) (hsound : s.sourceSound i a)
    (hmeet : spansMeet d.span a.span = false) (hw : d.esize = a.esize) (hb : broadcasts a.sizes d.sizes = true) :
    Completes (.xcopy i .execute f) s i x (fun t => t.putElems i d (spread a.sizes d.sizes (s.elemsOf i a))) := by
  obtain ⟨y, ht⟩ := s.takeStream_taken i .execute x
  obtain ⟨p, hplan, hal, hsrcs, hdsts, hcompute⟩ := xcopyPlan_named ht hsel hfmt hshape hd ha hod hoa hw hb
  subst hd ha
  have hready : PlanReady s i x p 8 [f.oa] [f.od] := ⟨hal, hsrcs, hdsts, by simpa using ⟨hoa, hsound⟩, by simpa using hod,
    by simpa using hmeet⟩
  refine hready.completes hi ht hprog rfl hplan ?_ (fun t z hz => ⟨z, by rw [putElems_strand, hz]⟩)
  rintro t _ rfl
  obtain ⟨o, ho, hsel⟩ := List.map_eq_singleton_iff.mp hdsts
  rw [hcompute, ho, List.map_singleton, List.map_singleton, placeDsts_named ht hsel hod.1]
  rfl

/-- What every kind of VCVT between descriptors asks of its operands (R81, R82). -/
structure CvtReady (s : State) (i : Sid) (f : TF) (x : Strand) : Prop where
  fields : tfReserved f true = false
  od : x.operandOk f.od 8 true
  oa : x.operandOk f.oa 8 false
  sound : s.sourceSound i (x.named f.oa)
  apart : spansMeet (x.named f.od).span (x.named f.oa).span = false
  fmtD : (x.named f.od).esize = fmtEsize f.fmtD.toNat
  fmtA : (x.named f.oa).esize = fmtEsize f.fmtA.toNat
  broadcasts : broadcasts (x.named f.oa).sizes (x.named f.od).sizes = true

variable (hc : CvtReady s i f x) (hi : Issues s i .execute x) (hprog : x.prog .execute = none)
include hc hi hprog

/-- R121: without scales each element is converted to fmt_d once. -/
theorem vcvt_plain_completes {r : List Elem} (h0 : f.sblk = 0)
    (hr : r = convertAll f.fmtD.toNat f.rnd.toNat f.sat (tfSeed f) x.tiles
      ((spread (x.named f.oa).sizes (x.named f.od).sizes (s.elemsOf i (x.named f.oa))).map (decodeNum f.fmtA.toNat))) :
    Completes (.vcvt i .execute f) s i x (fun t => (t.countElems i r).putElems i (x.named f.od) (r.map (·.bits))) := by
  obtain ⟨y, ht⟩ := s.takeStream_taken i .execute x
  obtain ⟨p, hp, hal, hsrcs, hdsts, hcompute⟩ :=
    cvtPlain_named (i := i) (descAt_named ht hc.od.1) (descAt_named ht hc.oa.1) hc.broadcasts
  have hplan : cvtPlan i .execute f y (s.takeStream i .execute x) = .inr p := by
    rw [cvtPlan_kind ht hc.fields hc.od hc.oa hc.fmtD hc.fmtA rfl (absurd h0), if_pos h0, hp]
  have hready : PlanReady s i x p 8 [f.oa] [f.od] := ⟨hal, hsrcs, hdsts, by simpa using ⟨hc.oa, hc.sound⟩, by simpa using hc.od,
    by simpa using hc.apart⟩
  refine hready.completes hi ht hprog rfl hplan ?_ (fun t z hz => ⟨z, by rw [putElems_strand, countElems_strand, hz]⟩)
  rintro t _ rfl
  rw [List.map_singleton, hcompute _ t r (by rw [ht.tiles, hr])]
  obtain ⟨o, ho, hsel⟩ := List.map_eq_singleton_iff.mp hdsts
  rw [ho, placeDsts_named ht hsel hc.od.1]
  rfl

/-- R134, R135: quantising, od takes the values of blocks along dimension 0 and ob their scales. -/
theorem vcvt_quant_completes {v : List Num} {q : List (Nat × List Elem)} {r : List Elem} (h0 : f.sblk ≠ 0)
    (hfmtA : f.fmtA.toNat < 2) (hlo : 2 ≤ f.fmtD.toNat) (hhi : f.fmtD.toNat ≤ 6) (hob : x.operandOk f.ob 8 true)
    (hmeet : spansMeet (x.named f.ob).span (x.named f.oa).span = false) (hbe : (x.named f.ob).esize = 2)
    (hbs : (x.named f.ob).sizes = scaleSizes (blockLen f.sblk.toNat) (x.named f.od).sizes)
    (hv : v = (spread (x.named f.oa).sizes (x.named f.od).sizes (s.elemsOf i (x.named f.oa))).map (decodeNum f.fmtA.toNat))
    (hq : q = ((rowsOf ((x.named f.od).size 0) ((v.zip (List.range v.length)).map (fun e =>
        (e.1, srBits (tfSeed f) x.tiles e.2)))).flatMap (rowsOf (blockLen f.sblk.toNat))).map
      (quantBlock f.fmtD.toNat f.sfmt f.rnd.toNat f.sat)) (hr : r = q.flatMap (·.2)) :
    Completes (.vcvt i .execute f) s i x
      (fun t => ((t.countElems i r).putElems i (x.named f.od) (r.map (·.bits))).putElems i (x.named f.ob) (q.map (·.1))) := by
  obtain ⟨y, ht⟩ := s.takeStream_taken i .execute x
  have ⟨_, _, _, hrep, _⟩ := hob
  obtain ⟨p, hp, hal, hsrcs, hdsts, hcompute⟩ := cvtQuant_named (i := i) (descAt_named ht hc.od.1) (descAt_named ht hc.oa.1)
    (descAt_named ht hob.1) hc.broadcasts hbe hbs (hrep rfl)
  have hplan : cvtPlan i .execute f y (s.takeStream i .execute x) = .inr p := by
    rw [cvtPlan_kind (quant := true) ht hc.fields hc.od hc.oa hc.fmtD hc.fmtA (by simp [hfmtA, hlo, hhi])
      (fun _ => ⟨selBad_ok ht hob, .inl rfl⟩), if_neg h0, if_pos rfl, hp]
  have hready : PlanReady s i x p 8 [f.oa] [f.od, f.ob] := ⟨hal, hsrcs, hdsts, by simpa using ⟨hc.oa, hc.sound⟩,
    by simpa using ⟨hc.od, hob⟩, by simpa using ⟨hc.apart, hmeet⟩⟩
  refine hready.completes hi ht hprog rfl hplan ?_
    (fun t z hz => ⟨z, by rw [putElems_strand, putElems_strand, countElems_strand, hz]⟩)
  rintro t _ rfl
  rw [List.map_singleton, hcompute _ t v q r hv (by rw [ht.tiles, hq]) hr]
  obtain ⟨o, l, ho, hsel, hrest⟩ := List.map_eq_cons_iff.mp hdsts
  obtain ⟨o', rfl, hsel'⟩ := List.map_eq_singleton_iff.mp hrest
  rw [ho, placeDsts_named ht hsel hc.od.1, placeDsts_named ht hsel' hob.1]
  rfl

/-- R133, R135: dequantising, each element is multiplied by its block's scale from ob and converted to fmt_d. -/
theorem vcvt_dequant_completes {n per : Nat} {sc v : List Num} {r : List Elem} (h0 : f.sblk ≠ 0)
    (hfmtD : f.fmtD.toNat < 2) (hlo : 2 ≤ f.fmtA.toNat) (hhi : f.fmtA.toNat ≤ 6) (hob : x.operandOk f.ob 8 false)
    (hsound : s.sourceSound i (x.named f.ob)) (hmeet : spansMeet (x.named f.od).span (x.named f.ob).span = false)
    (hbe : (x.named f.ob).esize = 2)
    (hbs : (x.named f.ob).sizes = scaleSizes (blockLen f.sblk.toNat) (x.named f.oa).sizes)
    (hsize : (x.named f.oa).size 0 = (x.named f.od).size 0) (hn : n = (x.named f.oa).size 0)
    (hper : per = ceilDiv n (blockLen f.sblk.toNat)) (hsc : sc = (s.elemsOf i (x.named f.ob)).map (decodeScale f.sfmt))
    (hv : v = (((s.elemsOf i (x.named f.oa)).map (decodeNum f.fmtA.toNat)).zip
      (List.range (s.elemsOf i (x.named f.oa)).length)).map (fun e =>
        e.1.mul (sc.getD (e.2 / n * per + e.2 % n / blockLen f.sblk.toNat) .nan)))
    (hr : r = convertAll f.fmtD.toNat f.rnd.toNat f.sat (tfSeed f) x.tiles
      ((spread (x.named f.oa).sizes (x.named f.od).sizes (List.range v.length)).map (fun k => v.getD k .nan))) :
    Completes (.vcvt i .execute f) s i x (fun t => (t.countElems i r).putElems i (x.named f.od) (r.map (·.bits))) := by
  obtain ⟨y, ht⟩ := s.takeStream_taken i .execute x
  obtain ⟨p, hp, hal, hsrcs, hdsts, hcompute⟩ := cvtDequant_named (i := i) (descAt_named ht hc.od.1) (descAt_named ht hc.oa.1)
    (descAt_named ht hob.1) hc.broadcasts hbe hbs hsize
  have hplan : cvtPlan i .execute f y (s.takeStream i .execute x) = .inr p := by
    rw [cvtPlan_kind (quant := false) ht hc.fields hc.od hc.oa hc.fmtD hc.fmtA (by simp [Nat.not_lt.mpr hlo])
      (fun _ => ⟨selBad_ok ht hob, .inr ⟨hfmtD, hlo, hhi⟩⟩), if_neg h0, if_neg Bool.false_ne_true, hp]
  have hready : PlanReady s i x p 8 [f.oa, f.ob] [f.od] := ⟨hal, hsrcs, hdsts, by simpa using ⟨⟨hc.oa, hc.sound⟩, hob, hsound⟩,
    by simpa using hc.od, by simpa using ⟨hc.apart, hmeet⟩⟩
  refine hready.completes hi ht hprog rfl hplan ?_ (fun t z hz => ⟨z, by rw [putElems_strand, countElems_strand, hz]⟩)
  rintro t _ rfl
  rw [List.map_cons, List.map_singleton, hcompute _ _ t n per sc v r hn hper hsc hv (by rw [ht.tiles, hr])]
  obtain ⟨o, ho, hsel⟩ := List.map_eq_singleton_iff.mp hdsts
  rw [ho, placeDsts_named ht hsel hc.od.1]
  rfl

end

end Sys2Proof.Machine

namespace Sys2Proof

open Machine

/-- Settles O59: each instruction's operands are descriptors in order, so its plan completes with what it computes. -/
theorem conversionsAndCopiesComplete : Obligations.ConversionsAndCopiesComplete := by
  unfold Obligations.ConversionsAndCopiesComplete
  constructor
  · intro s i f x d a hi hprog hsel hfmt hshape hd ha hod hoa hsound hmeet hw hb
    exact xcopy_completes hi hprog hsel hfmt hshape hd ha hod hoa hsound hmeet hw hb
  · rintro s i f x _ _ _ _ _ hi hprog hr rfl rfl rfl hod hoa hsound hmeet hfd hfa hb rfl rfl
    have hc : CvtReady s i f x := ⟨hr, hod, hoa, hsound, hmeet, hfd, hfa, hb⟩
    exact ⟨fun _ h0 hr => vcvt_plain_completes hc hi hprog h0 hr,
      fun _ _ _ h0 hA hlo hhi hob hm he hs hv hq hr => vcvt_quant_completes hc hi hprog h0 hA hlo hhi hob hm he hs hv hq hr,
      fun _ _ _ _ _ h0 hD hlo hhi hob hso hm he hs hz hn hper hsc hv hr =>
        vcvt_dequant_completes hc hi hprog h0 hD hlo hhi hob hso hm he hs hz hn hper hsc hv hr⟩

end Sys2Proof
end

section
/-!
PROOFS. MLOAD and MMA from descriptors complete (R86, R87, R102 to R110, R125).
-/

namespace Sys2Proof.Machine

section
variable {s t : State} {i : Sid} {f : TF} {x y : Strand}

/-- What an MLOAD leaves (R87, R106, R125): the array is the strand's, its block is loaded, the busy cycles are counted. -/
def mloaded (i : Sid) (f : TF) (x : Strand) (k n : Nat) (u w : List Nat) (t : State) : State :=
  let v := t.ownArray i x f.shape.toNat
  let c := ceilDiv (ceilDiv (k * n * fmtBits f.fmtA.toNat) 8 + w.length) 256 + 8 +
    (if (t.core i.die i.core).arrShape = f.shape.toNat then 0 else 64)
  let m := v.bump (v.corePage i.die i.core) 0x040 64 c
  match m.strand i.key with
  | some y => m.setStrand i.key { y with shadow := some ⟨f.shape.toNat, f.fmtA.toNat, f.sblk.toNat, f.sfmt, k, n, u, w⟩ }
  | none => m

/-- An MLOAD keeps its strand's context. -/
theorem mloaded_strand (k n : Nat) (u w : List Nat) (h : t.strand i.key = some y) :
    ∃ z, (mloaded i f x k n u w t).strand i.key = some z := by
  unfold mloaded
  dsimp only
  rw [bump_strand, ownArray_strand, h]
  exact ⟨_, State.strand_setStrand _ _ _⟩

/-- The array is the same strand's before and after its stream is taken. -/
theorem mloaded_taken (ht : Taken s i .execute x t y) (k n : Nat) (u w : List Nat) :
    mloaded i f y k n u w = mloaded i f x k n u w := by
  funext z
  unfold mloaded
  simp only [ownArray_who ht]

/-- The block that MLOAD's operands describe is one that the array can hold (R103, R106, R107). -/
structure BlockFits (f : TF) (a : Desc) : Prop where
  fields : tfReserved f true = false
  cls : (arrayClass f.fmtA.toNat).isSome = true
  fmt : a.esize = fmtEsize f.fmtA.toNat
  scales : scalesOk f.fmtA.toNat f.sblk.toNat = true
  dims : a.ndim ≤ 2
  cols : a.size 0 ≤ shapeN f.shape.toNat
  rows : a.size 1 ≤ shapeK f.shape.toNat

/-- MLOAD's plan without scales. -/
theorem mloadPlan_plain (ht : Taken s i .execute x t y) (hf : BlockFits f (x.named f.oa)) (hoa : x.operandOk f.oa 32 false)
    (h0 : f.sblk = 0) :
    ∃ p, mloadPlan i .execute f y t = .inr p ∧ p.align = 32 ∧ p.srcs.map (·.sel) = [selOf f.oa] ∧ p.dsts = [] ∧
      ∀ u z, p.compute [u] z = ([], mloaded i f x ((x.named f.oa).size 1) ((x.named f.oa).size 0) u [] z) := by
  obtain ⟨hr, hcls, hfmt, hsc, hdims, hcols, hrows⟩ := hf
  unfold mloadPlan
  dsimp only
  rw [descAt_named ht hoa.1, selBad_ok ht hoa, hr, hcls, fmtAgrees_some hfmt, hsc,
    firstHalt_none (by simp [reserved, need, h0, hdims, hcols, hrows])]
  refine ⟨_, rfl, rfl, by simp [h0], rfl, fun u z => ?_⟩
  rw [← mloaded_taken ht]
  unfold mloaded
  simp only [sizes_getD, Desc.size, List.getD_cons_zero, List.getD_cons_succ, List.getD_nil]
  generalize State.strand (State.bump _ _ _ _ _) i.key = o
  cases o <;> rfl

/-- MLOAD's plan with scales. -/
theorem mloadPlan_scaled (ht : Taken s i .execute x t y) (hf : BlockFits f (x.named f.oa)) (hoa : x.operandOk f.oa 32 false)
    (h0 : f.sblk ≠ 0) (hob : x.operandOk f.ob 32 false) (hbe : (x.named f.ob).esize = 2)
    (hbs : (x.named f.ob).sizes = [(x.named f.oa).size 0, ceilDiv ((x.named f.oa).size 1) (blockLen f.sblk.toNat), 1, 1]) :
    ∃ p, mloadPlan i .execute f y t = .inr p ∧ p.align = 32 ∧ p.srcs.map (·.sel) = [selOf f.oa, selOf f.ob] ∧ p.dsts = [] ∧
      ∀ u w z, p.compute [u, w] z = ([], mloaded i f x ((x.named f.oa).size 1) ((x.named f.oa).size 0) u w z) := by
  obtain ⟨hr, hcls, hfmt, hsc, hdims, hcols, hrows⟩ := hf
  have hscale : need ((x.named f.ob).esize == 2 && (x.named f.ob).sizes ==
      [(x.named f.oa).sizes.getD 0 1, ceilDiv ((x.named f.oa).sizes.getD 1 1) (blockLen f.sblk.toNat), 1, 1]) = none := by
    rw [hbe, hbs]
    simp [need, Desc.size]
  unfold mloadPlan
  dsimp only
  rw [descAt_named ht hoa.1, descAt_named ht hob.1, selBad_ok ht hoa, selBad_ok ht hob, hr, hcls, fmtAgrees_some hfmt, hsc,
    firstHalt_none (by
      simp only [sizes_getD, Option.isSome_some, if_true, beq_eq_false_iff_ne.mpr h0, Bool.false_or, hscale]
      simp [reserved, need, hdims, hcols, hrows])]
  refine ⟨_, rfl, rfl, by rw [beq_eq_false_iff_ne.mpr h0]; rfl, rfl, fun u w z => ?_⟩
  rw [← mloaded_taken ht]
  unfold mloaded
  simp only [sizes_getD, Desc.size, List.getD_cons_zero, List.getD_cons_succ]
  generalize State.strand (State.bump _ _ _ _ _) i.key = o
  cases o <;> rfl

/-- R87: MLOAD from descriptors completes, whether its block has scales or not. -/
theorem mload_completes {w : List Nat} (hi : Issues s i .execute x) (hprog : x.prog .execute = none)
    (hf : BlockFits f (x.named f.oa)) (hoa : x.operandOk f.oa 32 false) (hsound : s.sourceSound i (x.named f.oa))
    (hplain : f.sblk = 0 → w = [])
    (hscaled : f.sblk ≠ 0 → x.operandOk f.ob 32 false ∧ s.sourceSound i (x.named f.ob) ∧ (x.named f.ob).esize = 2 ∧
      (x.named f.ob).sizes = [(x.named f.oa).size 0, ceilDiv ((x.named f.oa).size 1) (blockLen f.sblk.toNat), 1, 1] ∧
      w = s.elemsOf i (x.named f.ob)) :
    Completes (.mload i .execute f) s i x
      (mloaded i f x ((x.named f.oa).size 1) ((x.named f.oa).size 0) (s.elemsOf i (x.named f.oa)) w) := by
  obtain ⟨y, ht⟩ := s.takeStream_taken i .execute x
  by_cases h0 : f.sblk = 0
  · obtain ⟨p, hplan, hal, hsrcs, hdsts, hcompute⟩ := mloadPlan_plain ht hf hoa h0
    have hready : PlanReady s i x p 32 [f.oa] [] := ⟨hal, hsrcs, by rw [hdsts]; rfl, by simpa using ⟨hoa, hsound⟩, nofun, nofun⟩
    refine hready.completes hi ht hprog rfl hplan ?_ (fun t z hz => mloaded_strand _ _ _ _ hz)
    rintro t _ rfl
    rw [List.map_singleton, hcompute, hdsts, hplain h0]
    rfl
  · obtain ⟨hob, hsoundB, hbe, hbs, rfl⟩ := hscaled h0
    obtain ⟨p, hplan, hal, hsrcs, hdsts, hcompute⟩ := mloadPlan_scaled ht hf hoa h0 hob hbe hbs
    have hready : PlanReady s i x p 32 [f.oa, f.ob] [] := ⟨hal, hsrcs, by rw [hdsts]; rfl,
      by simpa using ⟨⟨hoa, hsound⟩, hob, hsoundB⟩, nofun, nofun⟩
    refine hready.completes hi ht hprog rfl hplan ?_ (fun t z hz => mloaded_strand _ _ _ _ hz)
    rintro t _ rfl
    rw [List.map_cons, List.map_singleton, hcompute, hdsts]
    rfl

/-- An MMA whose plan is known completes (R87, R110). -/
theorem MmaPlan.completes {blk : Block} {r : List Elem} {gs : List (BitVec 6)} (hi : Issues s i .execute x)
    (hprog : x.prog .execute = none) (hplan : ∀ y, Taken s i .execute x (s.takeStream i .execute x) y →
      MmaPlan s i f x blk r gs (s.takeStream i .execute x) y) (hod : x.operandOk f.od 32 true)
    (hread : ∀ g ∈ gs, x.operandOk g 32 false ∧ s.sourceSound i (x.named g))
    (hmeet : ∀ g ∈ gs, spansMeet (x.named f.od).span (x.named g).span = false) :
    Completes (.mma i .execute f) s i x
      (fun t => (mmaCount i f x blk (x.named f.od) r t).putElems i (x.named f.od) (r.map (·.bits))) := by
  obtain ⟨y, ht⟩ := s.takeStream_taken i .execute x
  obtain ⟨p, hp, hsrcs, hdsts, hal, hcompute⟩ := hplan y ht
  have hready : PlanReady s i x p 32 gs [f.od] := ⟨hal, hsrcs, hdsts, hread, by simpa using hod, by simpa using hmeet⟩
  refine hready.completes hi ht hprog rfl hp ?_ (fun t z hz => ⟨z, by rw [putElems_strand, mmaCount_strand, hz]⟩)
  rintro t _ rfl
  obtain ⟨o, ho, hsel⟩ := List.map_eq_singleton_iff.mp hdsts
  rw [hcompute, ho, placeDsts_named ht hsel hod.1]
  rfl

end

end Sys2Proof.Machine

namespace Sys2Proof

open Machine

/-- Settles O60: the operands are descriptors in order, so MLOAD's and MMA's plans complete with what they compute, by
whether there are scales and whether oc is named. -/
theorem arrayCompletes : Obligations.ArrayCompletes := by
  unfold Obligations.ArrayCompletes
  constructor
  · rintro s i f x _ _ _ _ _ _ w hi hprog hr rfl rfl hoa hsound rfl rfl rfl hcls hfmt hsc hdims hcols hrows rfl hplain hscaled
    exact mload_completes hi hprog ⟨hr, hcls, hfmt, hsc, hdims, hcols, hrows⟩ hoa hsound hplain hscaled
  · rintro s i f x _ _ _ _ blk _ _ w acc r hi hprog hr hblk rfl rfl rfl rfl hod hoa hsound hmeet rfl hd0 ha0 har hshape hpair
      hsc hres hfd hfa rfl hplain hscaled hnoC hwithC rfl
    have hres' : (if (blk.fmt == 7) = true then f.fmtD == 8 else decide (f.fmtD.toNat < 2)) = true := by
      simpa [apply_ite] using hres
    show Completes _ s i x (fun t => (mmaCount i f x blk (x.named f.od) _ t).putElems i (x.named f.od) _)
    rcases eq_or_ne f.sblk 0 with h0 | h0 <;> rcases eq_or_ne (selOf f.oc) .none with hC | hC
    case inl.inl =>
      obtain rfl := hplain h0
      obtain rfl := hnoC hC
      exact MmaPlan.completes hi hprog
        (fun y ht => mma_00 ht hr hblk hod hoa hd0 ha0 har hshape hpair hsc hres' hfd hfa h0 hC rfl) hod
        (by simpa using ⟨hoa, hsound⟩) (by simpa using hmeet)
    case inl.inr =>
      obtain rfl := hplain h0
      obtain ⟨hoc, hsoundC, hmeetC, hresC, hce, hc0, hcr, rfl⟩ := hwithC hC
      exact MmaPlan.completes hi hprog
        (fun y ht => mma_01 ht hr hblk hod hoa hd0 ha0 har hshape hpair hsc hres' hfd hfa h0 hC hoc
          (by simpa [apply_ite] using hresC) hce hc0 hcr rfl) hod
        (by simpa using ⟨⟨hoa, hsound⟩, hoc, hsoundC⟩) (by simpa using ⟨hmeet, hmeetC⟩)
    case inr.inl =>
      obtain ⟨hob, hsoundB, hmeetB, hbe, hb0, halong, hbr, rfl⟩ := hscaled h0
      obtain rfl := hnoC hC
      exact MmaPlan.completes hi hprog
        (fun y ht => mma_10 ht hr hblk hod hoa hd0 ha0 har hshape hpair hsc hres' hfd hfa h0 hob hbe hb0
          (beq_iff_eq.mpr halong) hbr hC rfl) hod
        (by simpa using ⟨⟨hoa, hsound⟩, hob, hsoundB⟩) (by simpa using ⟨hmeet, hmeetB⟩)
    case inr.inr =>
      obtain ⟨hob, hsoundB, hmeetB, hbe, hb0, halong, hbr, rfl⟩ := hscaled h0
      obtain ⟨hoc, hsoundC, hmeetC, hresC, hce, hc0, hcr, rfl⟩ := hwithC hC
      exact MmaPlan.completes hi hprog
        (fun y ht => mma_11 ht hr hblk hod hoa hd0 ha0 har hshape hpair hsc hres' hfd hfa h0 hob hbe hb0
          (beq_iff_eq.mpr halong) hbr hC hoc (by simpa [apply_ite] using hresC) hce hc0 hcr rfl) hod
        (by simpa using ⟨⟨hoa, hsound⟩, ⟨hob, hsoundB⟩, hoc, hsoundC⟩) (by simpa using ⟨hmeet, hmeetB, hmeetC⟩)

end Sys2Proof
end

section
/-!
PROOFS. Launches: a ring's tail, the check of its next descriptor, the start and end of a launch, and the invalidation of
translations (R46 to R53, R58, R65, R66, R361).
-/

namespace Sys2Proof.Machine

/-- R34: a register write whose domain runs does what its block makes of it. -/
theorem does_of_crossed {c : Instr} {s t : State} {who : Who} {off n : Nat} {v : Word} {k : State → Written}
    (he : exec c s = commit s (crossed who off n v k s)) (hz : s.regSleeps off = none) (ht : (k s).1 = t) : Does c s t := by
  show exec c s = commit s t
  rw [he, crossed_awake hz, ht]

/-! ### A ring's tail -/

section
variable {s : State} {who : Who} {d : Die} {r v : Nat}

/-- R50 to R52: what the write of a ring's tail by its partition does. -/
theorem writeRingTail_owner (hw : who.root = true ∨ who.part = some (r / 4)) :
    (writeRingTail who d r v s).1 =
      if s.ringRuns d r = false then s
      else if (v % 65536 + 65536 - s.ringTail d r) % 65536 ≤
          (2 ^ s.ringLog2 d r + 65536 - (s.ringTail d r + 65536 - s.ringHead d r) % 65536) % 65536 then
        s.setFld (ringBase d r + 0x14) 0 16 v
      else ((s.setFlag (ringBase d r + 0x0C) 1 true).raise (schedPage d) 0x0202 (some (r / 4)) v r false false).stopRing d r := by
  have howner : ¬ (!(who.root || who.part == some (ringPart r))) = true := by
    rcases hw with h | h <;> simp [ringPart, h]
  unfold writeRingTail
  rw [if_neg howner]
  cases s.ringRuns d r
  case false => rfl
  case true =>
    rw [Bool.not_true, if_neg Bool.false_ne_true, if_neg (by decide : ¬ true = false)]
    dsimp only
    split <;> rfl

theorem ringTailWrite_does {t : State} (hr : r < 64) (hz : s.regSleeps (schedPage d + 0x100 + r * 0x20 + 0x14) = none)
    (ht : (writeRingTail who d r v s).1 = t) : Does (.schedRingTailWrite who d r v) s t := by
  show execSchedRingTailWrite who d r v s = commit s t
  unfold execSchedRingTailWrite
  rw [if_neg (Nat.not_le.mpr hr), crossed_awake hz, ht]

end

/-! ### The next descriptor of a ring -/

section
variable {s : State} {d : Die} {r : Nat}

theorem State.judgeLaunch_of_killed {l : Launch} : s.judgeLaunch l true = s.abortLaunch l 3 := if_pos rfl

theorem State.judgeLaunch_of_ok {l : Launch} (h : s.launchOk l = true) : s.judgeLaunch l false = s.preemptFor l := by
  unfold State.judgeLaunch
  rw [if_neg Bool.false_ne_true, h, Bool.not_true, if_neg Bool.false_ne_true]

/-- R47: a descriptor that lies where nothing can be read is passed over. -/
theorem descriptorCheck_does_skip (hm : s.mayRead d r = true) (hd : s.descReadable (s.descPa d r) = false) :
    Does (.launchDescriptorCheck d r) s (s.unreadLaunch d r (s.ringNext d r) (s.descPa d r)) := by
  show execLaunchDescriptorCheck d r s = commit s _
  unfold execLaunchDescriptorCheck
  rw [if_neg (by simp [hm]), if_pos (by simp [hd])]

/-- R47: a descriptor whose words cannot be corrected is passed over. -/
theorem descriptorCheck_does_skip_bad (hm : s.mayRead d r = true) (hd : s.descReadable (s.descPa d r) = true) {t : State} {n : Nat}
    (h : (s.countStack (ringPart r) (s.descPa d r) 128).demand (askedBy (schedPage d) 0x12) (some (ringPart r)) (s.descPa d r) 128 =
      (t, some n)) : Does (.launchDescriptorCheck d r) s (t.unreadLaunch d r (s.ringNext d r) (s.descPa d r)) := by
  show execLaunchDescriptorCheck d r s = commit s _
  unfold execLaunchDescriptorCheck
  rw [if_neg (by simp [hm]), if_neg (by simp [hd]), h]

/-- R47: a launch whose done counter is unusable completes with status 4. -/
theorem descriptorCheck_does_unusable (hm : s.mayRead d r = true) (hd : s.descReadable (s.descPa d r) = true) {t u : State}
    {m : Launch} {va c : Nat}
    (h : (s.countStack (ringPart r) (s.descPa d r) 128).demand (askedBy (schedPage d) 0x12) (some (ringPart r)) (s.descPa d r) 128 =
      (t, none)) (hlaunch : m = launchOf d r (s.ringNext d r) (s.descPa d r) (t.bytes (s.descPa d r) 128) t)
    (hva : va = leAt (t.bytes (s.descPa d r) 128) 0x30 8) (hdone : (t.undoom m.key).doneAt d m.part va = (u, .inl c)) :
    Does (.launchDescriptorCheck d r) s ((u.addLaunch m).unusable m va c 1) := by
  show execLaunchDescriptorCheck d r s = commit s _
  unfold execLaunchDescriptorCheck
  rw [if_neg (by simp [hm]), if_neg (by simp [hd]), h]
  dsimp only
  rw [← hlaunch, ← hva, hdone]

end

/-! ### A launch starts -/

section
variable {s t : State} {d : Die} {r idx : Nat} {l : Launch}

/-- Copies that none of the cores holds are not all there. -/
theorem copies_absent {cs : List (Die × Nat)} {f : Die × Nat → Option Image} (h : ∀ c ∈ cs, f c = none) (hne : cs ≠ []) :
    (cs.map f).all (·.isSome) = false := by
  obtain ⟨c, l, rfl⟩ := List.exists_cons_of_ne_nil hne
  simp [h c]

/-- R46 step 3: a launch that has all it needs starts its strands. -/
theorem launchResourced_does_start (hl : s.launches.find? (fun x => x.key == launchKey d r idx) = some l)
    (hturn : s.launchTurn l = true) (hcores : s.coresOk l.part l.coreMask = true)
    (hheld : s.imageHeld d l.part l.kernelVa l.imageLen = false) {b : List Byte}
    (hread : imageRead d l.part (granules l.kernelVa l.imageLen) s = (t, .inr b))
    (hcopy : ∀ c ∈ selCores l.coreMask, t.copyOn c.1 c.2 l.part l.kernelVa = none) (hsel : selCores l.coreMask ≠ [])
    {img : Image} {mask a e : Nat} (himg : img = ⟨l.part, l.kernelVa, l.imageLen, sparseBytes b, [], []⟩)
    (hhead : headerOf l.imageLen img.field = some (mask, a, e)) (hqueues : l.perCore * (bitList mask 8).length ≤ 8)
    (hroom : ∀ c ∈ selCores l.coreMask, t.coreRoom l c.1 c.2 (bitList mask 8).length = true) {u v : State}
    (hu : u = ((List.range (selCores l.coreMask).length).zip (selCores l.coreMask)).foldl
      (fun (w : State) c => w.startOn l img mask a e (c.1 * l.perCore) c.2) t)
    (hv : v = (u.setLaunch { l with stage := .started, seq := u.parkSeq + 1 }).unask l.key) :
    Does (.launchResourced d r idx) s ((selCores l.coreMask).foldl (fun (w : State) c => w.restatCore c.1 c.2)
      { v with parkSeq := v.parkSeq + 1 }) := by
  have hcopies := copies_absent hcopy hsel
  have hrooms : ((selCores l.coreMask).all fun c => t.coreRoom l c.1 c.2 (bitList mask 8).length) = true :=
    List.all_eq_true.mpr hroom
  subst himg hu hv
  show execLaunchResourced d r idx s = commit s _
  unfold execLaunchResourced
  rw [hl]
  simp only [hturn, hcores, hheld, hread, hcopies, hhead, hrooms, Nat.not_lt.mpr hqueues, Bool.not_true, Bool.false_eq_true,
    if_false]

end

/-! ### A launch ends -/

section
variable {s : State} {d : Die} {r idx : Nat} {l : Launch} (hl : s.launches.find? (fun x => x.key == launchKey d r idx) = some l)
include hl

/-- R46: a launch with no strand left completes. -/
theorem launchComplete_does_finish (hstage : l.stage = .started ∨ l.stage = .ending) (hidle : s.launchBusy l.key = false) :
    Does (.launchComplete d r idx) s (s.finishLaunch l (l.result.getD (0, 0)).1 (l.result.getD (0, 0)).2).quileyNote := by
  show execLaunchComplete d r idx s = commit s _
  have hgo : ¬ ((l.stage ≠ .started ∧ l.stage ≠ .ending) ∨ s.launchBusy l.key = true) := by
    rw [hidle]
    rcases hstage with h | h <;> simp [h]
  unfold execLaunchComplete State.launchComplete
  rw [hl]
  simp only [if_neg hgo]

/-- R48, R361: a deadline's passing is noted, and recorded as abandoned 1,000 ms later. -/
theorem deadlinePass_does (hdl : l.deadline ≠ 0) (hstage : l.stage ≠ .done) (hdone : l.missDone = false) :
    Does (.launchDeadlinePass d r idx) s
      (if l.missed = false then (s.carry (l.deadline / 1000 * 1000)).noteLate d l
       else (s.carry (l.deadline / 1000 * 1000 + 1000000000)).abandonLate d l) := by
  show execLaunchDeadlinePass d r idx s = commit s _
  unfold execLaunchDeadlinePass
  rw [hl]
  cases hm : l.missed <;> simp only [hdl, hstage, hdone, hm, or_self, Bool.not_true, Bool.not_false, Bool.false_eq_true,
    if_true, if_false, Bool.true_eq_false]

/-- R53: a kill of a launch not yet done, by partition 0. -/
theorem writeLaunchKill_found {who : Who} {v : Word} (hw : who.root = true) (hr : bits v.toNat 0 6 = r)
    (hidx : bits v.toNat 16 16 = idx) (hstage : l.stage ≠ .done) :
    (writeLaunchKill who d v s).1 = if l.stage = .checked then s.abortLaunch l 3
      else (s.decideLaunch (launchKey d r idx) 3 0).killStrands (fun _ x => x.launch == launchKey d r idx) := by
  subst hr hidx
  unfold writeLaunchKill
  rw [rootOnly_ok hw]
  simp only [hl, if_neg hstage]
  split <;> rfl

end

/-- R53: a kill of a descriptor not yet read is remembered. -/
theorem writeLaunchKill_unread {s : State} {who : Who} {d : Die} {r idx : Nat} {v : Word}
    (hl : s.launches.find? (fun x => x.key == launchKey d r idx) = none) (hw : who.root = true) (hr : bits v.toNat 0 6 = r)
    (hidx : bits v.toNat 16 16 = idx) (hnew : s.doomed.contains (launchKey d r idx) = false)
    (hin : (idx + 65536 - s.ringNext d r) % 65536 < (s.ringTail d r + 65536 - s.ringNext d r) % 65536) :
    (writeLaunchKill who d v s).1 = { s with doomed := s.doomed ++ [launchKey d r idx] } := by
  subst hr hidx
  unfold writeLaunchKill
  rw [rootOnly_ok hw]
  simp only [hl, hnew, hin, decide_true, Bool.not_false, Bool.and_self, if_true]
  rfl

/-! ### Translations are invalidated -/

section
variable {s : State} {who : Who} {d : Die} {v : Word} {n : Nat}

theorem tlbInval_does {t : State} (hn : n < 2) (hz : s.regSleeps (schedPage d + 0x990 + 8 * n) = none)
    (ht : (writeTlbInval who d n v s).1 = t) : Does (.schedTlbInval who d n v) s t := by
  show execSchedTlbInval who d n v s = commit s t
  unfold execSchedTlbInval
  rw [if_neg (by omega), crossed_awake hz, ht]

/-- R438: a word of an invalidation that partition 0 writes; the go bit of word 1 puts it in order. -/
theorem writeTlbInval_root (hw : who.root = true) :
    (writeTlbInval who d n v s).1 =
      let s1 := s.setReg (schedPage d + 0x990 + 8 * n) (tlbWord n v)
      if n = 1 ∧ bit v.toNat 0 = true then { s1 with inval := s1.inval ++ [⟨s1.reg (schedPage d + 0x990), v⟩] } else s1 := by
  unfold writeTlbInval
  rw [hw, Bool.not_true, if_neg Bool.false_ne_true]
  dsimp only
  split <;> rfl

theorem writeTlbInval_other (hw : who.root = false) :
    (writeTlbInval who d n v s).1 = s.raise (schedPage d) 0x0203 who.part v.toNat n false false := by
  unfold writeTlbInval
  rw [hw]
  rfl

end

end Sys2Proof.Machine

namespace Sys2Proof

open Machine

/-- Settles O22: the write crosses to a running domain, and the tail's rule is the statement's case split. -/
theorem ringTails : Obligations.RingTails := by
  unfold Obligations.RingTails
  intro s who d r v hr hw hz
  refine ⟨fun hstop => ?_, fun hrun hfree => ?_, fun hrun hover => ?_⟩ <;>
    refine ringTailWrite_does hr hz ?_ <;> rw [writeRingTail_owner hw]
  · rw [if_pos hstop]
  · rw [if_neg (Bool.not_eq_false _ ▸ hrun), if_pos hfree]
  · rw [if_neg (Bool.not_eq_false _ ▸ hrun), if_neg (Nat.not_le.mpr hover)]

/-- Settles O23: what is read is judged; what cannot be read is passed over; an unusable counter is found before. -/
theorem descriptorChecks : Obligations.DescriptorChecks := by
  unfold Obligations.DescriptorChecks
  intro s d r
  refine ⟨fun u l hreads => ?_, fun hm hd => descriptorCheck_does_skip hm hd, fun hm hd =>
    ⟨fun t n h => descriptorCheck_does_skip_bad hm hd h, fun t m u va c h hlaunch hva hdone =>
      descriptorCheck_does_unusable hm hd h hlaunch hva hdone⟩⟩
  refine ⟨fun hlive hok => ?_, fun hlive hbad => launchDescriptorCheck_does_reject hreads hlive hbad, fun hdoom => ?_⟩ <;>
    obtain ⟨hexec, -, -, -⟩ := reads_judged hreads
  · rw [hlive, State.judgeLaunch_of_ok hok] at hexec
    exact hexec
  · rw [hdoom, State.judgeLaunch_of_killed] at hexec
    exact hexec

/-- Settles O24: each way a launch goes on is one branch of its command, which the hypotheses pick. -/
theorem launchStartsAndEnds : Obligations.LaunchStartsAndEnds := by
  unfold Obligations.LaunchStartsAndEnds
  constructor
  · intro s d r idx l hl hturn hcores hheld t b hread hcopy hsel img mask a e himg hhead hqueues hroom u v hu hv
    exact launchResourced_does_start hl hturn hcores hheld hread hcopy hsel himg hhead hqueues hroom hu hv
  · intro s d r idx
    refine ⟨fun l hl => ⟨fun hstage hidle => launchComplete_does_finish hl hstage hidle, fun hdl hstage hdone => ?_,
      fun who v hw hz hr hidx => ⟨fun hstage => ?_, fun hstage => ?_⟩⟩, fun hl who v hw hz hr hidx hnew hin => ?_⟩
    · have hdoes := deadlinePass_does hl hdl hstage hdone
      exact ⟨fun hm => by rwa [if_pos hm] at hdoes, fun hm => by rwa [if_neg (by simp [hm])] at hdoes⟩
    · exact does_of_crossed rfl hz (by rw [writeLaunchKill_found hl hw hr hidx (by simp [hstage]), if_pos hstage])
    · refine does_of_crossed rfl hz ?_
      rw [writeLaunchKill_found hl hw hr hidx (by rcases hstage with h | h <;> simp [h]),
        if_neg (by rcases hstage with h | h <;> simp [h])]
    · exact does_of_crossed rfl hz (writeLaunchKill_unread hl hw hr hidx hnew hin)

/-- Settles O25: the words and the go bit are `writeTlbInval`'s cases; the end drops the leaves of the first in order. -/
theorem translationInvalidation : Obligations.TranslationInvalidation := by
  unfold Obligations.TranslationInvalidation
  intro s who d v hz
  refine ⟨fun hw => ⟨?_, fun hgo s1 hs1 => ?_, fun hstay => ?_⟩, fun hw => ?_, fun x r hinval => ?_⟩
  · refine tlbInval_does (by decide) (hz 0 (by decide)) ?_
    rw [writeTlbInval_root hw]
    exact if_neg (by simp)
  · subst hs1
    refine tlbInval_does (by decide) (hz 1 (by decide)) ?_
    rw [writeTlbInval_root hw]
    exact if_pos ⟨rfl, hgo⟩
  · refine tlbInval_does (by decide) (hz 1 (by decide)) ?_
    rw [writeTlbInval_root hw]
    exact if_neg (by simp [hstay])
  · exact tlbInval_does (by decide) (hz 0 (by decide)) (writeTlbInval_other hw)
  · refine ⟨({ s with inval := r } : State).dropTlb (bits x.word0.toNat 0 4) (bit x.word0.toNat 4)
      (bits x.word0.toNat 16 42 * 0x10000) (bits x.word1.toNat 16 42 * 0x10000 + 0xFFFF), ?_, rfl, fun e => ?_, rfl⟩
    · show execTlbInvalDone s = _
      unfold execTlbInvalDone
      rw [hinval]
      rfl
    · unfold State.dropTlb
      simp only [List.mem_filter, Bool.not_eq_true', Bool.and_eq_false_iff, Bool.or_eq_false_iff, beq_eq_false_iff_ne,
        decide_eq_false_iff_not, not_and_or, not_or, ne_eq, Bool.not_eq_true]

end Sys2Proof
end

section
/-!
PROOFS. Partitions' configuration, multicasts, the sharing of a core, and parking (R93, R94, R117 to R120, R341 to R353).
-/

namespace Sys2Proof.Machine

/-! ### Partitions -/

section
variable {s : State} {who : Who} {d : Die} {p : Nat} {x : State → Bool} {f : State → State} (hw : who.root = true)
include hw

/-- R343: a configuration that is allowed is applied. -/
theorem judgePart_allowed (hl : s.locked (schedPage d) = false) (hok : (f s).partsOk = true) (hx : x (f s) = true) :
    (judgePart who d p x f s).1 = (s.reassign p f).setFlag (schedPage d + 0x904) 0 false := by
  unfold judgePart
  rw [rootRwl_ok hw hl]
  exact if_neg (by simp [hok, hx])

/-- R343: a configuration that is not allowed is refused whole. -/
theorem judgePart_refused (hl : s.locked (schedPage d) = false) (hbad : (f s).partsOk = false ∨ x (f s) = false) :
    (judgePart who d p x f s).1 = s.setFlag (schedPage d + 0x904) 0 true := by
  unfold judgePart
  rw [rootRwl_ok hw hl]
  exact if_pos (by rcases hbad with h | h <;> simp [h])

/-- R432: a locked page ignores a configuration. -/
theorem judgePart_locked (hl : s.locked (schedPage d) = true) :
    (judgePart who d p x f s).1 = s.setFlag (schedPage d + 0x0C) 2 true := rootRwl_no hw hl

end

/-- R341, R343: the three configuration registers of a partition and what a write of each is judged by. -/
theorem partCfgWrite_does {s t : State} {who : Who} {d : Die} {p v o : Nat} {f : State → State} {x : State → Bool} (hp : p < 16)
    (hz : s.regSleeps (schedPage d + (0xC00 + p * 0x40 + o)) = none)
    (hmem : (o, f, x) ∈ [
        (0, fun (t : State) => t.applyPartCfg p (w64 v).toNat, s.mayEnable p (w64 v).toNat),
        (4, fun t => t.applyPartRes d p (w64 v).toNat, fun _ => true), (8, fun t => t.applyPartCores d p 0 3 v, fun _ => true)])
    (ht : (judgePart who d p x f s).1 = t) : Does (.schedPartCfgWrite who d (0xC00 + p * 0x40 + o) v) s t := by
  show execSchedPartCfgWrite who d (0xC00 + p * 0x40 + o) v s = commit s t
  simp only [List.mem_cons, Prod.mk.injEq, List.not_mem_nil, or_false] at hmem
  rw [← ht]
  rcases hmem with ⟨rfl, rfl, rfl⟩ | ⟨rfl, rfl, rfl⟩ | ⟨rfl, rfl, rfl⟩
  · exact partCfg_cfg (by omega) (by omega) (by omega) hz
  · exact partCfg_res (by omega) (by omega) (by omega) hz
  · exact partCfg_cores (by omega) (by omega) (by omega) hz

/-- R120: an allotment of multicast memory is refused whole above 16 units. -/
theorem writeMcastAllot_unlocked {s : State} {who : Who} {d : Die} {v : Word} (hw : who.root = true)
    (hl : s.locked (schedPage d) = false) :
    (writeMcastAllot who d v s).1 = if 16 < nibbleSum v.toNat then s.setFlag (schedPage d + 0xB10) 6 true
      else ((s.setReg (schedPage d + 0xB08) v).setFlag (schedPage d + 0xB10) 6 false).noteUnmodelled none := rootRwl_ok hw hl

/-! ### Multicasts -/

section
variable {s t : State} {d : Die} {n : Nat} {e : McastEntry} {b : List Byte}
  (he : s.mcast.find? (fun x => x.id == n && x.die == d && !x.freed) = some e) (hb : e.data = some b)
include he hb

section
variable {i : Sid} {x : Strand} {m : Inflight} {q w : Nat} (hx : s.strand i.key = some x)
  (hm : x.inflight.find? (fun y => y.mcast == some n) = some m) (hdest : m.dest = .queue q w)
  (hpad : x.padBehind m.id = false) (hact : x.active = true) (hserved : e.served.contains i.key = false)
include hx hm hdest hpad hact hserved

/-- R263: a member whose unit's words are bad halts. -/
theorem mcastDeliver_does_halt (hbad : e.bad = true) :
    Does (.mcastDeliver d n i) s
      ((s.raise (schedPage d) 0x0301 (some x.part) (gaLocal e.ga) 1 false false).haltStrand i 0x08 (m.runs.map (·.va)).headI) := by
  show execMcastDeliver d n i s = commit s _
  unfold execMcastDeliver
  rw [he, hx]
  dsimp only
  rw [hb, hm]
  dsimp only
  rw [hdest]
  dsimp only
  rw [if_neg (by simp only [hact, hserved, hpad, Bool.not_true, Bool.or_self, Bool.false_eq_true, not_false_eq_true]), if_pos hbad]

/-- R118: a member receives the entry's data in its queue and is served. -/
theorem mcastDeliver_does_serve (hrest : m.rest = none) (hgood : e.bad = false)
    (hpush : s.pushLoad i m q ((toEntries b).drop m.byteOff) = (t, true)) :
    Does (.mcastDeliver d n i) s
      ((if e.fetcher = i.key then t else t.bump (t.corePage i.die i.core) 0x058 32 1).setMcast (e.served1 i.key)) := by
  show execMcastDeliver d n i s = commit s _
  unfold execMcastDeliver
  rw [he, hx]
  dsimp only
  rw [hb, hm]
  dsimp only
  rw [hdest]
  dsimp only
  rw [if_neg (by simp only [hact, hserved, hpad, Bool.not_true, Bool.or_self, Bool.false_eq_true, not_false_eq_true]),
    if_neg (by simp only [hgood, Bool.false_eq_true, not_false_eq_true]), hrest, Option.getD_none, hpush]

end

/-- R118: hold_us after the fetch the entry is freed. -/
theorem mcastHoldExpiry_does_free :
    Does (.mcastHoldExpiry d n) s ((e.left.foldl (fun (v : State) k => v.leaveMcast n k)
      (s.carry (e.fetchedAt + s.fld (schedPage d + 0xB00) 0 7 * 1000))).setMcast e.free) := by
  show execMcastHoldExpiry d n s = commit s _
  unfold execMcastHoldExpiry
  rw [he]
  dsimp only
  rw [hb, if_neg (by simp)]

end

/-! ### A core's turn -/

section
variable {s : State} {d : Die} {c p q : Nat} (hp : s.holderOf d c = some p) (hq : s.nextHolder d c p = some q)
include hp hq

/-- R350, R351: a turn that is over asks the holder away. -/
theorem turnEnd_does_ask (h : s.turnOver d c = false) :
    Does (.turnEnd d c) s ((s.carry ((s.core d c).turnStart + s.turnNs d c p)).askTurn d c p) := by
  show execTurnEnd d c s = commit s _
  unfold execTurnEnd
  rw [hp]
  dsimp only
  rw [h, hq, if_neg (by simp)]

/-- R350: a holder with nothing to run is asked away 5 µs after it last had something. -/
theorem turnIdleExpiry_does_ask (h : s.turnOver d c = false) {t : Nat} (hidle : s.idleFrom d c p = some t) :
    Does (.turnIdleExpiry d c) s ((s.carry (t + 5000)).askTurn d c p) := by
  show execTurnIdleExpiry d c s = commit s _
  unfold execTurnIdleExpiry
  rw [hp]
  dsimp only
  rw [hidle]
  dsimp only
  rw [h, hq, if_neg (by simp)]

/-- R351: once the holder's strands have parked, the next partition holds the core. -/
theorem turnSwitch_does_handOver (h : s.turnOver d c = true) (hleft : s.coreLeft d c p = true) :
    Does (.turnSwitch d c) s ((s.handOver d c p q).reseat d c ((s.core d c).parkedOf q)) := by
  have hturn : s.nextTurn d c = some (p, q) := by
    unfold State.nextTurn
    rw [hp, Option.bind_some, hq]
    rfl
  show execTurnSwitch d c s = commit s _
  unfold execTurnSwitch
  rw [hturn]
  dsimp only
  rw [h, hleft, if_neg (by simp)]

end

/-- A maximum over a list is at least its start and each of its members. -/
theorem foldl_max_ge {α : Type} (g : α → Nat) (l : List α) (m : Nat) :
    m ≤ l.foldl (fun k e => Nat.max k (g e)) m ∧ ∀ e ∈ l, g e ≤ l.foldl (fun k e => Nat.max k (g e)) m := by
  induction l generalizing m with
  | nil => exact ⟨le_refl _, nofun⟩
  | cons a r ih =>
    obtain ⟨hstart, hmem⟩ := ih (Nat.max m (g a))
    refine ⟨(Nat.le_max_left _ _).trans hstart, fun e he => ?_⟩
    rcases List.mem_cons.mp he with rfl | he
    · exact (Nat.le_max_right _ _).trans hstart
    · exact hmem e he

/-- R350: a holder with no strand Ready or Running has had none since a time after the turn's start and each strand's last
run. -/
theorem State.idleFrom_some {s : State} {d : Die} {c p : Nat}
    (h : ∀ e ∈ s.resident d c, e.2.part = p → e.2.stat ≠ .ready ∧ e.2.stat ≠ .running) :
    ∃ t, s.idleFrom d c p = some t ∧ (s.core d c).turnStart ≤ t ∧ ∀ e ∈ s.resident d c, e.2.part = p → e.2.lastRun ≤ t := by
  have hnone : ((s.resident d c).filter (fun e => e.2.part == p)).any
      (fun e => e.2.stat == .ready || e.2.stat == .running) = false := by
    simp only [List.any_eq_false, List.mem_filter, beq_iff_eq, Bool.or_eq_true, not_or]
    exact fun e he => h e he.1 he.2
  obtain ⟨hstart, hmem⟩ := foldl_max_ge (fun e : Nat × Strand => e.2.lastRun)
    ((s.resident d c).filter (fun e => e.2.part == p)) (Nat.max (s.core d c).turnStart (s.core d c).leftAt)
  refine ⟨_, if_neg (by simp [hnone]), (Nat.le_max_left _ _).trans hstart, fun e he hpart => hmem e ?_⟩
  exact List.mem_filter.mpr ⟨he, beq_iff_eq.mpr hpart⟩

/-- R351: a core handed over is the next holder's. -/
theorem State.core_handOver (s : State) (d : Die) (c p q : Nat) :
    (s.handOver d c p q).core d c = ((((s.chargeTurn d c p).exchangeSpad d c p q).core d c).handTo q s.now) := by
  unfold State.handOver
  dsimp only
  rw [State.core_setCore]

/-! ### Parking -/

section
variable {s : State} {i : Sid} {x : Strand}

/-- R93, R94: a strand asked to park at a kill point, with nothing in flight that is never killed, parks. -/
theorem killPointPark_does (hx : s.strand i.key = some x) (hact : x.active = true) (hask : x.parkAsked = true)
    (hkill : x.atKillPoint = true) (hfly : ∀ m ∈ x.inflight, m.kind.stays = false) :
    Does (.killPointPark i) s ((s.killLoads i x).vacate i (x.parkedForm (s.killLoads i x) i.die)) := by
  have hnone : x.inflight.any (fun m => m.kind.stays) = false := by simpa using hfly
  show execKillPointPark i s = commit s _
  unfold execKillPointPark
  rw [hx]
  dsimp only
  rw [hact, hask, hkill, hnone, if_neg (by simp)]

/-- A strand that parks leaves its context. -/
theorem State.vacate_strand (t : State) (i : Sid) (z : Strand) : (t.vacate i z).strand i.key = none := by
  unfold State.vacate
  refine restat_none _ _ _ _ ?_
  rw [State.dropHolds_strand]
  show mget none (mdel t.strands i.key) i.key = none
  exact mget_mdel_self _ _ _

/-- R353: a parked strand whose context and queues are free comes back. -/
theorem strandResume_does
    (hx : (s.core i.die i.core).parked.find? (fun e => e.1 == i.ctx && e.2.part == x.part) = some (i.ctx, x))
    (hmay : s.mayResume i.die i.core i.ctx x = true) :
    Does (.strandResume i x.part) s ((s.resume i.die i.core i.ctx x).preemptAll i.die i.core) := by
  show execStrandResume i x.part s = commit s _
  unfold execStrandResume
  rw [hx]
  dsimp only
  rw [if_pos hmay]

end

end Sys2Proof.Machine

namespace Sys2Proof

open Machine

/-- Settles O26: each write is judged by `judgePart` or by the sum bound, before or after which the lock stands. -/
theorem partitionWrites : Obligations.PartitionWrites := by
  unfold Obligations.PartitionWrites
  intro s who d p v hw hp hz hzm
  refine ⟨fun o f x hmem => ?_, fun hl hsum => ?_, fun hl hsum => ?_, fun hl => ?_⟩
  · have ho : o ≤ 8 := by
      simp only [List.mem_cons, Prod.mk.injEq, List.not_mem_nil, or_false] at hmem
      omega
    have hz' : s.regSleeps (schedPage d + (0xC00 + p * 0x40 + o)) = none := by
      rw [Nat.add_assoc 0xC00]
      exact hz _ (by omega)
    exact ⟨fun hl hok hx => partCfgWrite_does hp hz' hmem (judgePart_allowed hw hl hok hx),
      fun hl hbad => partCfgWrite_does hp hz' hmem (judgePart_refused hw hl hbad),
      fun hl => partCfgWrite_does hp hz' hmem (judgePart_locked hw hl)⟩
  · exact does_of_crossed rfl hzm ((writeMcastAllot_unlocked hw hl).trans (if_neg (Nat.not_lt.mpr hsum)))
  · exact does_of_crossed rfl hzm ((writeMcastAllot_unlocked hw hl).trans (if_pos hsum))
  · exact does_of_crossed rfl hzm (rootRwl_no hw hl)

/-- Settles O27: the entry is found with its data, and its member's load with it; the unit's words decide. -/
theorem multicasts : Obligations.Multicasts := by
  unfold Obligations.Multicasts
  intro s d n e he
  refine ⟨fun i x b m q w hx hb hm hdest hrest hpad hact hserved => ⟨fun hbad => ?_, fun t hgood hpush => ?_⟩, fun b hb => ?_⟩
  · exact mcastDeliver_does_halt he hb hx hm hdest hpad hact hserved hbad
  · exact mcastDeliver_does_serve he hb hx hm hdest hpad hact hserved hrest hgood hpush
  · exact mcastHoldExpiry_does_free he hb

/-- Settles O28: the turn's commands by their guards, the hand-over by the core it leaves, and parking by what the parked form
keeps. -/
theorem coreTurnsAndParking : Obligations.CoreTurnsAndParking := by
  unfold Obligations.CoreTurnsAndParking
  refine ⟨fun s d c p q hp hq => ⟨turnEnd_does_ask hp hq, fun h hrun => ?_, turnSwitch_does_handOver hp hq, ?_, ?_, ?_⟩,
    fun s i x => ⟨fun hx hact hask hkill hfly z t hz ht => ?_, strandResume_does⟩⟩
  · obtain ⟨t, hidle, hstart, hlast⟩ := State.idleFrom_some hrun
    exact ⟨t, hstart, hlast, turnIdleExpiry_does_ask hp hq h hidle⟩
  · rw [State.core_handOver]; rfl
  · rw [State.core_handOver]; rfl
  · rw [State.core_handOver]; rfl
  · obtain ⟨hstat, hscal, hdesc, hqueues, hapc, hepc, hshadow, htiles, horder⟩ := parkedForm_regs x (s.killLoads i x) i.die
    obtain ⟨hwaitA, hwaitE, hsavedE, hsavedA⟩ := parkedForm_waits x (s.killLoads i x) i.die
    subst hz ht
    refine ⟨killPointPark_does hx hact hask hkill hfly, State.vacate_strand _ _ _, hstat, hscal, hdesc, hqueues, hapc, hepc,
      hshadow, htiles, hwaitA, hwaitE, hsavedE, hsavedA, horder, ?_⟩
    unfold State.vacate
    rw [restat_parkSeq, State.dropHolds_parkSeq, unseat_parkSeq]

end Sys2Proof
end

section
/-!
PROOFS. The layout engine: the check, the slices, the end and the cancelling of its descriptors, and its queue limits (R140 to
R148).
-/

namespace Sys2Proof.Machine

section
variable {s t : State} {d : Die} {p : Nat} {x y : LayoutDesc}

/-- R140, R141: the front descriptor is checked, and one with a bad field ends with the lowest bad offset. -/
theorem layoutDescriptorCheck_does (hx : s.layFront d p = some x) (hc : x.checked = false) (hr : x.result = none)
    (hk : x.cancelled = false) :
    Does (.layoutDescriptorCheck d p) s (match (lDesc x.bytes).badFields with
      | [] => s.setLayFront d { x with checked := true, readyAt := s.now }
      | f :: r => s.setLayFront d { x with checked := true, readyAt := s.now, result := some (1, r.foldl Nat.min f, 0) }) := by
  have hopen : ¬ (x.checked || x.result.isSome || x.cancelled) = true := by simp [hc, hr, hk]
  show execLayoutDescriptorCheck d p s = commit s _
  unfold execLayoutDescriptorCheck
  rw [hx]
  dsimp only
  exact congrArg (commit s) ((if_neg hopen).trans (by cases (lDesc x.bytes).badFields <;> rfl))

/-- What a slice leaves, by how it ends: it waits, it meets an error, or it reaches a unit (R141 to R145). -/
def State.sliceLeaves (s : State) (d : Die) (p units : Nat) : LayoutDesc × State × Option LayStop → State
  | (_, _, some (.held (some e))) => s.wakeDie e
  | (_, _, some (.held none)) => s
  | (y, t, some (.status st va)) =>
    (t.raise (layoutPage d) 0x030E (some p) va st false false).laySliced d p { y with result := some (st, 0, w64 va) }
  | (y, t, none) => t.laySliced d p (if units ≤ y.pos then { y with result := some (0, 0, 0) } else y)

theorem layoutSlice_does (hn : s.layNext d = some p) (hx : s.layFront d p = some x) :
    Does (.layoutSlice d) s (s.sliceLeaves d p (lDesc x.bytes).units (laySlice d p x s)) := by
  show execLayoutSlice d s = commit s _
  unfold execLayoutSlice
  rw [hn]
  dsimp only
  rw [hx]
  dsimp only
  match laySlice d p x s with
  | (_, _, none) => rfl
  | (_, _, some (.status _ _)) => rfl
  | (_, _, some (.held none)) => rfl
  | (_, _, some (.held (some _))) => rfl

/-- R141, R147: a descriptor that has ended, or is cancelled, completes. -/
theorem layoutComplete_does {st f : Nat} {a : Word} (hx : s.layEnded d p = some x)
    (hr : x.result = some (st, f, a) ∨ (x.result = none ∧ x.cancelled = true ∧ st = 5 ∧ f = 0 ∧ a = 0)) :
    Does (.layoutComplete d p) s (s.layFinish d x st f a).quileyNote := by
  have hout : x.outcome = some (st, f, a) := by
    unfold LayoutDesc.outcome
    rcases hr with h | ⟨h, hk, rfl, rfl, rfl⟩
    · rw [h]
    · rw [h]
      exact if_pos hk
  show execLayoutComplete d p s = commit s _
  unfold execLayoutComplete State.layComplete
  rw [hx]
  dsimp only
  rw [hout]

/-- The go bit is one bit of the word. -/
theorem bits_of_bit {v k : Nat} (h : bit v k = true) : bits v k 1 = 1 := by
  unfold bit at h
  unfold bits
  exact beq_iff_eq.mp h

/-- R147, R148: partition 0's cancel, with its go bit set. -/
theorem writeLayoutCancel_go {who : Who} {v : Word} (hw : who.root = true) (hidle : s.flag (layoutPage d + 0x104) 4 = false)
    (hgo : bit v.toNat 4 = true) (ht : t = s.setReg (layoutPage d + 0x104) (w64 (v.toNat % 64 - 16))) :
    (writeLayoutCancel who d v s).1 = (t.layCancel d (v.toNat % 16)
      (if bit v.toNat 5 then some (t.reg (layoutPage d + 0x110)).toNat else none)).layGo d := by
  subst ht
  unfold writeLayoutCancel
  rw [rootOnly_ok hw]
  dsimp only
  rw [hidle, if_neg Bool.false_ne_true, hgo, Bool.not_true, if_neg Bool.false_ne_true, bits_of_bit hgo]
  rfl

/-- R148: limits that sum to more than 64 leave the register. -/
theorem writeLayoutQlimit_unlocked {who : Who} {v : Word} (hw : who.root = true) (hl : s.locked (layoutPage d) = false) :
    (writeLayoutQlimit who d v s).1 = if who.isScc = true then s else if 64 < nibbleSum v.toNat then s
      else (s.setReg (layoutPage d + 0x108) v).noteUnmodelled none := by
  unfold writeLayoutQlimit
  split
  · rfl
  · exact rootRwl_ok hw hl

end

end Sys2Proof.Machine

namespace Sys2Proof

open Machine

/-- Settles O29: the front descriptor, the slice's end, and the registers' rules give the cases. -/
theorem layoutEngine : Obligations.LayoutEngine := by
  unfold Obligations.LayoutEngine
  intro s d p
  refine ⟨fun x hx hc hr hk => ?_, fun x y t o hn hx hs => ?_, fun x st f a hx hr => layoutComplete_does hx hr,
    fun who v hw hz hidle hgo t ht => does_of_crossed rfl hz (writeLayoutCancel_go hw hidle hgo ht), fun who v hw hz hl => ?_⟩
  · have hdoes := layoutDescriptorCheck_does hx hc hr hk
    refine ⟨fun hok => ?_, fun f r hbad => ?_⟩
    · rwa [hok] at hdoes
    · rwa [hbad] at hdoes
  · have hdoes := layoutSlice_does hn hx
    rw [hs] at hdoes
    refine ⟨?_, ?_, ?_, ?_⟩
    · rintro rfl; exact hdoes
    · rintro st va rfl; exact hdoes
    · rintro e rfl; exact hdoes
    · rintro rfl; exact hdoes
  · refine ⟨fun hscc => ?_, fun hscc hsum => ?_, fun hscc hsum => ?_⟩ <;>
      refine does_of_crossed rfl hz ((writeLayoutQlimit_unlocked hw hl).trans ?_)
    · exact if_pos hscc
    · rw [if_neg (by simp [hscc]), if_neg (Nat.not_lt.mpr hsum)]
    · rw [if_neg (by simp [hscc]), if_pos hsum]

end Sys2Proof
end

section
/-!
PROOFS. Stack commands and slices, and the control of the stacks (R153 to R187, R199).
-/

namespace Sys2Proof.Machine

/-! ### Commands are judged -/

section
variable {s : State} {n : Nat} {w : PortWrite}

/-- R162, R168, R169: the oldest admitted write is judged under its own opcode, and a reserved opcode with NOP. -/
theorem State.judge_front {o : Nat} (hw : (s.stack n).port.find? (fun x => x.admitted) = some w)
    (ho : cOpcode w.bytes = o ∨ (o = 0 ∧ 3 < cOpcode w.bytes)) :
    s.judge n o = if (s.leavePort n w).cmdOk n w = true then (s.leavePort n w).acceptCmd n w else (s.leavePort n w).refuseCmd n w := by
  have hmine : ¬ (cOpcode w.bytes ≠ o ∧ !(decide (3 < cOpcode w.bytes) && o == 0)) := by
    rcases ho with h | ⟨rfl, h⟩ <;> simp [h]
  unfold State.judge
  rw [hw]
  dsimp only
  rw [if_neg hmine]

/-- R169: a command of a reserved opcode has no form in which it could be accepted. -/
theorem State.cmdOk_reserved {t : State} (h : 3 < cOpcode w.bytes) : t.cmdOk n w = false := by
  have hhead : headerOk w.bytes = false := by
    unfold headerOk
    simp [Nat.not_le.mpr h]
  unfold State.cmdOk
  dsimp only
  rw [hhead, Bool.false_and]

/-- R162: what a stack command does where its stack is trained. -/
theorem stackCommand_trained {o : Nat} {src : CmdSource} (hn : n < 16) (ht : (s.stack n).trained = true) :
    stackCommand n o src s = match src with
      | .window => s.judge n o
      | .sccWrite p b => (s.arrivePort n ⟨p % 16, b, none, 0, 0, false⟩).judge n o := by
  unfold stackCommand
  exact (if_neg (by simp [ht, Nat.not_le.mpr hn])).trans (by cases src <;> rfl)

/-- Each of the four stack commands is a `stackCommand` of its own opcode. -/
theorem does_of_stackCommand {o : Nat} {mk : Nat → CmdSource → Instr} {src : CmdSource} {t : State}
    (hmem : (o, mk) ∈ [(0, Instr.stkNop), (1, Instr.attend), (2, Instr.gemv), (3, Instr.summarise)])
    (h : stackCommand n o src s = t) : Does (mk n src) s t := by
  subst h
  simp only [List.mem_cons, Prod.mk.injEq, List.not_mem_nil, or_false] at hmem
  rcases hmem with ⟨rfl, rfl⟩ | ⟨rfl, rfl⟩ | ⟨rfl, rfl⟩ | ⟨rfl, rfl⟩
  · show execStkNop n src s = commit s _
    rfl
  · show execAttend n src s = commit s _
    rfl
  · show execGemv n src s = commit s _
    rfl
  · show execSummarise n src s = commit s _
    rfl

/-- R162: a waiting write takes an entry that has freed. -/
theorem stkCmdQueueAdmit_does {p : Nat} (hw : (s.stack n).port.find? (fun x => x.part == p && !x.admitted) = some w)
    (hroom : s.portRoom n p = true) (hs : w.strand = none) : Does (.stkCmdQueueAdmit n p) s (s.admitPort n w) := by
  show execStkCmdQueueAdmit n p s = commit s _
  unfold execStkCmdQueueAdmit
  rw [hw]
  dsimp only
  rw [if_pos hroom, hs]
  rfl

end

/-! ### Slices -/

section
variable {s : State} {n nbu : Nat} {c : StkCmd}

/-- R156, R172: an idle NBU starts the slice of the next partition that has one ready. -/
theorem sliceStart_does {p : Nat} (hm : (s.stack n).mayStart nbu = true) (hn : (s.stack n).nextStart nbu = some p)
    (hr : (s.stack n).ready nbu p = some c) :
    Does (.sliceStart n nbu) s ((s.setStack n ((s.stack n).load nbu p c)).setCmd n (c.start nbu s.now)) := by
  show execSliceStart n nbu s = commit s _
  unfold execSliceStart
  rw [if_neg (by simp [hm]), hn]
  dsimp only
  rw [hr]

/-- R156, R170, R173: the end of a slice runs it. -/
theorem sliceEnd_does {sl : Slice} {t : State} {y : StkCmd} (hs : (s.stack n).slice nbu = some (c, sl))
    (hr : (s.idleNbu n nbu).runSlice n (c.without sl) sl = (t, y)) : Does (.sliceEnd n nbu) s (t.sliceRan n nbu y sl) := by
  show execSliceEnd n nbu s = commit s _
  unfold execSliceEnd
  rw [hs]
  dsimp only
  rw [hr]

/-- R199: the page-summary unit scores a chunk of the candidates of the partition whose turn it is. -/
theorem selectionChunk_does {p : Nat} {t u : State} {y : StkCmd} (hp : s.nextScored n = some p) (ht : t = s.takeUnit n p)
    (hc : (t.stack n).cmds.find? (fun x => x.part == p && x.needsUnit) = some c) (hu : t.scoreChunk n c = (u, y)) :
    Does (.selectionChunk n) s (u.chunkDone n y) := by
  subst ht
  show execSelectionChunk n s = commit s _
  unfold execSelectionChunk
  rw [hp]
  dsimp only
  rw [hc]
  dsimp only
  rw [hu]

/-- R180: a command whose results are visible completes; no SUMMARISE's keys are left to write. -/
theorem stkCmdComplete_does {uid : Nat} (hc : (s.stack n).cmd uid = some c) (ho : c.opcode ≠ 3 ∨ c.killed = true)
    (hm : s.mayComplete n c = true) : Does (.stkCmdComplete n uid) s (s.completeCmd n c).quileyNote := by
  have hwritten : ¬ (c.opcode = 3 ∧ (!c.killed) = true) := by
    rcases ho with h | h <;> simp [h]
  show execStkCmdComplete n uid s = commit s _
  unfold execStkCmdComplete State.stkComplete
  rw [hc]
  dsimp only
  rw [if_neg hwritten, hc]
  dsimp only
  rw [if_pos hm]

end

/-! ### Control pages: kills and the record index -/

section
variable {s : State} {n p : Nat} {who : Who} {v : Word}

/-- R161: a control page's own partition may use it, and partition 0. -/
theorem ctlAllowed_owner (hw : who.root = true ∨ who.part = some p) : ctlAllowed who p = true := by
  unfold ctlAllowed
  rcases hw with h | h <;> simp [h]

variable (hw : who.root = true ∨ who.part = some p)
include hw

/-- R182: a kill by identifier. -/
theorem writeStkKill_owner : (writeStkKill who n p v s).1 =
    ((s.stack n).cmds.filter (fun c => c.part == p && cId c.bytes == v.toNat % 2 ^ 32)).foldl (fun t c => t.killCmd n c) s := by
  unfold writeStkKill
  rw [ctlAllowed_owner hw, Bool.not_true, if_neg Bool.false_ne_true]
  rfl

/-- R182, R187: a kill of all. -/
theorem writeStkKillAll_owner : (writeStkKillAll who n p v s).1 =
    if bit v.toNat 0 = false then s else ((s.stack n).cmds.filter (fun c => c.part == p)).foldl (fun t c => t.killCmd n c) s := by
  unfold writeStkKillAll
  rw [ctlAllowed_owner hw, Bool.not_true, if_neg Bool.false_ne_true]
  cases bit v.toNat 0 <;> rfl

/-- R187: the record index moves forward only, and up to the write index. -/
theorem writeStkRecRd_owner {rd wr : Nat} (hrd : rd = s.fld (ctlPage n p + 0x1C) 0 32) (hwr : wr = s.fld (ctlPage n p + 0x18) 0 32) :
    (writeStkRecRd who n p v s).1 = if (v.toNat % 2 ^ 32 + 2 ^ 32 - rd) % 2 ^ 32 ≤ (wr + 2 ^ 32 - rd) % 2 ^ 32 then
      s.setFld (ctlPage n p + 0x1C) 0 32 (v.toNat % 2 ^ 32) else s := by
  subst hrd hwr
  unfold writeStkRecRd
  simp only [ctlAllowed_owner hw, Bool.not_true, Bool.false_eq_true, if_false, apply_ite Prod.fst]
  rfl

end

/-! ### Modes, ownership and limits -/

section
variable {s : State} {n : Nat} {who : Who} {v : Word}

/-- R160, R186: a mode write is applied, or held while a change is in progress. -/
theorem writeStkMode_unlocked (hw : who.root = true) (hl : s.locked (stackPage n) = false) (ht : (s.stack n).trained = true) :
    (writeStkMode who n v s).1 = if (s.stack n).changing = true then s.setStack n ((s.stack n).holdMode (v.toNat % 4))
      else s.applyMode n (v.toNat % 4) := by
  unfold writeStkMode
  rw [rootRwl_ok hw hl]
  exact if_neg (by simp [ht])

/-- R160: a half enters compute mode once its NBUs have been checked. -/
theorem stkModeEntryDone_does {h : Nat} {l : List Nat} (hh : h < 2) (hg : (s.stack n).going h = some true) :
    Does (.stkModeEntryDone n h l) s
      (((l.filter (fun k => k / 256 == h)).foldl (fun t k => t.nbuFails n k) s).endMode n h true).sendSteps := by
  have hgo : ¬ (1 < h ∨ (s.stack n).going h ≠ some true) := by
    simpa [hg] using Nat.le_of_lt_succ hh
  show execStkModeEntryDone n h l s = commit s _
  unfold execStkModeEntryDone
  rw [if_neg hgo]

/-- R160: a half is in memory mode once the last command that names it is gone. -/
theorem stkModeExitDone_does {h : Nat} (hh : h < 2) (hg : (s.stack n).going h = some false)
    (hc : (s.stack n).cmds.any (fun c => c.namesHalf h) = false) : Does (.stkModeExitDone n h) s (s.endMode n h false) := by
  have hgo : ¬ (1 < h ∨ (s.stack n).going h ≠ some false ∨ (s.stack n).cmds.any (fun c => c.namesHalf h) = true) := by
    simpa [hg, hc] using Nat.le_of_lt_succ hh
  show execStkModeExitDone n h s = commit s _
  unfold execStkModeExitDone
  rw [if_neg hgo]

/-- R153, R186: a populated granule is given to a partition that may own it, or made invalid. -/
theorem writeStkOwnData_populated {g : Nat} (hw : who.root = true) (hg : g = s.fld (stackPage n + 0x104) 0 16)
    (hpop : g * 2 ^ 20 < s.stackBytes) (hmay : bit v.toNat 4 = true → s.mayOwn n g (v.toNat % 16) = true) :
    (writeStkOwnData who n v s).1 = (((s.setReg (stackPage n + 0x108) (w64 (v.toNat % 32))).setStack n
      ((s.stack n).setOwn g (v.toNat % 32))).noteOwner (mget 0 (s.stack n).own g)).noteOwner (v.toNat % 32) := by
  have hallowed : ¬ (bit v.toNat 4 && !s.mayOwn n g (v.toNat % 16)) = true := by simpa using hmay
  subst hg
  unfold writeStkOwnData
  rw [rootOnly_ok hw]
  dsimp only
  rw [if_neg (Nat.not_le.mpr hpop), if_neg hallowed]
  rfl

/-- R186: limits that sum to more than 16 leave the register. -/
theorem writeStkQlimit_unlocked (hw : who.root = true) (hl : s.locked (stackPage n) = false) :
    (writeStkQlimit who n v s).1 = if 16 < nibbleSum v.toNat then s else (s.setReg (stackPage n + 0x110) v).noteUnmodelled none :=
  rootRwl_ok hw hl

end

end Sys2Proof.Machine

namespace Sys2Proof

open Machine

/-- Settles O30: each command judges the oldest admitted write of its opcode, or of a reserved one. -/
theorem stackCommands : Obligations.StackCommands := by
  unfold Obligations.StackCommands
  intro s n o mk hn ht hmem
  have hwindow : stackCommand n o .window s = s.judge n o := stackCommand_trained hn ht
  refine ⟨fun w t hw ho hleave => ?_, fun w ho hw hres => ?_, fun p b => ?_,
    fun p w hw hroom hs => stkCmdQueueAdmit_does hw hroom hs⟩
  · subst hleave
    have hjudge := hwindow.trans (State.judge_front hw (.inl ho))
    exact ⟨fun hok => does_of_stackCommand hmem (by rw [hjudge, if_pos hok]),
      fun hbad => does_of_stackCommand hmem (by rw [hjudge, if_neg (by simp [hbad])])⟩
  · have hjudge := hwindow.trans (State.judge_front hw (.inr ⟨ho, hres⟩))
    exact does_of_stackCommand hmem (by rw [hjudge, State.cmdOk_reserved hres, if_neg Bool.false_ne_true])
  · exact does_of_stackCommand hmem (stackCommand_trained hn ht)

/-- Settles O31: the slices' commands by what their NBU holds, and the control registers by their rules. -/
theorem stackSlicesAndControl : Obligations.StackSlicesAndControl := by
  unfold Obligations.StackSlicesAndControl
  constructor
  · intro s n nbu
    exact ⟨fun p c hm hn hr => sliceStart_does hm hn hr, fun c sl t y hs hr => sliceEnd_does hs hr,
      fun p t c u y hp ht hc hu => selectionChunk_does hp ht hc hu, fun c uid hc ho hm => stkCmdComplete_does hc ho hm⟩
  · intro s n who v
    refine ⟨fun p hw hz => ⟨?_, fun hgo => ?_, fun hgo => ?_, fun rd wr hrd hwr => ⟨fun hle => ?_, fun hlt => ?_⟩⟩,
      fun hw hz hl ht => ⟨fun hc => ?_, fun hc => ?_⟩, fun h l hh => ⟨stkModeEntryDone_does hh, stkModeExitDone_does hh⟩,
      fun g hw hz hg hpop hmay => does_of_crossed rfl hz (writeStkOwnData_populated hw hg hpop hmay),
      fun hw hz hl => ⟨fun hsum => ?_, fun hsum => ?_⟩, fun nbu => ?_⟩
    · exact does_of_crossed rfl (hz 0x00 (by decide)) (writeStkKill_owner hw)
    · exact does_of_crossed rfl (hz 0x08 (by decide)) ((writeStkKillAll_owner hw).trans (if_neg (by simp [hgo])))
    · exact does_of_crossed rfl (hz 0x08 (by decide)) ((writeStkKillAll_owner hw).trans (if_pos hgo))
    · exact does_of_crossed rfl (hz 0x1C (by decide)) ((writeStkRecRd_owner hw hrd hwr).trans (if_pos hle))
    · exact does_of_crossed rfl (hz 0x1C (by decide)) ((writeStkRecRd_owner hw hrd hwr).trans (if_neg (Nat.not_le.mpr hlt)))
    · exact does_of_crossed rfl hz ((writeStkMode_unlocked hw hl ht).trans (if_neg (by simp [hc])))
    · exact does_of_crossed rfl hz ((writeStkMode_unlocked hw hl ht).trans (if_pos hc))
    · exact does_of_crossed rfl hz ((writeStkQlimit_unlocked hw hl).trans (if_neg (Nat.not_lt.mpr hsum)))
    · exact does_of_crossed rfl hz ((writeStkQlimit_unlocked hw hl).trans (if_pos hsum))
    · show execNbuSelfcheckFail n nbu s = commit s _
      rfl

end Sys2Proof
end

section
/-!
PROOFS. The Basin's reservations, merges and results, and the Pool's ways (R202 to R212, R246 to R249).
-/

namespace Sys2Proof.Machine

/-! ### The Basin -/

section
variable {s : State} {d : Die}

/-- R208: the oldest waiting reservation that is not a strand's is granted once the allotment allows; one of Quiley's commands
goes with its command. -/
theorem basinReservationGrant_does {p : Nat} {w : RsvWait} (hw : (s.basin.get d).waits.find? (fun x => x.part == p) = some w)
    (hmay : s.canReserve d p w.slots = true) (hs : w.strand = none) :
    Does (.basinReservationGrant d p) s (if w.step.isSome = true then s.sendSteps else (s.dropWait d w).grantScc d w) := by
  show execBasinReservationGrant d p s = commit s _
  unfold execBasinReservationGrant
  dsimp only
  rw [hw]
  dsimp only
  rw [if_neg (by simp [hmay]), hs]

/-- R202, R206, R209: what has arrived first is merged, or discarded where its generation is stale. -/
theorem basinPartialArrival_does {a : Arrival} {l : List Arrival} (ha : (s.basin.get d).arrivals = a :: l) :
    Does (.basinPartialArrival d) s (match (s.basin.get d).group a.handle a.gen with
      | none => (s.setArrivals d l).bump (basinPage d) 0x050 32 a.parts.length
      | some g => ((s.setArrivals d l).setGroup d (g.takeIn a)).bump (basinPage d) 0x040 64 a.parts.length) := by
  show execBasinPartialArrival d s = commit s _
  unfold execBasinPartialArrival
  cases hg : (s.basin.get d).group a.handle a.gen <;> rw [ha] <;> dsimp only <;> rw [hg]

/-- R209, R210: a group whose members have all reported writes its records and is dissolved. -/
theorem basinResultWrite_does {h : Nat} {g : Group} (hg : (s.basin.get d).groups.find? (fun x => x.handle == h) = some g)
    (hb : g.broken = false) (hall : g.arrived.length = g.membersM1 + 1) (hrun : s.domainStopped g.dstDie 0 = false) :
    Does (.basinResultWrite d h) s
      (if g.bad = true then (s.slotLost d g).dissolve d g else (s.writeResults d g).dissolve d g) := by
  show execBasinResultWrite d h s = commit s _
  unfold execBasinResultWrite
  rw [hg]
  dsimp only
  rw [if_neg (by simp [hb, hall]), if_neg (by simp [hrun])]

/-- R211: the SCC's write of BASIN_RSV is a cancel or a request. -/
theorem writeBasinRsv_scc {v : Word} {x : Nat} (hx : v.toNat = x) :
    (writeBasinRsv .scc d v s).1 =
      let t := s.setReg (basinPage d + 0x110) (w64 (x % 2 ^ 52 - bits x 19 1 * 2 ^ 19))
      if bit x 41 = true then (t.setReg (basinPage d + 0x118) 1).cancelRsv d (bits x 42 10) else t.askRsv d (rsvOf x) := by
  subst hx
  rfl

/-- A word of BASIN_RSV with its cancel bit written. -/
theorem rsvWord_toNat (v : Word) (b : Nat) : (w64 (setBits v.toNat 41 1 b)).toNat = setBits v.toNat 41 1 b % 2 ^ 64 :=
  BitVec.toNat_ofNat _ _

/-- R211, R212: a request of the SCC is refused, granted, or waits. -/
theorem basinRsvRequest_does {v : Word} {x : Nat} {w : RsvWait} {t : State} (hz : s.regSleeps (basinPage d + 0x110) = none)
    (hx : x = setBits v.toNat 41 1 0 % 2 ^ 64) (hw : w = rsvOf x)
    (ht : t = s.setReg (basinPage d + 0x110) (w64 (x % 2 ^ 52 - bits x 19 1 * 2 ^ 19))) :
    Does (.basinRsvRequest .scc d v) s (t.askRsv d w) := by
  have hbit : bit x 41 = false := by rw [hx, setBits_bit _ _ v.isLt (by decide)]; rfl
  refine does_of_crossed rfl hz ?_
  rw [writeBasinRsv_scc ((rsvWord_toNat v 0).trans hx.symm), hw, ht]
  exact if_neg (by simp [hbit])

/-- R211: the SCC's cancel kills the members of its reservation and frees the slots. -/
theorem basinRsvCancel_does {v : Word} {x : Nat} {t : State} {g : Group} (hz : s.regSleeps (basinPage d + 0x110) = none)
    (hx : x = setBits v.toNat 41 1 1 % 2 ^ 64) (hg : t.sccGroup d (bits x 42 10) = some g)
    (ht : t = (s.setReg (basinPage d + 0x110) (w64 (x % 2 ^ 52 - bits x 19 1 * 2 ^ 19))).setReg (basinPage d + 0x118) 1) :
    Does (.basinRsvCancel .scc d v) s ((t.freeHandle d (bits x 42 10)).killMembers g) := by
  have hbit : bit x 41 = true := by rw [hx, setBits_bit _ _ v.isLt (by decide)]; rfl
  have hcancel : t.cancelRsv d (bits x 42 10) = (t.freeHandle d (bits x 42 10)).killMembers g := by
    unfold State.cancelRsv
    rw [hg]
  refine does_of_crossed rfl hz ?_
  rw [writeBasinRsv_scc ((rsvWord_toNat v 1).trans hx.symm), ← hcancel, ht]
  exact if_pos hbit

/-- R212: an allotment of slots is refused whole above 16 units. -/
theorem writeBasinSlotAllot_unlocked {who : Who} {v : Word} (hw : who.root = true) (hl : s.locked (basinPage d) = false) :
    (writeBasinSlotAllot who d v s).1 = if 16 < nibbleSum v.toNat then s.setFlag (basinPage d + 0x108) 13 true
      else ((s.setReg (basinPage d + 0x100) v).setFlag (basinPage d + 0x108) 13 false).noteUnmodelled none := rootRwl_ok hw hl

/-! ### The Pool -/

variable {who : Who} {v : Word} (hw : who.root = true) (hl : s.locked (poolPage d) = false)
include hw hl

/-- R246, R247: a mask of ways is refused where an exclusive way would stand in two, and ways that leave it are swept. -/
theorem writePoolWayMask_unlocked {p m : Nat} {t : State} {gone : List Nat} (hp : p < 16) (hm : m = v.toNat % 2 ^ 16)
    (ht : t = ((s.setReg (poolPage d + 0x100 + p * 4) (w64 m)).poolErr d false).noteUnmodelled (some p))
    (hgone : gone = (s.poolWays d p).filter (fun w => !bit m w)) :
    (writePoolWayMask who d p v s).1 =
      if exclusiveOk (s.fld (poolPage d + 0x140) 0 16) ((s.poolMasks d).set p m) = false then s.poolErr d true
      else if gone = [] then t else t.sweepWays d p gone := by
  subst hm ht hgone
  unfold writePoolWayMask
  rw [rootRwl_ok hw hl]
  simp only [Nat.not_lt.mpr (Nat.le_of_lt_succ hp), if_false, Bool.not_eq_true', List.isEmpty_iff]

/-- R246: the exclusive ways are refused where one of them stands in two masks. -/
theorem writePoolWayExcl_unlocked :
    (writePoolWayExcl who d v s).1 = if exclusiveOk (v.toNat % 2 ^ 16) (s.poolMasks d) = false then s.poolErr d true
      else ((s.setReg (poolPage d + 0x140) (w64 (v.toNat % 2 ^ 16))).poolErr d false).noteUnmodelled none := by
  unfold writePoolWayExcl
  rw [rootRwl_ok hw hl]
  simp only [Bool.not_eq_true']

end

end Sys2Proof.Machine

namespace Sys2Proof

open Machine

/-- Settles O32: each event of the Basin and each write to the Pool by the branch that its hypotheses pick. -/
theorem basinAndPool : Obligations.BasinAndPool := by
  unfold Obligations.BasinAndPool
  constructor
  · intro s d
    refine ⟨fun p w hw hmay hs => ?_, fun a l ha => ?_, fun h g hg hb hall hrun => ?_, fun hz v x w t hx hw ht => ?_,
      fun hz v x t g hx hg ht => basinRsvCancel_does hz hx hg ht, fun who v hw hz hl => ⟨fun hsum => ?_, fun hsum => ?_⟩⟩
    · have hdoes := basinReservationGrant_does hw hmay hs
      exact ⟨fun hstep => by rwa [if_neg (by simp [hstep])] at hdoes, fun hstep => by rwa [if_pos hstep] at hdoes⟩
    · have hdoes := basinPartialArrival_does ha
      exact ⟨fun hnone => by rwa [hnone] at hdoes, fun g hg => by rwa [hg] at hdoes⟩
    · have hdoes := basinResultWrite_does hg hb hall hrun
      exact ⟨fun hbad => by rwa [if_neg (by simp [hbad])] at hdoes, fun hbad => by rwa [if_pos hbad] at hdoes⟩
    · have hdoes := basinRsvRequest_does hz hx hw ht
      unfold State.askRsv at hdoes
      refine ⟨fun hbad => ?_, fun hok hmay => ?_, fun hok hmay => ?_⟩
      · rwa [if_pos hbad] at hdoes
      · rwa [if_neg (by simp [hok]), if_pos hmay] at hdoes
      · rwa [if_neg (by simp [hok]), if_neg (by simp [hmay])] at hdoes
    · exact does_of_crossed rfl hz ((writeBasinSlotAllot_unlocked hw hl).trans (if_neg (Nat.not_lt.mpr hsum)))
    · exact does_of_crossed rfl hz ((writeBasinSlotAllot_unlocked hw hl).trans (if_pos hsum))
  · intro s who d v hw hl hz
    refine ⟨fun p m t gone hp hm ht hgone => ?_, fun hok => ?_, fun hbad => ?_, ?_⟩
    · have hmask := writePoolWayMask_unlocked hw hl hp hm ht hgone
      have hcross := hz 0x100 (by decide) p hp
      refine ⟨fun hok => ⟨fun hnil => ?_, fun hne => ?_⟩, fun hbad => ?_⟩ <;>
        refine does_of_crossed rfl hcross (hmask.trans ?_)
      · rw [if_neg (by simp [hok]), if_pos hnil]
      · rw [if_neg (by simp [hok]), if_neg hne]
      · exact if_pos hbad
    · exact does_of_crossed rfl (hz 0x140 (by decide) 0 (by decide)) ((writePoolWayExcl_unlocked hw hl).trans (if_neg (by rw [hok]; decide)))
    · exact does_of_crossed rfl (hz 0x140 (by decide) 0 (by decide)) ((writePoolWayExcl_unlocked hw hl).trans (if_pos hbad))
    · show execPoolSweepDone d s = commit s _
      rfl

end Sys2Proof
end

section
/-!
PROOFS. Repairs, the retirement of cores, and the scrubbers (R178, R253, R261 to R280).
-/

namespace Sys2Proof.Machine

/-! ### Repairs -/

section
variable {s : State} {n k : Nat}

/-- R178: the first repair in its order that has its gap runs. -/
theorem State.runFirst_some {p : Activity → Bool} {m : Maint} (h : s.nextRepair p = some m) :
    s.runFirst p = (s.doRepair m.act).startMaint := by
  unfold State.runFirst
  rw [h]

theorem State.runFirst_none {p : Activity → Bool} (h : s.nextRepair p = none) : s.runFirst p = s := by
  unfold State.runFirst
  rw [h]

/-- R272 to R274: each kind of repair runs the first of its own kind. -/
theorem repairRun_does {c : Instr} {p : Activity → Bool} {t : State} (hmem : (c, p) ∈ [(Instr.rowRepairRun n, Activity.isRowOf n),
    (.nbuSwapRun n k, Activity.isSwapOf n k), (.vcSwapRun n k, Activity.isVcOf n k)]) (ht : s.runFirst p = t) : Does c s t := by
  subst ht
  simp only [List.mem_cons, Prod.mk.injEq, List.not_mem_nil, or_false] at hmem
  rcases hmem with ⟨rfl, rfl⟩ | ⟨rfl, rfl⟩ | ⟨rfl, rfl⟩
  · show execRowRepairRun n s = commit s _
    rfl
  · show execNbuSwapRun n k s = commit s _
    rfl
  · show execVcSwapRun n k s = commit s _
    rfl

/-- R275: a repair that finds no gap is recorded and its half held. -/
theorem repairStarved_does {m : Maint} (hm : s.maint.find? (fun y => y.starves s n) = some m) :
    Does (.repairStarved n) s (((s.carry (s.starveAt n m)).starve n m).holdHalf (n * 2 + halfOf m.act.offset)) := by
  show execRepairStarved n s = commit s _
  unfold execRepairStarved
  rw [hm]

/-- R253: the end of a refresh window puts the rate in force. -/
theorem refreshWindowEnd_does {r : Resource} {m : Maint} (hm : s.rateChange r = some m) :
    Does (.refreshWindowEnd r) s (((s.setRate m.act).dropMaint m.act).safePoint r) := by
  show execRefreshWindowEnd r s = commit s _
  unfold execRefreshWindowEnd
  rw [hm]

end

/-! ### The retirement of cores -/

section
variable {s : State} {d : Die} {p c : Nat}

/-- R276: partition 0 retires a core: a spare at once, one with a number through its strands' parking. -/
theorem writeCoreRetire_root {who : Who} {v : Word} (hw : who.root = true) (hv : bit v.toNat 0 = true)
    (hr : (s.role d p).retired = false) (hp : p < 104) :
    (writeCoreRetire who d p v s).1 = match (s.role d p).logical with
      | none => ((s.setRole d p ⟨none, true⟩).clearInst d p).storeRequest 0
      | some _ => (s.askMaint (.coreRetire d p)).startMaint := by
  unfold writeCoreRetire
  rw [rootOnly_ok hw, if_neg (by simp [hv, hr, hp])]
  cases (s.role d p).logical <;> rfl

/-- R276: a core that is left passes its number to a spare, or loses it. -/
theorem coreRetireMigrate_does (hc : (s.role d p).logical = some c) (hm : s.mayMigrate d p c = true) :
    Does (.coreRetireMigrate d p) s (match s.spareCore d with
      | some q => (s.passNumber d p q c).retired d p c
      | none => (s.loseNumber d p c).retired d p c) := by
  show execCoreRetireMigrate d p s = commit s _
  unfold execCoreRetireMigrate
  rw [hc]
  dsimp only
  exact congrArg (commit s) ((if_neg (by simp [hm])).trans (by cases s.spareCore d <;> rfl))

end

/-! ### The scrubbers -/

section
variable {s t : State} {d : Die} {i : Nat}

/-- R261, R265 to R267: the scrubber visits the next unit of its pass while nothing holds it. -/
theorem scrubVisit_does {g c a : Nat} (hg : g = pg d Blk.scrub i) (hi : i < 14) (hn : 0 < s.scrubUnits i d)
    (hc : c = (s.scrubber g).cursor) (ha : a = scrubUnitAt d i c)
    (hon : s.flag (g + 0x100) 16 = true ∨ c % scrubRowUnits i ≠ 0) (hmay : s.mayScrub a = true)
    (hrow : s.scrubRuns a = true ∨ s.rowMayStart a = true) (ht : t = (((s.markLate g).rowStart a).markRow a).scrubOne a) :
    Does (.scrubVisit d i) s ((t.passOn g c (s.scrubUnits i d)).rowEnd i c (s.scrubUnits i d) a) := by
  subst hg hc ha ht
  have hgo : ¬ ((!s.flag (pg d Blk.scrub i + 0x100) 16 && (s.scrubber (pg d Blk.scrub i)).cursor % scrubRowUnits i == 0) ||
      !s.mayScrub (scrubUnitAt d i (s.scrubber (pg d Blk.scrub i)).cursor) ||
      (!s.scrubRuns (scrubUnitAt d i (s.scrubber (pg d Blk.scrub i)).cursor) &&
        !s.rowMayStart (scrubUnitAt d i (s.scrubber (pg d Blk.scrub i)).cursor))) = true := by
    rw [hmay]
    rcases hon with hon | hon <;> rcases hrow with hrow | hrow <;> simp [hon, hrow]
  show execScrubVisit d i s = commit s _
  unfold execScrubVisit
  dsimp only
  rw [if_neg (by omega), if_neg hgo]

/-- R261: the oldest location of the queue is visited even where the pass is not enabled. -/
theorem scrubQueuedVisit_does {g a : Nat} {l : List Nat} (hg : g = pg d Blk.scrub i) (hq : (s.scrubber g).queue = a :: l)
    (hmay : s.mayScrub a = true) :
    Does (.scrubQueuedVisit d i) s (((s.setScrubber g { s.scrubber g with queue := l }).markRow a).scrubOne a) := by
  subst hg
  show execScrubQueuedVisit d i s = commit s _
  unfold execScrubQueuedVisit
  dsimp only
  rw [hq]
  dsimp only
  rw [if_pos hmay]

/-- R262: an injected correctable error is counted and corrected, and not noted. -/
theorem State.scrubOne_injected {a : Nat} (hu : (s.unit a).uncorr = false) (hc : (s.unit a).corr = true)
    (hi : (s.unit a).injected = true) : s.scrubOne a = (s.bump (scrubPageOf a) 0x040 32 1).setUnit a UnitState.sound := by
  unfold State.scrubOne
  dsimp only
  rw [hu, hc, hi, if_neg Bool.false_ne_true, if_pos rfl, if_pos rfl]

/-- R280: a flip control is armed as written. -/
theorem writeScrubFlip_root {who : Who} {v : Word} (hw : who.root = true) :
    (writeScrubFlip who d i v s).1 = s.setFlip (pg d Blk.scrub i + 0x110) 0xFFFF001C v := by
  unfold writeScrubFlip
  rw [rootOnly_ok hw]
  rfl

theorem writeCoreFlip_root {who : Who} {v : Word} (hw : who.root = true) :
    (writeCoreFlip who d i v s).1 =
      if (s.role d i).logical.isSome then s.setFlip (pg d Blk.core i + 0x200) 0x00FF0000 v else s := by
  unfold writeCoreFlip
  rw [rootOnly_ok hw]
  rfl

end

end Sys2Proof.Machine

namespace Sys2Proof

open Machine

/-- Settles O33: the repairs by the first of their kind, and a core's retirement by its role. -/
theorem repairs : Obligations.Repairs := by
  unfold Obligations.Repairs
  intro s n k hn
  refine ⟨fun o ho => ?_, fun hk => ?_, fun c hk hc => ?_,
    fun c p hmem => ⟨fun m hm => repairRun_does hmem (State.runFirst_some hm), fun hm => repairRun_does hmem (State.runFirst_none hm)⟩,
    fun m hm => repairStarved_does hm, fun r => ?_, fun r m hm => refreshWindowEnd_does hm,
    fun who d p v hw hz hv hr hp => ⟨fun hrole => ?_, fun c hrole => ?_⟩,
    fun d p c hc hm => ⟨fun q hq => ?_, fun hq => ?_⟩⟩
  · show execRowRepairRequest n o s = commit s _
    unfold execRowRepairRequest
    rw [if_neg (by omega)]
  · show execNbuSwapRequest n k s = commit s _
    unfold execNbuSwapRequest
    rw [if_neg (by omega)]
  · show execVcSwapRequest n k c s = commit s _
    unfold execVcSwapRequest
    rw [if_neg (by omega)]
  · show execMaintSafePoint r s = commit s _
    rfl
  · exact does_of_crossed rfl hz ((writeCoreRetire_root hw hv hr hp).trans (by rw [hrole]))
  · exact does_of_crossed rfl hz ((writeCoreRetire_root hw hv hr hp).trans (by rw [hrole]))
  · have hdoes := coreRetireMigrate_does hc hm
    rwa [hq] at hdoes
  · have hdoes := coreRetireMigrate_does hc hm
    rwa [hq] at hdoes

/-- Settles O34: the visits by what holds the scrubber, the controls by their writes. -/
theorem scrubbing : Obligations.Scrubbing := by
  unfold Obligations.Scrubbing
  intro s d i g hg
  refine ⟨fun c a t hi hn hc ha hon hmay hrow ht => scrubVisit_does hg hi hn hc ha hon hmay hrow ht,
    fun a l hq hmay => scrubQueuedVisit_does hg hq hmay, fun a hu hc hi => State.scrubOne_injected hu hc hi,
    fun who v hw hz => ⟨fun m t hl hm ht => ?_, ?_, fun hcore => ?_⟩⟩ <;> subst hg
  · subst hm ht
    exact does_of_crossed rfl (hz 0x100 (by decide)) (rootRwl_ok hw hl)
  · exact does_of_crossed rfl (hz 0x110 (by decide)) (writeScrubFlip_root hw)
  · exact does_of_crossed rfl hcore (writeCoreFlip_root hw)

end Sys2Proof
end

section
/-!
PROOFS. The Reservoir's polls and losses, the bridge, the wakes of domains, and Lull and Calm (R24, R34, R253, R254, R389 to
R399).
-/

namespace Sys2Proof.Machine

/-! ### The Reservoir -/

section
variable {s t : State} {c w : Nat} {l : List (Nat × Bool)} (hc : c < 12) (hup : s.flag (rvrPage c + 0x104) 0 = true)
  (hok : s.rvrFailed c = false)
include hc hup hok

/-- R253, R254: a poll sets the refresh rate wanted, and the limit's state by the first device that is hot. -/
theorem rvrMr4Poll_does (hl : l ≠ []) (hw : w = Nat.min (listMax (l.map (·.1))) 2)
    (ht : t = s.askRefresh (.rvrRefresh c w) (s.fld (rvrPage c + 0x104) 3 2) w) :
    Does (.rvrMr4Poll c l) s (match (List.range l.length).find? (fun i => (l[i]?.map (·.2)).getD false) with
      | some k => t.rvrHot c k
      | none => t.rvrCool c) := by
  have hgo : ¬ (12 ≤ c ∨ (!s.flag (rvrPage c + 0x104) 0) = true ∨ s.rvrFailed c = true ∨ l.isEmpty = true) := by
    simp [hup, hok, hl, hc]
  subst ht hw
  show execRvrMr4Poll c l s = commit s _
  unfold execRvrMr4Poll
  exact congrArg (commit s) ((if_neg hgo).trans
    (by cases (List.range l.length).find? (fun i => (l[i]?.map (·.2)).getD false) <;> rfl))

/-- R269: a controller whose link is lost fails with a record. -/
theorem rvrLinkLoss_does : Does (.rvrLinkLoss c) s (((s.rvrDown c).raise (rvrPage c) 0x030B none 0 2 false true).failRvr c) := by
  show execRvrLinkLoss c s = commit s _
  unfold execRvrLinkLoss
  rw [if_neg (by simp [hup, hok, hc])]

end

/-- No device of a report is hot. -/
theorem findHot_none {l : List (Nat × Bool)} (h : ∀ x ∈ l, x.2 = false) :
    (List.range l.length).find? (fun i => (l[i]?.map (·.2)).getD false) = none := by
  rw [List.find?_range_eq_none]
  intro i hi
  rw [List.getElem?_eq_getElem hi]
  simp [h _ (List.getElem_mem hi)]

/-- The last device of a report, and no other, is hot. -/
theorem findHot_last {l : List (Nat × Bool)} {k : Nat} (hlen : l.length = k + 1)
    (hcool : ∀ j, j < k → (l[j]?.map (·.2)) = some false) (hhot : (l[k]?.map (·.2)) = some true) :
    (List.range l.length).find? (fun i => (l[i]?.map (·.2)).getD false) = some k := by
  rw [List.find?_range_eq_some]
  refine ⟨by simp [hhot], List.mem_range.mpr (by omega), fun j hj => by simp [hcool j hj]⟩

/-! ### The bridge and the wakes of domains -/

section
variable {s : State} {d : Die} {q : Requester} {a : Nat} {p : Option Nat} {g : Nat} {f : State → State}

/-- R24, R34: a transfer that cannot be delivered is recorded, and fails its requester. -/
theorem bridgeUndeliverable_does {n : Nat} (hq : s.requester q a = some (p, g, f)) :
    Does (.bridgeUndeliverable d q a n) s (f ((s.bridgeRetried d n).bridgeLost d p a)) := by
  show execBridgeUndeliverable d q a n s = commit s _
  unfold execBridgeUndeliverable
  rw [hq]

variable {c : Nat} (hstop : s.domainStopped d c = true)
include hstop

/-- R390: a request to a stopped domain wakes its die. -/
theorem domainWake_does {k : Nat} : Does (.domainWake d c k) s (s.wakeDie d) := by
  show execDomainWake d c k s = commit s _
  unfold execDomainWake
  rw [if_pos hstop]

/-- R34, R392: a request that a stopped domain does not answer in time fails with a record. -/
theorem domainWakeTimeout_does (hq : s.requester q a = some (p, g, f)) :
    Does (.domainWakeTimeout d c q a) s (f (s.raise g 0x030D p a c false true)) := by
  show execDomainWakeTimeout d c q a s = commit s _
  unfold execDomainWakeTimeout
  rw [if_neg (by simp [hstop]), hq]

end

/-- A write held at a crossing is the requester of its own transfer. -/
theorem requester_crossing {s : State} {a : Nat} {h : Held} (hh : s.held.find? (fun y => y.addr == a) = some h) :
    s.requester .crossing a =
      some (some h.part, s.heldPage h, fun t => ({ t with held := t.held.erase h } : State).heldFails h) := by
  show (s.held.find? (fun y => y.addr == a)).map _ = _
  rw [hh]
  rfl

section
variable {s : State} {d : Die}

/-- R396: an exit from Lull that ends lets what was held go on. -/
theorem powerExitDone_does (hx : s.exiting d = true) (hp : s.power d = 1) : Does (.powerExitDone d) s (s.leaveLull d).runHeld := by
  show execPowerExitDone d s = commit s _
  unfold execPowerExitDone
  rw [if_neg (by simp [hx]), if_pos hp]

/-- R399: the Reservoir's initialisation ends. -/
theorem reservoirInitDone_does (hoff : s.isOff = false) (hlo : 9 ≤ s.stage) (hhi : s.stage ≠ 15) :
    Does .reservoirInitDone s (({ s with rvrInit := [] } : State).setStage 11).runHeld := by
  show execReservoirInitDone s = commit s _
  unfold execReservoirInitDone
  rw [if_neg (by simp [hoff, hhi, hlo])]

/-! ### Lull and Calm -/

/-- R389: a die whose conditions have held for lull_us begins its way into Lull. -/
theorem lullIdleExpiry_does (h : s.lullReady d = true) : Does (.lullIdleExpiry d) s
    ((s.carry (s.lullSince d + s.fld (pwrstPg d + 0x104) 0 14 * 1000)).setFlag (pwrState d) 2 true) := by
  show execLullIdleExpiry d s = commit s _
  unfold execLullIdleExpiry
  rw [if_pos h]

/-- R391: both dies begin their way into Calm. -/
theorem calmIdleExpiry_does (h : s.calmReady = true) : Does .calmIdleExpiry s
    (((s.carry s.calmAt).emptyPools.enterCalm .windward).enterCalm .leeward) := by
  show execCalmIdleExpiry s = commit s _
  unfold execCalmIdleExpiry
  rw [if_pos h]

/-- R390: an entry into Lull ends. -/
theorem powerEntryDone_does_lull (he : s.entering d = true) (hp : s.power d = 0) :
    Does (.powerEntryDone d) s (s.entered d 1 0x040 (s.hk.get d).wakePending) := by
  show execPowerEntryDone d s = commit s _
  unfold execPowerEntryDone
  rw [if_neg (by simp [he]), if_pos hp]

/-- R392: an entry into Calm ends once nothing runs and no voltage is awaited. -/
theorem powerEntryDone_does_calm (he : s.entering d = true) (hp : s.power d ≠ 0) (hm : ∀ m ∈ s.maint, m.running = false)
    (hv : ∀ e ∈ bothDies, s.voltWaits e = false) : Does (.powerEntryDone d) s
    ((s.entered .windward 2 0x044 s.wokenEither).entered .leeward 2 0x044 s.wokenEither) := by
  have hidle : ¬ (s.maint.any (fun m => m.running) || bothDies.any s.voltWaits) = true := by
    simpa only [Bool.or_eq_true, List.any_eq_true, not_or, not_exists, not_and, Bool.not_eq_true] using ⟨hm, hv⟩
  show execPowerEntryDone d s = commit s _
  unfold execPowerEntryDone
  rw [if_neg (by simp [he]), if_neg hp, if_neg hidle]

/-- R394: in Calm the watch reads the sensors, and wakes the package where one stands at its limit. -/
theorem watchCycle_does {f : ScanFacts} {l : List Nat} {t : State} {b : Bool} (hp : s.power d = 2)
    (hw : ((s.watchAt d).watchDiodes d f).watchChans d f l = (t, b)) :
    Does (.watchCycle d f l) s (if ((b || t.anyHot d) && t.flag (pwrstPg d + 0x10C) 10) = true then t.wakeDie d else t) := by
  show execWatchCycle d f l s = commit s _
  unfold execWatchCycle
  rw [if_neg (by simp [hp])]
  dsimp only
  rw [hw]

end

end Sys2Proof.Machine

namespace Sys2Proof

open Machine

/-- Settles O35: the poll's verdict by the devices' reports, and a lost transfer by the requester it finds. -/
theorem reservoirBridgeAndWakes : Obligations.ReservoirBridgeAndWakes := by
  unfold Obligations.ReservoirBridgeAndWakes
  intro s d c
  refine ⟨fun l w t hc hup hok hl hw ht => ⟨fun hcool => ?_, fun k hlen hcool hhot => ?_⟩,
    rvrLinkLoss_does, ?_, fun a n t ht => ?_, fun i a k x m n hx hm => bridgeUndeliverable_does (requester_strand hx hm),
    fun q a p g f n hq => bridgeUndeliverable_does hq, fun k hstop => domainWake_does hstop,
    fun q a p g f hstop hq => domainWakeTimeout_does hstop hq,
    fun i a k x m hstop hx hm => domainWakeTimeout_does hstop (requester_strand hx hm), fun a h t hstop hh ht => ?_,
    powerExitDone_does, reservoirInitDone_does⟩
  · have hdoes := rvrMr4Poll_does hc hup hok hl hw ht
    rwa [findHot_none hcool] at hdoes
  · have hdoes := rvrMr4Poll_does hc hup hok hl hw ht
    rwa [findHot_last hlen hcool hhot] at hdoes
  · show execBridgeRetry d s = commit s _
    rfl
  · subst ht
    exact ⟨bridgeUndeliverable_does (q := .host false) (f := fun t => t.hostPoison a) rfl,
      bridgeUndeliverable_does (q := .host true) (f := fun t => t.emit (.errNonfatal 3)) rfl⟩
  · subst ht
    exact domainWakeTimeout_does hstop (requester_crossing hh)

/-- Settles O36: each command of the power states by its guard. -/
theorem powerStates : Obligations.PowerStates := by
  unfold Obligations.PowerStates
  intro s d
  refine ⟨lullIdleExpiry_does, calmIdleExpiry_does, powerEntryDone_does_lull, powerEntryDone_does_calm, ?_, ?_,
    fun f l t b hp hw => ?_⟩
  · show execLullWake d s = commit s _
    rfl
  · show execCalmWake s = commit s _
    rfl
  · have hdoes := watchCycle_does hp hw
    exact ⟨fun hhot => by rwa [if_pos hhot] at hdoes, fun hcool => by rwa [if_neg (by simp [hcool])] at hdoes⟩

end Sys2Proof
end

section
/-!
PROOFS. Resets of the package, its module ID, and lost clocks and rails (R397 to R404, R408, R453, R456).
-/

namespace Sys2Proof.Machine

section
variable {s : State}

/-- R397: the pin resets the package while the housekeeping rail is up. -/
theorem pkgRstAssert_does :
    Does .pkgRstAssert s (if s.pins.rails.contains .hk = true then (s.setPkgRst false).packageReset 1 else s.setPkgRst false) := by
  show execPkgRstAssert s = commit s _
  rfl

/-- R398: the reset register. -/
theorem pwrstReset_does {who : Who} {d : Die} {v : Word} (hw : who.root = true) :
    Does (.pwrstReset who d v) s (if bit v.toNat 0 = true then s.packageReset 2 else s) := by
  show commit s (writePwrstReset who d v s).1 = commit s _
  unfold writePwrstReset
  rw [rootOnly_ok hw]
  rfl

/-- R403: the pin's rise lets boot run, or wait. -/
theorem pkgRstDeassert_does {f : BootFacts} : Does (.pkgRstDeassert f) s
    (if (s.setPkgRst true).mayBoot = true then (s.setPkgRst true).boot f else (s.setPkgRst true).waitBoot f) := by
  show execPkgRstDeassert f s = commit s _
  rfl

/-- R408: the module ID is set once. -/
theorem pwrstModuleIdWrite_does {who : Who} {d : Die} {v : Word} {t : State} (hw : who.root = true)
    (ht : t = ((s.setModuleId (v.toNat % 2 ^ 16) .windward).setModuleId (v.toNat % 2 ^ 16) .leeward).afterId)
    (hset : s.flag (pwrstPg s.active + 0x114) 16 = false) :
    Does (.pwrstModuleIdWrite who d v) s (if bit v.toNat 18 = true then t.persist (v.toNat % 2 ^ 16) else t) := by
  subst ht
  show commit s (writeModuleId who d v s).1 = commit s _
  unfold writeModuleId
  rw [rootOnly_ok hw, hset, if_neg Bool.false_ne_true]
  rfl

/-- R453: a reference clock that is lost stops what depends on it. -/
theorem refclkLoss_does {c : RefClk} (hc : s.pins.clkLost.contains c = false) :
    Does (.refclkLoss c) s ((s.noteClk c).clkGone c) := by
  show execRefclkLoss c s = commit s _
  unfold execRefclkLoss
  rw [if_neg (by simp only [hc, Bool.false_eq_true, not_false_eq_true])]

section
variable {r : Rail} (hr : s.pins.rails.contains r = true)
include hr

/-- R456: without VDD_HK nothing runs. -/
theorem railLoss_does_hk (h : r = .hk) : Does (.railLoss r) s s.hkGone := by
  show execRailLoss r s = commit s _
  unfold execRailLoss
  rw [hr, if_neg (by decide), if_pos h]

/-- R456: another rail that is lost stops its own circuits. -/
theorem railLoss_does_other (h : r ≠ .hk) (hup : (s.dropRail r).railsDown = false) :
    Does (.railLoss r) s ((s.dropRail r).railLow (railSel r).1 (railSel r).2) := by
  show execRailLoss r s = commit s _
  unfold execRailLoss
  rw [hr, if_neg (by decide), if_neg h, hup, if_neg Bool.false_ne_true]

end

/-- R400: the registers kept over a package reset are those of `keptReg`. -/
theorem State.mem_keptOver_regs (e : Nat × Word) : e ∈ s.keptOver.regs ↔ e ∈ s.regs ∧ keptReg e.1 = true :=
  List.mem_filter

/-- Memory that has been cleared whole reads zero. -/
theorem busRead_clear (m : List Host.Cell) {n a : Nat} (h : a < n) : busRead m [.clear 0 n] a = 0 :=
  if_pos ⟨Nat.zero_le a, (Nat.zero_add n).symm ▸ h⟩

end

end Sys2Proof.Machine

namespace Sys2Proof

open Machine

/-- Settles O37: the resets by their pins and registers, and what is kept by the fields of the state that they leave. -/
theorem resetsAndLosses : Obligations.ResetsAndLosses := by
  unfold Obligations.ResetsAndLosses
  intro s who d v
  refine ⟨fun hk => ?_, fun hk => ?_, fun hw hv => ?_, fun hw hv => ?_, ?_, rfl, rfl, rfl, rfl, rfl, rfl, rfl, rfl, rfl, rfl,
    State.mem_keptOver_regs, fun a ha => busRead_clear s.mem ha, fun f => ⟨fun hb => ?_, fun hb => ?_⟩,
    fun t hw ht hset => ⟨fun hv => ?_, fun hv => ?_⟩, fun c hc => refclkLoss_does hc,
    fun r hr => ⟨railLoss_does_hk hr, railLoss_does_other hr⟩⟩
  · simpa only [if_pos hk] using pkgRstAssert_does (s := s)
  · simpa only [hk, Bool.false_eq_true, if_false] using pkgRstAssert_does (s := s)
  · simpa only [if_pos hv] using pwrstReset_does (s := s) (d := d) (v := v) hw
  · simpa only [hv, Bool.false_eq_true, if_false] using pwrstReset_does (s := s) (d := d) (v := v) hw
  · show execColdReset s = commit s _
    rfl
  · simpa only [if_pos hb] using pkgRstDeassert_does (s := s) (f := f)
  · simpa only [hb, Bool.false_eq_true, if_false] using pkgRstDeassert_does (s := s) (f := f)
  · simpa only [hv, Bool.false_eq_true, if_false] using pwrstModuleIdWrite_does (d := d) hw ht hset
  · simpa only [if_pos hv] using pwrstModuleIdWrite_does (d := d) hw ht hset

end Sys2Proof
end

section
/-!
PROOFS. Packets that arrive, and the links of the ports (R282 to R296, R302, R304, R309).
-/

namespace Sys2Proof.Machine

/-! ### Packets -/

section
variable {s : State} {p : Nat} {k : Packet} (hp : p < 24) (hl : s.portLive p = true)
include hp hl

/-- R296: a packet out of its order is not taken, and a replay is asked for. -/
theorem does_wantReplay {c : Instr} {act : Packet → State → State} (he : exec c s = commit s (arrivePacket p k act s))
    (ho : s.inOrder p k.link = false) : Does c s (s.wantReplay p) := by
  show exec c s = commit s _
  rw [he, arrivePacket, takeFrame_out hp hl ho]

/-- R294: a packet for another package goes on, or wakes the package where it is in Calm. -/
theorem arrivePacket_other {act : Packet → State → State} {t : State} (ho : s.inOrder p k.link = true)
    (ht : t = s.received p k.link (pktUnits2 k)) (hd : k.dst ≠ t.selfId) :
    arrivePacket p k act s = if (isRequest k.ptype && t.inCalm) = true then (t.wakeDie (dieOf (p / 12))).holdPacket p k
      else t.forward (dieOf (p / 12)) k := by
  subst ht
  exact (takeFrame_in hp hl ho).trans (if_neg hd)

/-- R287, R296: what each packet with a type of its own does where it is out of its order. -/
theorem packet_does_wantReplay (ho : s.inOrder p k.link = false) (hk : knownType k.ptype = true) {c : Nat → Packet → Instr}
    (hc : c ∈ [Instr.packetWrite, .packetRead, .packetAtadd, .packetCount, .packetResponse, .packetForward]) :
    Does (c p k) s (s.wantReplay p) := by
  simp only [List.mem_cons, List.not_mem_nil, or_false] at hc
  rcases hc with rfl | rfl | rfl | rfl | rfl | rfl
  · exact does_wantReplay (k := { k with ptype := 1 }) hp hl rfl ho
  · exact does_wantReplay (k := { k with ptype := 2 }) hp hl rfl ho
  · exact does_wantReplay (k := { k with ptype := 3 }) hp hl rfl ho
  · exact does_wantReplay (k := { k with ptype := 4 }) hp hl rfl ho
  · exact does_wantReplay (k := { k with ptype := 8 }) hp hl rfl ho
  · refine does_wantReplay (act := fun _ _ => s) hp hl ?_ ho
    show execPacketForward p k s = _
    unfold execPacketForward
    rw [if_neg (by simp [hk])]

variable (ho : s.inOrder p k.link = true)
include ho

/-- R288: a request for this package is judged and served, each under the type of its own command. -/
theorem request_does {c : Nat → Packet → Instr} {n : Nat}
    (hc : (c, n) ∈ [(Instr.packetWrite, 1), (.packetRead, 2), (.packetAtadd, 3), (.packetCount, 4)]) {q : Packet} {u : State}
    (hq : q = { k with ptype := n }) (hu : u = s.received p q.link (pktUnits2 q)) (hd : k.dst = u.selfId) :
    Does (c p k) s (u.request_ p q) := by
  have harrive : arrivePacket p q (fun k t => t.request_ p k) s = u.request_ p q := by
    subst hq hu
    exact arrivePacket_of_dst_selfId (k := { k with ptype := n }) hp hl ho hd
  rw [← harrive, hq]
  simp only [List.mem_cons, Prod.mk.injEq, List.not_mem_nil, or_false] at hc
  rcases hc with ⟨rfl, rfl⟩ | ⟨rfl, rfl⟩ | ⟨rfl, rfl⟩ | ⟨rfl, rfl⟩
  · show execPacketWrite p k s = commit s _
    rfl
  · show execPacketRead p k s = commit s _
    rfl
  · show execPacketAtadd p k s = commit s _
    rfl
  · show execPacketCount p k s = commit s _
    rfl

/-- R289: a response ends its request. -/
theorem packetResponse_does {q : Packet} {u : State} (hq : q = { k with ptype := 8 })
    (hu : u = s.received p q.link (pktUnits2 q)) (hd : k.dst = u.selfId) :
    Does (.packetResponse p k) s (u.endRequest k.srcDie k.reqId (k.arg.toNat % 256) k.payload) := by
  subst hq hu
  show execPacketResponse p k s = commit s _
  unfold execPacketResponse
  rw [arrivePacket_of_dst_selfId (k := { k with ptype := 8 }) hp hl ho hd]

/-- R286: a packet of a reserved type is discarded and counted. -/
theorem reservedPacket_does (hk : knownType k.ptype = false) :
    Does (.reservedPacket p k) s ((s.received p k.link (pktUnits2 k)).bump (vroutePage (dieOf (p / 12))) 0x050 32 1) := by
  show execReservedPacket p k s = commit s _
  unfold execReservedPacket
  rw [if_neg (by simp [hk]), takeFrame_in hp hl ho]

/-- R294: a packet for another package. -/
theorem packetForward_does {t : State} (hk : knownType k.ptype = true) (ht : t = s.received p k.link (pktUnits2 k))
    (hd : k.dst ≠ t.selfId) : Does (.packetForward p k) s
      (if (isRequest k.ptype && t.inCalm) = true then (t.wakeDie (dieOf (p / 12))).holdPacket p k
       else t.forward (dieOf (p / 12)) k) := by
  show execPacketForward p k s = commit s _
  unfold execPacketForward
  rw [if_neg (by simp [hk]), arrivePacket_other hp hl ho ht hd]

end

section
variable {u : State} {p : Nat} {q : Packet}

theorem State.request_split (h : u.isSplit = true) : u.request_ p q = u.respond (dieOf (p / 12)) q 5 [] := if_pos h

section
variable (h : u.isSplit = false)
include h

theorem State.request_refused (hw : u.inWindows q (reqLen q) (reqPerm q) = false) :
    u.request_ p q = u.refuseReq (dieOf (p / 12)) q := by
  unfold State.request_
  rw [if_neg (by simp [h]), if_pos (by simp [hw])]

section
variable (hw : u.inWindows q (reqLen q) (reqPerm q) = true)
include hw

theorem State.request_calm (hc : u.inCalm = true) : u.request_ p q = (u.wakeDie (dieOf (p / 12))).holdPacket p q := by
  unfold State.request_
  rw [if_neg (by simp [h]), if_neg (by simp [hw]), if_pos hc]

theorem State.request_admitted (hc : u.inCalm = false) : u.request_ p q = match u.spotWait q.addr with
    | .go => u.serveRequest (dieOf (p / 12)) q
    | .held => u.holdPacket p q
    | .wake w => (u.wakeDie w).holdPacket p q := by
  unfold State.request_
  rw [if_neg (by simp [h]), if_neg (by simp [hw])]
  exact (if_neg (by simp [hc])).trans (by cases u.spotWait q.addr <;> rfl)

end
end
end

/-! ### Links -/

section
variable {s : State} {p : Nat} (hp : p < 24)
include hp

/-- R296: a replay, of the partner's packets or of the port's own. -/
theorem linkReplay_does (hl : s.portLive p = true) (o : Option Nat) :
    Does (.linkReplay ⟨p, o⟩) s (match o with | none => s.wantReplay p | some q => s.resend p q) := by
  show execLinkReplay ⟨p, o⟩ s = commit s _
  unfold execLinkReplay
  exact congrArg (commit s) ((if_neg (by simp [hl, hp])).trans (by cases o <;> rfl))

/-- R283: the spare lane takes a failing lane's place. -/
theorem laneSpareSwap_does {lane : Nat} (hlane : lane ≤ 8) (hl : s.portLive p = true)
    (hfree : s.flag (portPage p + 0x104) 3 = false) : Does (.laneSpareSwap p lane) s (s.useSpare p lane) := by
  show execLaneSpareSwap p lane s = commit s _
  unfold execLaneSpareSwap
  rw [if_neg (by simp [hl, hfree, hp, hlane])]

/-- R284: a second failure retrains the port. -/
theorem portDegrade_does (hst : s.portState p = 2) (hused : s.flag (portPage p + 0x104) 3 = true) :
    Does (.portDegrade p) s (s.retrain p) := by
  show execPortDegrade p s = commit s _
  unfold execPortDegrade
  rw [if_neg (by simp [hst, hused, hp])]

/-- R302: a retrain asked for sets its bit over the enable written. -/
theorem vlRetrain_does {who : Who} {v : Word} (hw : who.root = true) (hk : s.locked (portPage p) = false)
    (hz : s.regSleeps (portPage p + 0x100) = none) : Does (.vlRetrain who p v) s ((s.enablePort p (bit v.toNat 0)).retrain p) := by
  show execVlRetrain who p v s = commit s _
  unfold execVlRetrain writeVlCtrl
  rw [if_neg (by omega), crossed_awake hz, rootRwl_ok hw hk, if_pos (vor2_bit1 v), vor2_bit0]

/-- R302: the enable of a port, and its retrain bit. -/
theorem vlEnableWrite_does {who : Who} {v : Word} (hw : who.root = true) (hk : s.locked (portPage p) = false)
    (hz : s.regSleeps (portPage p + 0x100) = none) : Does (.vlEnableWrite who p v) s
      (if bit v.toNat 1 = true then (s.enablePort p (bit v.toNat 0)).retrain p else s.enablePort p (bit v.toNat 0)) := by
  show execVlEnableWrite who p v s = commit s _
  unfold execVlEnableWrite writeVlCtrl
  rw [if_neg (by omega), crossed_awake hz, rootRwl_ok hw hk]

/-- R292, R309: buffer reserved for a partition, never past 3,520 units. -/
theorem vlGUnitsWrite_does {who : Who} {q : Nat} {v : Word} (hq : q < 16) (hw : who.root = true)
    (hk : s.locked (portPage p) = false) (hz : s.regSleeps (portPage p + 0x140 + q * 4) = none) :
    Does (.vlGUnitsWrite who p q v) s
      (if 3520 < s.gUnitsElse p q + v.toNat % 4096 then s.setFlag (portPage p + 0x104) 10 true
       else ((s.setReg (portPage p + 0x140 + q * 4) (w64 (v.toNat % 4096))).setFlag (portPage p + 0x104) 10 false).noteUnmodelled
        (some q)) := by
  show execVlGUnitsWrite who p q v s = commit s _
  unfold execVlGUnitsWrite writeGUnits
  rw [if_neg (by omega), crossed_awake hz, rootRwl_ok hw hk]

/-- R282: a signal starts training. -/
theorem partnerSignalDetect_does (hst : s.portState p = 0 ∨ s.portState p = 4) (hen : s.flag (portPage p + 0x100) 0 = true)
    (hid : s.flag (pwrstPg s.active + 0x114) 16 = true) : Does (.partnerSignalDetect p) s (s.setPortState p 1) := by
  show execPartnerSignalDetect p s = commit s _
  unfold execPartnerSignalDetect
  rw [if_neg (by rcases hst with h | h <;> simp [h, hen, hid, hp])]

/-- R282: training ends Up or Degraded, or at an identity conflict. -/
theorem portTrained_does {m mp n : Nat} {st : BitVec 32} (hst : s.portState p = 1) (hn : n = 8 ∨ n = 4) :
    Does (.portTrained p m mp st n) s (if s.identityConflict p m st = true then
      s.raise (portPage p) 0x0502 none m st.toNat false false else s.comeUp p m mp st n) := by
  have hgo : ¬ (24 ≤ p ∨ s.portState p ≠ 1 ∨ (n ≠ 8 ∧ n ≠ 4)) := by omega
  show execPortTrained p m mp st n s = commit s _
  unfold execPortTrained
  rw [if_neg hgo]

/-- R302: a port that has been up is Dead once too many lanes have lost their signal. -/
theorem portSignalLoss_does_dead {n : Nat} (h : (s.portState p = 2 ∧ 5 ≤ n) ∨ (s.portState p = 3 ∧ 3 ≤ n)) :
    Does (.portSignalLoss p n) s ((s.carry (s.now + 1000)).portDead p 1) := by
  show execPortSignalLoss p n s = commit s _
  unfold execPortSignalLoss
  rw [if_neg (by omega), if_pos h]

/-- R302: a port in its first training is Down again without a signal. -/
theorem portSignalLoss_does_down {n : Nat} (hst : s.portState p = 1) (hre : (s.port p).retrainAt = none) (hn : 5 ≤ n) :
    Does (.portSignalLoss p n) s (s.portDown p) := by
  show execPortSignalLoss p n s = commit s _
  unfold execPortSignalLoss
  rw [if_neg (by omega), if_neg (by omega), if_pos ⟨hst, by rw [hre]; rfl, hn⟩]

/-- R302: a port that is silent is Dead. -/
theorem portSilence_does (hl : s.portLive p = true) :
    Does (.portSilence p) s (((s.carry ((s.port p).lastRx + 40000)).bump (portPage p) 0x060 32 4).portDead p 2) := by
  show execPortSilence p s = commit s _
  unfold execPortSilence
  rw [if_neg (by simp [hl, hp])]

end

/-- R302: a retrain that does not end makes its port Dead. -/
theorem retrainTimeout_does {s : State} {p a : Nat} (h : (s.port p).retrainAt = some a) :
    Does (.retrainTimeout p) s ((s.carry (a + 500000)).portDead p 0) := by
  show execRetrainTimeout p s = commit s _
  unfold execRetrainTimeout
  rw [h]

end Sys2Proof.Machine

namespace Sys2Proof

open Machine

/-- Settles O38: a packet's order, type and destination choose what is done; a request is then judged by `request_`. -/
theorem packetsArrive : Obligations.PacketsArrive := by
  unfold Obligations.PacketsArrive
  intro s p k t hp hl
  refine ⟨fun ho c hc hk => packet_does_wantReplay hp hl ho hk hc, fun ho ht => ⟨fun c n hc q hq u hu hd => ?_,
    fun q u hq hu hd => packetResponse_does hp hl ho hq hu hd, fun hk => ht ▸ reservedPacket_does hp hl ho hk,
    fun hk hd => ?_⟩⟩
  · have hdoes := request_does hp hl ho hc hq hu hd
    refine ⟨fun h => ?_, fun h hw => ?_, fun h hw hc => ?_, fun h hw hc => ⟨fun hgo => ?_, fun hheld => ?_, fun w hwake => ?_⟩⟩
    · rwa [State.request_split h] at hdoes
    · rwa [State.request_refused h hw] at hdoes
    · rwa [State.request_calm h hw hc] at hdoes
    · rwa [State.request_admitted h hw hc, hgo] at hdoes
    · rwa [State.request_admitted h hw hc, hheld] at hdoes
    · rwa [State.request_admitted h hw hc, hwake] at hdoes
  · have hdoes := packetForward_does hp hl ho hk ht hd
    exact ⟨fun h => by rwa [if_neg (by simp [h])] at hdoes, fun h => by rwa [if_pos h] at hdoes⟩

/-- Settles O39: each command of a port by the port's state and the register's lock. -/
theorem portLinks : Obligations.PortLinks := by
  unfold Obligations.PortLinks
  intro s p hp
  refine ⟨fun hl => ⟨linkReplay_does hp hl none, fun q => linkReplay_does hp hl (some q)⟩, fun t x ht hx => ?_,
    fun lane hlane hl hfree => laneSpareSwap_does hp hlane hl hfree, fun hst hused => portDegrade_does hp hst hused,
    fun who v hw hk hz => ?_, fun a ha => retrainTimeout_does ha, fun hst hen hid => partnerSignalDetect_does hp hst hen hid,
    fun m mp st n hst hn => ?_, fun n h => portSignalLoss_does_dead hp h,
    fun n hst hre hn => portSignalLoss_does_down hp hst hre hn, fun hl => portSilence_does hp hl⟩
  · subst ht hx
    exact ⟨fun h => if_pos h, fun h => if_neg (Nat.not_lt.mpr h)⟩
  · have hctrl := hz 0x100 (by decide) 0 (by decide)
    have hen := vlEnableWrite_does (v := v) hp hw hk hctrl
    refine ⟨vlRetrain_does hp hw hk hctrl, fun h => by rwa [if_neg (by simp [h])] at hen, fun h => by rwa [if_pos h] at hen,
      fun q hq => ?_⟩
    have hunits := vlGUnitsWrite_does (v := v) hp hq hw hk (hz 0x140 (by decide) q hq)
    exact ⟨fun h => by rwa [if_neg (Nat.not_lt.mpr h)] at hunits, fun h => by rwa [if_pos h] at hunits⟩
  · have hdoes := portTrained_does (m := m) (mp := mp) (st := st) hp hst hn
    exact ⟨fun h => by rwa [if_neg (by simp [h])] at hdoes, fun h => by rwa [if_pos h] at hdoes⟩

end Sys2Proof
end

section
/-!
PROOFS. Liveness, losses and the time tree; routing entries and shadows; deadline monitors (R286 to R311, R360 to R363).
-/

namespace Sys2Proof.Machine

/-! ### Control packets -/

/-- R297: an idle port sends a BREEZE. -/
theorem breezeIdleExpiry_does {s t : State} {p : Nat} (hm : s.mayBreeze p = true) (ht : t = s.carry ((s.port p).lastTx + 10000)) :
    Does (.breezeIdleExpiry p) s ((t.enqueue p (t.breezePacket p)).drainPort p) := by
  subst ht
  show execBreezeIdleExpiry p s = commit s _
  unfold execBreezeIdleExpiry
  rw [if_neg (by simp [hm])]

section
variable {s : State} {p : Nat} (hp : p < 24) (hl : s.portLive p = true)
include hp hl

/-- R296: a control packet in its order is taken in, and any other asks for a replay. -/
theorem does_of_takeFrame {c : Instr} {l : Link} {u : Nat} {k : State → State}
    (he : exec c s = commit s (takeFrame p l u k s)) :
    Does c s (if s.inOrder p l = true then k (s.received p l u) else s.wantReplay p) := by
  show exec c s = commit s _
  rw [he]
  cases ho : s.inOrder p l
  case true => rw [takeFrame_in hp hl ho, if_pos rfl]
  case false => rw [takeFrame_out hp hl ho, if_neg Bool.false_ne_true]

theorem breeze_does (l : Link) (st : BitVec 32) (b : Bool) : Does (.breeze ⟨p, l⟩ st b) s
    (if s.inOrder p l = true then (s.received p l 1).setFlag (portPage p + 0x104) 9 b else s.wantReplay p) :=
  does_of_takeFrame hp hl (k := fun t => t.setFlag (portPage p + 0x104) 9 b) rfl

/-- R299: what a LOSS does once it is taken in. -/
def State.takeLoss (t : State) (p m : Nat) (st : BitVec 32) (r h : Nat) : State :=
  if m = t.selfId then t.bump (vroutePage (dieOf (p / 12))) 0x050 32 1
  else if t.lossSeen.contains (m, st) then t
  else t.heedLoss p m st r h

theorem loss_does (l : Link) (st : BitVec 32) (m r h : Nat) : Does (.loss ⟨p, l⟩ st m r h) s
    (if s.inOrder p l = true then (s.received p l 1).takeLoss p m st r h else s.wantReplay p) :=
  does_of_takeFrame hp hl (k := fun t => t.takeLoss p m st r h) rfl

theorem timeReq_does (l : Link) (t1 m : Nat) : Does (.timeReq ⟨p, l⟩ t1 m) s
    (if s.inOrder p l = true then (s.received p l 1).enqueue p ((s.received p l 1).controlPacket 0x12 m
        (w64 (s.received p l 1).now) (timeAnswer t1 ((s.received p l 1).fld (timePg + 0x10C) 2 5)))
      else s.wantReplay p) :=
  does_of_takeFrame hp hl (k := fun t => t.enqueue p
    (t.controlPacket 0x12 m (w64 t.now) (timeAnswer t1 (t.fld (timePg + 0x10C) 2 5)))) rfl

/-- R311: what a TIME_RSP does once it is taken in: only the answer asked of the parent sets the offset. -/
def State.takeTime (t : State) (p t1 t2 u n : Nat) (a : Int) : State :=
  if t.timeState = 3 ∨ p ≠ t.timePort ∨ t.portState p ≠ 2 ∨ t.time.t1 ≠ some t1 then t
  else
    ((((t.setPort p ((t.port p).measured a)).applyOffset (timeOffset t.now t1 t2 u ((t.port p).asym.getD a))).setReg (timePg + 0x110)
      (w64 (shownOffset (timeOffset t.now t1 t2 u ((t.port p).asym.getD a))))).setFld (timePg + 0x10C) 2 5
        (Nat.min (n + 1) 31)).setTimeState 1

theorem timeRsp_does (l : Link) (t1 t2 u n : Nat) (a : Int) : Does (.timeRsp ⟨p, l⟩ t1 t2 u n a) s
    (if s.inOrder p l = true then (s.received p l 3).takeTime p t1 t2 u n a else s.wantReplay p) :=
  does_of_takeFrame hp hl (k := fun t => t.takeTime p t1 t2 u n a) rfl

end

section
variable {t : State} {p m t1 t2 u n : Nat} {a : Int}

theorem State.takeTime_asked (hst : t.timeState ≠ 3) (hport : p = t.timePort) (hup : t.portState p = 2)
    (hasked : t.time.t1 = some t1) : t.takeTime p t1 t2 u n a =
      ((((t.setPort p ((t.port p).measured a)).applyOffset (timeOffset t.now t1 t2 u ((t.port p).asym.getD a))).setReg
        (timePg + 0x110) (w64 (shownOffset (timeOffset t.now t1 t2 u ((t.port p).asym.getD a))))).setFld (timePg + 0x10C) 2 5
          (Nat.min (n + 1) 31)).setTimeState 1 :=
  if_neg (by simp only [not_or, not_not, ne_eq]; exact ⟨hst, hport, hup, hasked⟩)

end

/-! ### Watches, losses and the time tree -/

section
variable {s : State}

/-- R290: a stalled channel is recorded. -/
theorem vcStall_does {p vc : Nat} {f : Bool} (hp : p < 24)
    (hq : (s.port p).queue.any (fun k => k.vc == vc && k.falling == f) = true) :
    Does (.vcStall p vc f) s (((s.setPort p ((s.port p).starveVc vc f)).setFlag (portPage p + 0x104) 8 true).raise (portPage p)
      0x0503 none (vc + boolNat f * 4) 0 false false) := by
  have hgo : ¬ (24 ≤ p ∨ (!(s.port p).queue.any (fun k => k.vc == vc && k.falling == f)) = true) := by
    rw [hq]
    simp [hp]
  show execVcStall p vc f s = commit s _
  unfold execVcStall
  rw [if_neg hgo]

/-- R295: a request without an answer ends with status 8. -/
theorem respTimeout_does {d : Die} {id : Nat} {r : Request} {t : State}
    (hr : s.requests.find? (fun r => r.die == d && r.id == id) = some r) (ht : t = s.carry r.due) :
    Does (.respTimeout d id) s ((t.endRequest d id 8 []).bump (vroutePage d) 0x04C 32 1) := by
  subst ht
  show execRespTimeout d id s = commit s _
  unfold execRespTimeout
  rw [hr]

/-- R300: after the grace of a loss the requests to the lost module end. -/
theorem lossGraceExpiry_does {m : Nat} {e : Nat × Nat} (he : s.lossGrace.find? (fun e => e.1 == m) = some e) :
    Does (.lossGraceExpiry m) s ((s.carry (e.2 + 10000)).graceOver e.1 e.2) := by
  show execLossGraceExpiry m s = commit s _
  unfold execLossGraceExpiry
  rw [he]

section
variable (hst : s.timeState ≠ 3) (hports : s.timePorts ≠ [])
include hst hports

/-- R311: a child asks its parent for the time. -/
theorem timeExchangeTick_does {t : State} (ht : t = (s.slewBy s.timeIv).countMiss) :
    Does .timeExchangeTick s (t.askTime t.askPort) := by
  subst ht
  show execTimeExchangeTick s = commit s _
  unfold execTimeExchangeTick
  rw [if_neg (by simp [hst, hports])]

/-- R311: a parent that fails is replaced, or the time is held over. -/
theorem timeParentFailover_does (hbad : s.parentBad = true) : Does .timeParentFailover s (match s.nextParent with
    | some q => s.usePort q (s.timePorts.idxOf q)
    | none => if s.timeState = 2 then s else s.holdover) := by
  show execTimeParentFailover s = commit s _
  unfold execTimeParentFailover
  exact congrArg (commit s) ((if_neg (by simp [hst, hports, hbad])).trans (by cases s.nextParent <;> rfl))

end

/-- R311: partition 0 writes TIME_CFG: the root, or a child. -/
theorem timeCfgWrite_does {who : Who} {d : Die} {v : Word} {iv : Nat} {t : State} (hw : who.root = true)
    (hl : s.locked (pg d Blk.time 0) = false)
    (hiv : iv = (if bits v.toNat 24 8 = 0 then bits (s.reg (timePg + 0x108)).toNat 24 8 else bits v.toNat 24 8))
    (ht : t = s.setReg (timePg + 0x108) (w64 (v.toNat % 2 ^ 19 + iv * 2 ^ 24))) :
    Does (.timeCfgWrite who d v) s (if bit v.toNat 0 = true then (t.setTimeState 3).setFld (timePg + 0x10C) 2 5 0
      else t.toChild (s.reg (timePg + 0x108)).toNat v.toNat) := by
  subst hiv ht
  show commit s (writeTimeCfg who d v s).1 = commit s _
  unfold writeTimeCfg
  rw [rootRwl_ok hw hl]

/-! ### Routing entries and shadows -/

/-- R306: a shadow descriptor of the SCC is queued, or ignored where the queue is full. -/
theorem writeShadowSubmit_scc {d : Die} {v : Word} :
    (writeShadowSubmit .scc d v s).1 = if 64 ≤ (s.shadow.get d).length then s
      else s.setShadows d (s.shadow.get d ++ [s.newShadow v.toNat]) := by
  unfold writeShadowSubmit
  rw [if_neg (by decide)]
  split <;> rfl

theorem Who.isScc_of_ne {who : Who} (h : who ≠ .scc) : who.isScc = false := by
  unfold Who.isScc
  split
  · exact absurd rfl h
  · rfl

theorem writeShadowSubmit_other {who : Who} {d : Die} {v : Word} (h : who ≠ .scc) : (writeShadowSubmit who d v s).1 = s := by
  unfold writeShadowSubmit
  rw [Who.isScc_of_ne h, if_pos Bool.not_false]
  rfl

section
variable {d : Die} {x : Shadow} {l : List Shadow} (hx : s.shadow.get d = x :: l)
include hx

/-- R307: the descriptor at the front is checked, sends its writes, then its COUNT. -/
theorem shadowDescriptorRun_does {t : State} {b : Bool} (hc : x.cancelled = false) (hr : x.rejected = false)
    (ht : s.shadowReady d x = (t, b)) : Does (.shadowDescriptorRun d) s
      (if b = false then t.setShadowFront d x.reject
       else if x.sentAll = false then t.shadowPush d x (shadowDesc (t.bytes x.pa 64))
       else if (x.outstanding.isEmpty && (shadowDesc (t.bytes x.pa 64)).peerCtr != 0 && !x.counted && x.remoteErr.isNone) = true then
        t.shadowCount d x (shadowDesc (t.bytes x.pa 64))
       else t) := by
  show execShadowDescriptorRun d s = commit s _
  unfold execShadowDescriptorRun
  rw [hx]
  dsimp only
  rw [if_neg (by simp [hc, hr]), ht]
  simp only [Bool.not_eq_true']

/-- R307, R308: a descriptor that waits for nothing ends with its record. -/
theorem shadowDescriptorDone_does {sd : ShadowDesc} (hsd : sd = shadowDesc (s.bytes x.pa 64))
    (h : x.cancelled = true ∨ x.rejected = true ∨ x.waits sd = false) : Does (.shadowDescriptorDone d) s (s.endShadow d x sd) := by
  subst hsd
  show execShadowDescriptorDone d s = commit s _
  unfold execShadowDescriptorDone
  rw [hx]
  dsimp only
  rw [if_neg (by rcases h with h | h | h <;> simp [h])]

end

/-- R308: partition 0 cancels a partition's shadow descriptors. -/
theorem writeShadowCancel_root {who : Who} {d : Die} {v : Word} {t : State} (hw : who.root = true)
    (hc : ∀ x ∈ s.shadow.get d, x.cancelled = false) (ht : t = s.setReg (vroutePage d + 0x13C) (w64 (v.toNat % 16))) :
    (writeShadowCancel who d v s).1 = if bit v.toNat 4 = true then t.cancelShadows d (v.toNat % 16) else t := by
  have hnone : ¬ (s.shadow.get d).any (fun x => x.cancelled) = true := by simpa using hc
  subst ht
  unfold writeShadowCancel
  rw [rootOnly_ok hw]
  simp only [if_neg hnone, written]

/-! ### Deadline monitors -/

section
variable {d : Die} {m : Nat}

/-- R360: a monitor's control word arms it, or releases it. -/
theorem writeDlCtrl_root {who : Who} {v : Word} (hw : who.root = true) (hm : m < 64) :
    (writeDlCtrl who d m v s).1 = if bit v.toNat 0 = false then (s.dlFields d m v.toNat).dlRelease d m
      else if (s.dlFields d m v.toNat).dlArmed d m = true then s.dlFields d m v.toNat
      else (s.dlFields d m v.toNat).dlArm d m := by
  unfold writeDlCtrl
  simp only [rootOnly_ok hw, if_neg (Nat.not_le.mpr hm), Bool.not_eq_true', apply_ite Prod.fst, written]

variable (ha : s.dlArmed d m = true)
include ha

/-- R363: an armed monitor judges its counter anew at each change. -/
theorem dlCounterChange_does : Does (.dlCounterChange d m) s (s.dlEvaluate d m) := by
  show execDlCounterChange d m s = commit s _
  unfold execDlCounterChange
  rw [if_pos ha]

/-- R361: at its deadline a counter below its target is missed. -/
theorem dlDeadlinePass_does (hmiss : s.dlMissed d m = false) : Does (.dlDeadlinePass d m) s
    (if s.now ≤ s.dlAt d m then
      if (s.dlEvaluate d m).dlArmed d m = true then ((s.dlEvaluate d m).carry ((s.dlEvaluate d m).dlAt d m)).dlMiss d m
      else s.dlEvaluate d m
     else s.dlMiss d m) := by
  show execDlDeadlinePass d m s = commit s _
  unfold execDlDeadlinePass
  rw [if_neg (by simp [ha, hmiss])]

/-- R361: max_late_ms later the miss is recorded as abandoned. -/
theorem dlMaxLateExpiry_does (hmiss : s.dlMissed d m = true) : Does (.dlMaxLateExpiry d m) s
    ((s.carry (s.dlAt d m + s.fld (dlBase d m + 0x18) 16 16 * 1000000)).dlRecord d m true) := by
  show execDlMaxLateExpiry d m s = commit s _
  unfold execDlMaxLateExpiry
  rw [if_neg (by simp [ha, hmiss])]

end

end

end Sys2Proof.Machine

namespace Sys2Proof

open Machine

/-- Settles O40: a control packet by its order on the link, the watches and the time tree by what they find. -/
theorem watchesLossesAndTime : Obligations.WatchesLossesAndTime := by
  unfold Obligations.WatchesLossesAndTime
  intro s p d
  refine ⟨fun hp hl => ⟨fun _ hm ht => breezeIdleExpiry_does hm ht, fun l ho => ?_, fun l ho => ?_⟩,
    fun vc f hp hq => vcStall_does hp hq, fun id r t hr ht => respTimeout_does hr ht, fun m e he => lossGraceExpiry_does he,
    fun t hst hports ht => timeExchangeTick_does hst hports ht, fun hst hports hbad => ?_,
    fun who v iv t hw hl hiv ht => ?_⟩
  · have hout := Bool.eq_false_iff.mp ho
    exact ⟨fun st b => by simpa only [if_neg hout] using breeze_does hp hl l st b,
      fun st m r h => by simpa only [if_neg hout] using loss_does hp hl l st m r h,
      fun t1 m => by simpa only [if_neg hout] using timeReq_does hp hl l t1 m,
      fun t1 t2 u n a => by simpa only [if_neg hout] using timeRsp_does hp hl l t1 t2 u n a⟩
  · refine ⟨fun st b => ?_, fun st m r h t ht => ?_, fun t1 m t ht => ?_, fun t1 t2 u n a t off ht hoff hst hport hup hasked => ?_⟩
    · have hdoes := breeze_does hp hl l st b
      rwa [if_pos ho] at hdoes
    · have hdoes := loss_does hp hl l st m r h
      rw [if_pos ho, ← ht, State.takeLoss] at hdoes
      refine ⟨fun hself => ?_, fun hself hseen => ?_, fun hself hnew => ?_⟩
      · rwa [if_pos hself] at hdoes
      · rwa [if_neg hself, if_pos hseen] at hdoes
      · rwa [if_neg hself, if_neg (Bool.eq_false_iff.mp hnew)] at hdoes
    · subst ht
      have hdoes := timeReq_does hp hl l t1 m
      rwa [if_pos ho] at hdoes
    · subst hoff
      have hdoes := timeRsp_does hp hl l t1 t2 u n a
      rwa [if_pos ho, ← ht, State.takeTime_asked hst hport hup hasked] at hdoes
  · have hdoes := timeParentFailover_does hst hports hbad
    exact ⟨fun q hq => by rwa [hq] at hdoes, fun hq hhold => by rw [hq] at hdoes; rwa [if_neg hhold] at hdoes⟩
  · have hdoes := timeCfgWrite_does hw hl hiv ht
    exact ⟨fun h => by rwa [if_pos h] at hdoes, fun h => by rwa [if_neg (by simp [h])] at hdoes⟩

/-- Settles O41: the registers by who writes them, the shadow engine by the descriptor at its front. -/
theorem tablesAndShadows : Obligations.TablesAndShadows := by
  unfold Obligations.TablesAndShadows
  intro s d hz
  refine ⟨fun who v hw hl => does_of_crossed rfl (hz 0x108 (by decide)) (rootRwl_ok hw hl),
    fun v => ⟨fun hroom => ?_, fun hfull => ?_⟩,
    fun who v hw => does_of_crossed rfl (hz 0x130 (by decide)) (writeShadowSubmit_other hw),
    fun x l t b sd hx hc hr ht hsd => ?_, fun x l sd hx hsd h => shadowDescriptorDone_does hx hsd h,
    fun who v t hw hc ht => ⟨fun h => ?_, fun h => ?_⟩⟩
  · exact does_of_crossed rfl (hz 0x130 (by decide)) (writeShadowSubmit_scc.trans (if_neg (Nat.not_le.mpr hroom)))
  · exact does_of_crossed rfl (hz 0x130 (by decide)) (writeShadowSubmit_scc.trans (if_pos hfull))
  · have hdoes := shadowDescriptorRun_does hx hc hr ht
    rw [← hsd] at hdoes
    refine ⟨fun hb => ?_, fun hb hsent => ?_, fun hb hsent hout hctr hcount herr => ?_⟩
    · rwa [if_pos hb] at hdoes
    · rwa [if_neg (by simp [hb]), if_pos hsent] at hdoes
    · rwa [if_neg (by simp [hb]), if_neg (by simp [hsent]), if_pos (by simp [hout, hctr, hcount, herr])] at hdoes
  · exact does_of_crossed rfl (hz 0x13C (by decide)) ((writeShadowCancel_root hw hc ht).trans (if_pos h))
  · exact does_of_crossed rfl (hz 0x13C (by decide)) ((writeShadowCancel_root hw hc ht).trans (if_neg (by simp [h])))

/-- Settles O42: a monitor by its armed bit and its miss. -/
theorem deadlineMonitors : Obligations.DeadlineMonitors := by
  unfold Obligations.DeadlineMonitors
  intro s d m hm
  refine ⟨fun who v x t hw hx ht => ?_, fun who v hw => ?_, dlCounterChange_does,
    fun ha hmiss => ⟨fun hlate => ?_, fun t hle ht => ?_⟩, dlMaxLateExpiry_does⟩
  · subst hx ht
    have hctrl := writeDlCtrl_root (s := s) (d := d) (v := v ||| 1) hw hm
    rw [vor1_bit0, if_neg (by decide)] at hctrl
    refine ⟨fun ha => ?_, fun ha => ?_⟩
    · show commit s (writeDlCtrl who d m (v ||| 1) s).1 = commit s _
      rw [hctrl, if_neg (Bool.eq_false_iff.mp ha)]
    · show commit s (writeDlCtrl who d m (v ||| 1) s).1 = commit s _
      rw [hctrl, if_pos ha]
  · show commit s (writeDlCtrl who d m (v &&& ~~~ (1 : Word)) s).1 = commit s _
    rw [writeDlCtrl_root hw hm, if_pos (vand_bit0 v)]
  · have hdoes := dlDeadlinePass_does ha hmiss
    rwa [if_neg (Nat.not_le.mpr hlate)] at hdoes
  · subst ht
    have hdoes := dlDeadlinePass_does ha hmiss
    rw [if_pos hle] at hdoes
    exact ⟨fun harm => by rwa [if_pos harm] at hdoes, fun harm => by rwa [if_neg (by simp [harm])] at hdoes⟩

end Sys2Proof
end

section
/-!
PROOFS. Sensors, the AVSBus, clocks, the estimator and leadership (R37 to R40, R301, R313, R365 to R385).
-/

namespace Sys2Proof.Machine

section
variable {s : State} {d : Die}

/-! ### Power-down, trips and the AVSBus -/

/-- R372: a power-down with rails left commands the next off once no such frame waits. -/
theorem railOffStep_does {r : Rail} {l : List Rail} (hr : (s.hk.get d).downRails = some (r :: l)) :
    Does (.railOffStep d) s (if (s.hk.get d).avs.any (fun q => q.kind == .off) = true then s else (s.awaitOff d).askOff d r l) := by
  show execRailOffStep d s = commit s _
  unfold execRailOffStep
  rw [hr]

theorem railOffStep_does_nothing (hr : (s.hk.get d).downRails = none ∨ (s.hk.get d).downRails = some []) :
    Does (.railOffStep d) s s := by
  show execRailOffStep d s = commit s _
  unfold execRailOffStep
  rcases hr with hr | hr <;> rw [hr]

/-- R369: a diode at 115 °C trips the package. -/
theorem tripCompare_does {k : Nat} {t : Int} (hk : k < 9) (ht : 115 * 16 ≤ t)
    (hfirst : s.flag (thermPg d + 0x100 + k * 4) 20 = false) :
    Does (.tripCompare d k t) s ((s.noteTrip d k t).assertTrip.powerDown d) := by
  have hgo : ¬ (8 < k ∨ t < 115 * 16 ∨ s.flag (thermPg d + 0x100 + k * 4) 20 = true) := by
    simp only [hfirst, Bool.false_eq_true, or_false, not_or, not_lt]
    exact ⟨Nat.le_of_lt_succ hk, ht⟩
  show execTripCompare d k t s = commit s _
  unfold execTripCompare
  rw [if_neg hgo]

theorem tripCompare_does_nothing {k : Nat} {t : Int} (ht : t < 115 * 16) : Does (.tripCompare d k t) s s := by
  show execTripCompare d k t s = commit s _
  unfold execTripCompare
  rw [if_pos (.inr (.inl ht))]

section
variable {r : AvsReq} (hr : (s.hk.get d).nextAvs = some r)
include hr

/-- R379: an AVSBus frame is answered. -/
theorem avsTransaction_does_answer (v : Int) :
    Does (.avsTransaction d (.ok v)) s ((s.setHk d ((s.hk.get d).dropAvs r)).avsDone d r v) := by
  show execAvsTransaction d (.ok v) s = commit s _
  unfold execAvsTransaction
  rw [hr]

/-- R379: a frame without a good answer is repeated, and after the third time recorded as failed. -/
theorem avsTransaction_does_retry {a : AvsAnswer} (ha : ∀ v, a ≠ .ok v) : Does (.avsTransaction d a) s
    (if r.tries < 3 then (s.setHk d ((s.hk.get d).retryAvs r)).bump (avsPg d) 0x040 32 1
     else (s.setHk d ((s.hk.get d).dropAvs r)).failAvs d r) := by
  show execAvsTransaction d a s = commit s _
  unfold execAvsTransaction
  rw [hr]
  match a, ha with
  | .ok v, ha => exact absurd rfl (ha v)
  | .missing, _ => rfl
  | .badCrc, _ => rfl
  | .error, _ => rfl

end

/-- R377: a raise steps the clock once its voltage has settled. -/
theorem voltageSettled_does {c : Nat} (hc : (s.hk.get d).raiseTo = some c)
    (hidle : (s.hk.get d).avs.any (fun r => r.kind == .setVolt) = false) :
    Does (.voltageSettled d) s (((s.endRaise d).setClock d c).showTherm d) := by
  show execVoltageSettled d s = commit s _
  unfold execVoltageSettled
  rw [hc]
  dsimp only
  rw [hidle, if_neg Bool.false_ne_true]

/-- No frame of a kind waits. -/
theorem noFrame_of_forall {l : List AvsReq} {k : AvsKind} (h : ∀ r ∈ l, r.kind ≠ k) : l.any (fun r => r.kind == k) = false := by
  simpa using h

/-! ### Samples, timers and scans -/

/-- R375: the timer of the cap lowers the clocks. -/
theorem powerExcursionTimer_does {a : Nat} (ha : s.cap.t0 = some a) :
    Does .powerExcursionTimer s (s.carry (a + 8000000)).capLower := by
  show execPowerExcursionTimer s = commit s _
  unfold execPowerExcursionTimer
  rw [ha]

/-- R376: the clocks are raised again where the power has been sampled anew. -/
theorem clockRaiseTimer_does {a : Nat} (ha : s.cap.below2700 = some a) : Does .clockRaiseTimer s
    (if s.cap.fresh = true then
      (({ s.carry (a + 50000000) with cap := { s.cap with fresh := false } } : State).capRaise .windward).capRaise .leeward
     else s) := by
  show execClockRaiseTimer s = commit s _
  unfold execClockRaiseTimer
  rw [ha]

/-- R370: a lost lock of the housekeeping clock. -/
theorem pllLockLoss_does : Does (.pllLockLoss d) s ((((((s.setFlag (hkPg d + 0x100) 0 false).setFlag (hkPg d + 0x100) 1 true).raise
    (hkPg d) 0x060B none 0 0 false false).setHoldPll d true).applyLimits).showTherm d) := by
  show execPllLockLoss d s = commit s _
  rfl

theorem pllLockRegain_does :
    Does (.pllLockRegain d) s (((s.setFlag (hkPg d + 0x100) 0 true).setFlag (hkPg d + 0x100) 1 false).setHoldPll d false) := by
  show execPllLockRegain d s = commit s _
  rfl

section
variable (hup : s.hkSleeps d = false)
include hup

/-- R365 to R368: samples of a die's channels, and a trip limit reached three times in a row. -/
theorem currentSample_does {l : List CurSample} {v : List Nat} {t : State} {b : Bool} (ht : s.takeSamples d l v = (t, b)) :
    Does (.currentSample d l v) s (if b = true then (t.sampled d).powerDown d else t.sampled d) := by
  show execCurrentSample d l v s = commit s _
  unfold execCurrentSample
  dsimp only
  rw [hup, if_neg Bool.false_ne_true, ht]

/-- R371: the timer of the throttle. -/
theorem throttleStepTimer_does : Does (.throttleStepTimer d) s
    (if ((s.hk.get d).throttling || (s.hk.get d).rateOn) = true then
      (if (s.hk.get d).rising = true then (s.throttleDown d (s.hk.get d).throttling).showTherm d else s.showTherm d)
     else (s.throttleUp d).showTherm d) := by
  show execThrottleStepTimer d s = commit s _
  unfold execThrottleStepTimer
  dsimp only
  rw [hup, if_neg Bool.false_ne_true]

/-- R366: a scan round reads the sensors in order. -/
theorem scanRound_does (f : ScanFacts) : Does (.scanRound d f) s
    (((((s.countLate d f.late).readDiodes d f).railVolts d f.railMv).checkStale d).endRound d f.eyeMargin) := by
  show execScanRound d f s = commit s _
  unfold execScanRound
  rw [hup, if_neg Bool.false_ne_true]

/-! ### The estimator -/

/-- R382, R383: the estimator takes a window, and calibrates at the eighth quiet one. -/
theorem estimatorWindow_does {m sp mv k : Nat} {rs sps : List Nat} {h : Hk} (hk : k = Config.leak mv (s.hk.get d).diodeNow)
    (hh : h = (s.hk.get d).window m k rs (quietWindow sp sps)) : Does (.estimatorWindow d m sp rs sps mv) s
    (if h.quietRun < 8 ∨ h.steady = false ∨ k = 0 then s.setHk d h
     else (s.setHk d h).calibrated d (h.quietPoint k rs :: h.coeff.drop 1) 1) := by
  subst hh hk
  show execEstimatorWindow d m sp rs sps mv s = commit s _
  unfold execEstimatorWindow
  dsimp only
  rw [hup, if_neg Bool.false_ne_true]

/-- R384: a fit over 256 windows that is good enough calibrates. -/
theorem estimatorRegression_does {f : Nat × List Int} (hn : 256 ≤ (s.hk.get d).windows.length)
    (hf : f = Config.regressionFit (s.hk.get d).windows) : Does (.estimatorRegression d) s
    (if s.fld (measPg d + 0x208) 12 8 ≤ f.1 ∧ (s.hk.get d).residualOk f.2 = true then s.calibrated d f.2 2 else s) := by
  subst hf
  show execEstimatorRegression d s = commit s _
  unfold execEstimatorRegression
  dsimp only
  rw [if_neg (by simp [hup, hn])]

/-- R385: a calibration that is too old is marked. -/
theorem estimatorStale_does (hfresh : s.flag (measPg d + 0x204) 30 = false) :
    Does (.estimatorStale d) s ((s.carry (s.staleAt d)).goStale d) := by
  show execEstimatorStale d s = commit s _
  unfold execEstimatorStale
  rw [if_neg (by simp [hup, hfresh])]

/-! ### Leadership -/

/-- R313: a heartbeat is sent with the die's epoch and claim. -/
theorem heartbeatSend_does : Does (.heartbeatSend d) s
    { s with out := s.out ++ [.heartbeat d (s.epoch d) (s.leads d) (Config.bootStamp s.host.boots)] } := by
  show execHeartbeatSend d s = commit s _
  unfold execHeartbeatSend
  rw [hup, if_neg Bool.false_ne_true]

/-- R373: a die without cap commands holds 1.2 GHz. -/
theorem capCommandTimeout_does : Does (.capCommandTimeout d) s ((s.carry ((s.hk.get d).lastCap + 200000)).holdCaps d) := by
  show execCapCommandTimeout d s = commit s _
  unfold execCapCommandTimeout
  rw [hup, if_neg Bool.false_ne_true]

/-- R313: without a heartbeat for 1 ms the half leads, or enters the split state. -/
theorem heartbeatLoss_does {a : Nat} {t : State} (ha : (s.hk.get d).lastBeat = some a)
    (hwhole : s.flag (leadPg d + 0x104) 1 = false) (ht : t = (s.carry (a + 1000000)).noBeat d) (b : Bool) :
    Does (.heartbeatLoss d b) s (if b = true then t.takeLead d else t.enterSplit d) := by
  subst ht
  show execHeartbeatLoss d b s = commit s _
  unfold execHeartbeatLoss
  rw [ha]
  dsimp only
  rw [if_neg (by simp [hup, hwhole])]

end

/-- R313: a heartbeat that arrives settles a claim or ends a split. -/
theorem heartbeatRx_does {e : Nat} {c : Bool} {st : BitVec 32} {h : Hk} {t : State} (hh : h = (s.hk.get d).heard s.now e st)
    (ht : t = s.setHk d h) : Does (.heartbeatRx d e c st) s
    (if t.flag (leadPg d + 0x104) 1 = true then
      (if h.beatsSince.getD s.now + 1000000 ≤ s.now then t.endSplit d e else t)
     else if c = true then t.settleClaim d e else t) := by
  subst ht hh
  show execHeartbeatRx d e c st s = commit s _
  rfl

section
variable (hrun : s.power d < 2)
include hrun

/-- R301: a die that answers no probe three times wedges the package. -/
theorem wedgeProbe_does (b : Bool) : Does (.wedgeProbe d b) s (if b = true then s.setMisses d 0
    else if (s.hk.get d).probeMisses + 1 < 3 then s.setMisses d ((s.hk.get d).probeMisses + 1)
    else (s.setMisses d ((s.hk.get d).probeMisses + 1)).wedge d 1) := by
  show execWedgeProbe d b s = commit s _
  unfold execWedgeProbe
  rw [if_neg (Nat.not_le.mpr hrun)]

/-- R301: an SCC whose counter stands while requests live wedges the package. -/
theorem sccBeatTimeout_does : Does (.sccBeatTimeout d) s
    (if s.fld (hkPg d + 0x108) 0 32 ≠ (s.hk.get d).beatSeen ∨ (!s.quiley.reqs.any (fun r => r.stat.live)) = true then s.sawBeat d
     else (s.carry ((s.hk.get d).beatAt + s.fld (hkPg d + 0x104) 8 16 * 1000000)).wedge d 2) := by
  show execSccBeatTimeout d s = commit s _
  unfold execSccBeatTimeout
  rw [if_neg (Nat.not_le.mpr hrun)]

end

end

end Sys2Proof.Machine

namespace Sys2Proof

open Machine

/-- Settles O43: each command of the sensors and clocks by what the die's housekeeping state holds. -/
theorem sensorsAndClocks : Obligations.SensorsAndClocks := by
  unfold Obligations.SensorsAndClocks
  intro s d
  refine ⟨railOffStep_does_nothing, fun r l hr => ⟨fun hno => ?_, fun hsome => ?_⟩,
    fun k t hk ht hfirst => ⟨tripCompare_does hk ht hfirst, rfl⟩, fun k t ht => tripCompare_does_nothing ht,
    fun r hr => ⟨avsTransaction_does_answer hr, fun a ha => ⟨fun htries => ?_, fun htries => ?_⟩⟩,
    fun c hc hidle => voltageSettled_does hc (noFrame_of_forall hidle),
    fun l v t hup => ⟨fun ht => currentSample_does hup ht, fun ht => currentSample_does hup ht⟩,
    fun a ha => powerExcursionTimer_does ha, fun a ha => ⟨fun hfresh => ?_, fun hstale => ?_⟩,
    fun hup hon => ⟨fun hrise => ?_, fun hfall => ?_⟩, fun hup hoff => ?_, fun f hup => scanRound_does hup f,
    pllLockLoss_does, pllLockRegain_does⟩
  · have hdoes := railOffStep_does hr
    rwa [noFrame_of_forall hno, if_neg Bool.false_ne_true] at hdoes
  · obtain ⟨q, hq, hoff⟩ := hsome
    have hany : (s.hk.get d).avs.any (fun q => q.kind == .off) = true := List.any_eq_true.mpr ⟨q, hq, beq_iff_eq.mpr hoff⟩
    have hdoes := railOffStep_does hr
    rwa [if_pos hany] at hdoes
  · have hdoes := avsTransaction_does_retry hr ha
    rwa [if_pos htries] at hdoes
  · have hdoes := avsTransaction_does_retry hr ha
    rwa [if_neg (Nat.not_lt.mpr htries)] at hdoes
  · have hdoes := clockRaiseTimer_does ha
    rwa [if_pos hfresh] at hdoes
  · have hdoes := clockRaiseTimer_does ha
    rwa [if_neg (Bool.eq_false_iff.mp hstale)] at hdoes
  · have hdoes := throttleStepTimer_does hup
    rwa [if_pos hon, if_pos hrise] at hdoes
  · have hdoes := throttleStepTimer_does hup
    rwa [if_pos hon, if_neg (Bool.eq_false_iff.mp hfall)] at hdoes
  · have hdoes := throttleStepTimer_does hup
    rwa [if_neg (Bool.eq_false_iff.mp hoff)] at hdoes

/-- Settles O44: the estimator by its windows, and leadership by the heartbeats and probes heard. -/
theorem estimatorAndLeadership : Obligations.EstimatorAndLeadership := by
  unfold Obligations.EstimatorAndLeadership
  intro s d
  refine ⟨fun m sp rs sps mv k h hup hk hh => ⟨fun hwait => ?_, fun hrun hsteady => ?_⟩,
    fun f hup hn hf => estimatorRegression_does hup hn hf, fun hup hfresh => estimatorStale_does hup hfresh, heartbeatSend_does,
    fun e c st h t hh ht => ?_, capCommandTimeout_does, fun a t hup ha hwhole ht => ⟨heartbeatLoss_does hup ha hwhole ht true,
      heartbeatLoss_does hup ha hwhole ht false⟩, fun hrun => ⟨wedgeProbe_does hrun true, fun n hn => ?_⟩,
    fun hrun hmoved => ?_, fun hrun hstands hlive => ?_, ?_⟩
  · have hdoes := estimatorWindow_does hup hk hh
    rwa [if_pos (hwait.imp id .inl)] at hdoes
  · have hdoes := estimatorWindow_does hup hk hh
    by_cases h0 : k = 0
    · rw [if_pos (.inr (.inr h0))] at hdoes
      rwa [if_pos h0]
    · rw [if_neg (by simp [hrun, hsteady, h0])] at hdoes
      rwa [if_neg h0]
  · have hdoes := heartbeatRx_does (c := c) hh ht
    refine ⟨fun hwhole hc => ?_, fun hwhole hc => ?_, fun hsplit hlong => ?_, fun hsplit hshort => ?_⟩
    · rwa [if_neg (Bool.eq_false_iff.mp hwhole), if_pos hc] at hdoes
    · rwa [if_neg (Bool.eq_false_iff.mp hwhole), if_neg (Bool.eq_false_iff.mp hc)] at hdoes
    · rwa [if_pos hsplit, if_pos hlong] at hdoes
    · rwa [if_pos hsplit, if_neg (Nat.not_le.mpr hshort)] at hdoes
  · subst hn
    have hdoes := wedgeProbe_does hrun false
    rw [if_neg Bool.false_ne_true] at hdoes
    exact ⟨fun hfew => by rwa [if_pos hfew] at hdoes, fun hmany => by rwa [if_neg (Nat.not_lt.mpr hmany)] at hdoes⟩
  · have hdoes := sccBeatTimeout_does hrun
    rwa [if_pos (.inl hmoved)] at hdoes
  · have hdoes := sccBeatTimeout_does hrun
    rwa [if_neg (by rw [hlive]; simp [hstands])] at hdoes
  · show execAliveLapse d s = commit s _
    rfl

end Sys2Proof
end

section
/-!
PROOFS. Queue pairs and the commands of serving (R316 to R321, R329, R332, R333, R337, R339, R340).
-/

namespace Sys2Proof.Machine

/-! ### Queue pairs -/

section
variable {s : State} {f k : Nat} (v : Word)

/-- R316: a running pair's tail within the free entries is taken; one past them stops the pair. -/
theorem sccSqTailWrite_does (hf : f ≤ 16) (hk : k ≤ 3) (hrun : s.pairRuns f k = true) :
    Does (.sccSqTailWrite f k v) s
      (if (v.toNat % 65536 + 65536 - s.sqTail f k) % 65536 + (s.sqTail f k + 65536 - s.sqHead f k) % 65536 ≤ 2 ^ s.sqLog2 f k
        then s.setFld (s.qpBase f k + 0x18) 0 16 v.toNat
        else (s.setFlag (s.qpBase f k + 0x14) 1 true).setFlag (s.qpBase f k + 0x14) 0 false) := by
  have hgo : ¬ (16 < f ∨ 3 < k ∨ (!s.pairRuns f k) = true) := by simp [hf, hk, hrun]
  show commit s (writeSqTail f k v s) = commit s _
  unfold writeSqTail
  rw [if_neg hgo]

theorem sccSqTailWrite_does_nothing (hrun : s.pairRuns f k = false) : Does (.sccSqTailWrite f k v) s s := by
  have hstop : 16 < f ∨ 3 < k ∨ (!s.pairRuns f k) = true := by simp [hrun]
  show commit s (writeSqTail f k v s) = commit s s
  unfold writeSqTail
  rw [if_pos hstop]

/-- R317: a completion head frees entries for the events that wait. -/
theorem sccCqHeadWrite_does (hf : f ≤ 16) (hk : k ≤ 3) :
    Does (.sccCqHeadWrite f k v) s
      (State.drainCq f k ((s.pair f k).waiting.length + 1) (s.setFld (s.qpBase f k + 0x1C) 0 16 v.toNat)) := by
  have hgo : ¬ (16 < f ∨ 3 < k) := by simp [hf, hk]
  show commit s (writeCqHead f k v s) = commit s _
  unfold writeCqHead
  rw [if_neg hgo]

/-- R316: what a configuration leaves, by whether the pair was asked to run and is asked to run now. -/
theorem sccQpCfgWrite_does (hf : f ≤ 16) (hk : k ≤ 3) {t : State} (ht : t = s.setQpCfg f k v.toNat) :
    Does (.sccQpCfgWrite f k v) s
      (if s.flag (s.qpBase f k + 0x10) 8 then (if asksRun v.toNat then t else t.stopPair f k)
        else if asksRun v.toNat && t.pairMay f then t.startPair f k else t) := by
  have hgo : ¬ (16 < f ∨ 3 < k) := by simp [hf, hk]
  show commit s (writeQpCfg f k v s) = commit s _
  unfold writeQpCfg
  rw [if_neg hgo, ht]

end

/-! ### Commands -/

section
variable {s t : State} {f k : Nat} {b : List Byte} {e : SqEntry}

/-- R318: a command whose entry was taken is refused with the first of its reasons that holds, and runs where none does. -/
theorem command_does {c : Instr} {op : Nat} {l : SqEntry → State → List (Bool × Nat)} {r : SqEntry → State → State}
    {w : List (Bool × Nat)} (hc : exec c s = commit s (s.command op f k b l r)) (ht : s.takeEntry f k = some t)
    (he : e = sqEntry f k b) (hop : sqOpcode b = op ∨ knownSq (sqOpcode b) = false)
    (hw : w = (t.shutOut e, 8) :: (sqOpcode b != op, 1) :: l e t) :
    (∀ n, verdict w = some n → Does c s (t.refuse e n 0)) ∧ (verdict w = none → Does c s (r e t)) := by
  subst he hw
  exact ⟨fun n hv => hc.trans (congrArg (commit s) (cmd_no ht hop hv)), fun hv => hc.trans (congrArg (commit s) (cmd_yes ht hop hv))⟩

theorem setPolicy_exec {b0 : List Byte} {pt dw dl g mx h : Nat} (hb : b = policyBytes b0 pt dw dl g mx h) :
    exec (.setPolicy ⟨f, k, b0⟩ pt dw dl g mx h) s =
      commit s (s.command 0x20 f k b (policyReasons (policyPart b) (policyOf b)) (State.runPolicy (policyPart b) (policyOf b))) := by
  rw [hb]
  rfl

/-- R321, R337: a SUBMIT without a shadow enters the table, unless the steps' bound is past its period. -/
theorem runSubmit_of_alone {a : Bool × Bool} {x : Serve} (hx : x = (t.newReq e).withPeer none) (hs : e.shadow = false) :
    State.runSubmit a e t = match t.overRate x with
      | some us => t.refuse e 4 us
      | none => (((t.addReq x).tellPeer x).reqEvent x 0x01 0 0).startPrefill x.part := by
  have hentry : (t.newReq e).entry = e := rfl
  unfold State.runSubmit State.enrol
  rw [hentry]
  dsimp only
  rw [if_neg (Bool.eq_false_iff.mp hs), ← hx]
  exact (if_neg (by simp [hs])).trans (by cases t.overRate x <;> rfl)

theorem runCancel_of_found {x : Serve} (hx : t.byId e.function e.requestId = some x) :
    State.runCancel e t = t.cancelReq x := by
  unfold State.runCancel
  rw [hx]

theorem runQuery_of_found {x : Serve} (hx : t.asked e = some x) :
    State.runQuery e t = t.event e.function e.pair e.requestId 0x0C x.stat.code x.committed 0 0 := by
  unfold State.runQuery
  rw [hx]

end

end Sys2Proof.Machine

namespace Sys2Proof

open Machine

/-- Settles O45: queue pair registers by the pair's state, and commands by the first of their reasons that holds. -/
theorem servingCommands : Obligations.ServingCommands := by
  unfold Obligations.ServingCommands
  refine ⟨fun s f k v hf hk => ⟨fun hrun => ⟨fun hfree => ?_, fun hpast => ?_⟩, sccSqTailWrite_does_nothing v,
    sccCqHeadWrite_does v hf hk, fun t ht => ?_⟩, fun s t f k b e ht he => ⟨?_, ?_, ?_, ?_, ?_, ?_⟩⟩
  · have hdoes := sccSqTailWrite_does v hf hk hrun
    rwa [if_pos hfree] at hdoes
  · have hdoes := sccSqTailWrite_does v hf hk hrun
    rwa [if_neg (Nat.not_le.mpr hpast)] at hdoes
  · have hdoes := sccQpCfgWrite_does v hf hk ht
    refine ⟨fun hwas hnow hmay => ?_, fun hwas hnow => ?_, fun hwas hmay => ?_, fun hsame => ?_⟩
    · rwa [if_neg (Bool.eq_false_iff.mp hwas), hnow, hmay] at hdoes
    · rwa [if_pos hwas, hnow] at hdoes
    · rwa [if_neg (Bool.eq_false_iff.mp hwas), hmay, Bool.and_false] at hdoes
    · rw [hsame] at hdoes
      cases hnow : asksRun v.toNat <;> rwa [hnow] at hdoes
  · intro a p op c l r w hmem hop hw
    refine command_does ?_ ht he hop hw
    simp only [List.mem_cons, Prod.mk.injEq, List.not_mem_nil, or_false] at hmem
    rcases hmem with ⟨rfl, rfl, rfl, rfl⟩ | ⟨rfl, rfl, rfl, rfl⟩ | ⟨rfl, rfl, rfl, rfl⟩ | ⟨rfl, rfl, rfl, rfl⟩ |
      ⟨rfl, rfl, rfl, rfl⟩ | ⟨rfl, rfl, rfl, rfl⟩ | ⟨rfl, rfl, rfl, rfl⟩ <;> rfl
  · intro b0 pt dw dl g mx h c w hb hc hop hw
    exact command_does (l := policyReasons (policyPart b) (policyOf b)) (r := State.runPolicy (policyPart b) (policyOf b))
      (hc ▸ setPolicy_exec hb) ht he hop hw
  · intro a x hx hs hrate
    rw [runSubmit_of_alone hx hs, hrate]
  · intro a x us hx hs hrate
    rw [runSubmit_of_alone hx hs, hrate]
  · intro x y hx hy
    subst he hy
    exact runCancel_of_found hx
  · intro x hx
    subst he
    exact runQuery_of_found hx

end Sys2Proof
end

section
/-!
PROOFS. Prefills, steps, commits and holds of requests (R314, R323, R325 to R330, R334 to R336, R340, R359).
-/

namespace Sys2Proof.Machine

section
variable {s : State}

/-- R323: a prefill whose launches are done takes the gap's work, or has its SUMMARISEs made, and may end. -/
theorem prefillDone_does {n : Nat} {r : Serve} {t : State} (hr : s.req n = some r) (hup : s.serving = true)
    (hstat : r.stat = .prefill) (hlive : r.masked = false) (hdone : r.launches.any s.launchLeft = false)
    (ht : t = if r.summed = true then s.gapWork r.part else s.sumPrompt r) :
    Does (.prefillDone n) s (match t.req n with | some x => t.endPrefill x | none => t) := by
  have hgo : ¬ ((!s.serving) = true ∨ r.stat ≠ .prefill ∨ r.masked = true ∨ r.launches.any s.launchLeft = true) := by
    rw [hdone]
    simp [hup, hstat, hlive]
  show execPrefillDone n s = commit s _
  unfold execPrefillDone
  rw [hr]
  dsimp only
  rw [← ht]
  exact congrArg (commit s) ((if_neg hgo).trans (by cases t.req n <;> rfl))

theorem endPrefill_of_accepted {x : Serve} (h : s.sumsLeft x = false) :
    s.endPrefill x = ((s.setReq x.prefilled).drawToken x.prefilled).startPrefill x.part := if_neg (Bool.eq_false_iff.mp h)

theorem endPrefill_of_left {x : Serve} (h : s.sumsLeft x = true) : s.endPrefill x = s := if_pos h

/-- R325, R326: a step that may be issued is watched to its deadline, or has its bound told. -/
theorem stepIssue_does {p : Nat} {d : Die} {m c : Nat} {h t : State} {st : ServeStep}
    (hh : h = (s.carry (mget 0 s.quiley.gapUntil p)).holdCold p) (hmay : h.mayStep p d m c = true)
    (hst : st = h.newStep p d m c) (ht : t = h.issueStep p st) :
    Does (.stepIssue p d m c) s (match h.promise p with
      | some dl => t.watchStep p st dl
      | none => t.tellSlow (h.nextLanes p) (h.nextBound p)) := by
  show execStepIssue p d m c s = commit s _
  unfold execStepIssue
  dsimp only
  rw [← hh, ← hst, ← ht]
  exact congrArg (commit s) ((if_neg (by simp [hmay])).trans (by cases h.promise p <;> rfl))

/-- R325: where no step may be issued and none runs, the gap's work goes. -/
theorem stepIssue_does_gap {p : Nat} {d : Die} {m c : Nat} {h : State}
    (hh : h = (s.carry (mget 0 s.quiley.gapUntil p)).holdCold p) (hmay : h.mayStep p d m c = false)
    (hup : s.serving = true) (hnone : mget none s.quiley.steps p = none) :
    Does (.stepIssue p d m c) s ((s.holdCold p).gapWork p) := by
  show execStepIssue p d m c s = commit s _
  unfold execStepIssue
  dsimp only
  rw [← hh, if_pos (by simp [hmay]), if_pos (by simp [hup, hnone])]

/-- R327, R328: a step of which nothing is left commits. -/
theorem stepCommit_does {p : Nat} {st : ServeStep} (hst : mget none s.quiley.steps p = some st) (hup : s.serving = true)
    (hdone : s.stepDone p st = true) : Does (.stepCommit p) s (s.commitStep p st) := by
  show execStepCommit p s = commit s _
  unfold execStepCommit
  rw [hst]
  dsimp only
  rw [if_neg (by simp [hup, hdone])]

/-- R336: an orphan whose hold has ended is released. -/
theorem orphanHoldExpiry_does {n : Nat} {r : Serve} (hr : s.req n = some r) (hstat : r.stat = .orphaned) :
    Does (.orphanHoldExpiry n) s (((s.carry (r.orphanAt + (s.policy r.part).holdS * 1000000000)).release r).dropReq n) := by
  show execOrphanHoldExpiry n s = commit s _
  unfold execOrphanHoldExpiry
  rw [hr]
  dsimp only
  rw [if_pos hstat]

/-- R334: a lane whose spare has not come is held; one whose pages are back waits no longer. -/
theorem spareWaitExpiry_does {n a : Nat} {r : Serve} (hr : s.req n = some r) (hwait : r.spareWait = some a)
    (hlive : r.stat.live = true) (hmask : r.masked = false) :
    Does (.spareWaitExpiry n) s (if s.whole r = true then s.setReq { r with spareWait := none }
      else ((s.carry (a + 1000000)).holdLane r).gapWork r.part) := by
  have hgo : ¬ (!r.stat.live || r.masked) = true := by simp [hlive, hmask]
  show execSpareWaitExpiry n s = commit s _
  unfold execSpareWaitExpiry
  rw [hr]
  dsimp only
  rw [hwait]
  dsimp only
  rw [if_neg hgo]

/-- R359: the hold on a half ends once no slice stands there. -/
theorem repairHoldExpiry_does {n h : Nat} (hno : s.noSlice n (fun u => decide (u / 256 = h)) = true) :
    Does (.repairHoldExpiry n h) s ((s.carry (s.holdEnds n h)).freeHalf (n * 2 + h)).quileyNote :=
  congrArg (commit s) (if_pos hno)

end

end Sys2Proof.Machine

namespace Sys2Proof

open Machine

/-- Settles O46: each command of the requests' lives by what it finds. -/
theorem queuesAndSteps : Obligations.QueuesAndSteps := by
  unfold Obligations.QueuesAndSteps
  intro s
  refine ⟨fun n r t hr hup hstat hlive hdone ht => ?_, fun p d m c h st t hh => ⟨fun hmay hst ht => ?_, stepIssue_does_gap hh⟩,
    fun p st t hst hup hdone ht => ?_, fun n r hr hstat => orphanHoldExpiry_does hr hstat,
    fun n r a hr hwait hlive hmask => ?_, fun n h hno => repairHoldExpiry_does hno⟩
  · have hdoes := prefillDone_does hr hup hstat hlive hdone ht
    refine ⟨fun x hx hall => ?_, fun x hx hleft => ?_, fun hnone => ?_⟩
    · rw [hx] at hdoes
      rwa [← endPrefill_of_accepted hall]
    · rw [hx] at hdoes
      dsimp only at hdoes
      rwa [endPrefill_of_left hleft] at hdoes
    · rwa [hnone] at hdoes
  · have hdoes := stepIssue_does hh hmay hst ht
    exact ⟨fun dl hdl => by rwa [hdl] at hdoes, fun hnone => by rwa [hnone] at hdoes⟩
  · rw [ht]
    exact stepCommit_does hst hup hdone
  · have hdoes := spareWaitExpiry_does hr hwait hlive hmask
    exact ⟨fun hpart => by rwa [if_neg (Bool.eq_false_iff.mp hpart)] at hdoes, fun hwhole => by rwa [if_pos hwhole] at hdoes⟩

end Sys2Proof
end

section
/-!
PROOFS. The configuration store and the fused versions (R404, R405, R407, R409).
-/

namespace Sys2Proof.Machine

/-! ### Areas and their copies -/

/-- R404: a write never goes to a valid copy in use. -/
theorem Store.target_ne_used {x : Store} {a : Nat} (h : (x.copy a (x.used a)).valid = true) : x.target a ≠ x.used a := by
  have hbit : x.used a = 0 ∨ x.used a = 1 := by
    unfold Store.used
    cases (if a = 0 then x.dataUse else x.fwUse)
    · exact .inl rfl
    · exact .inr rfl
  unfold Store.target
  rw [if_pos h]
  omega

/-- The parts of the store that its copies read. -/
theorem Store.copy_withWriting (x : Store) (o : Option StoreWrite) (b c : Nat) :
    ({ x with writing := o } : Store).copy b c = x.copy b c := rfl

theorem Store.copy_setCopy_of_ne {x : Store} {y : StoreCopy} {a e b c : Nat} (ha : a ≤ 1) (he : e ≤ 1) (hb : b ≤ 1) (hc : c ≤ 1)
    (hne : ¬ (b = a ∧ c = e)) : (x.setCopy a e y).copy b c = x.copy b c := by
  unfold Store.setCopy Store.copy
  obtain rfl | rfl : a = 0 ∨ a = 1 := by omega
  · split <;> grind
  · split <;> grind

theorem Store.copy_runOp_of_ne {x : Store} {w : StoreWrite} {b c : Nat} (ha : w.area ≤ 1) (he : w.copy ≤ 1) (hb : b ≤ 1)
    (hc : c ≤ 1) (hne : ¬ (b = w.area ∧ c = w.copy)) : (x.runOp w).copy b c = x.copy b c :=
  (Store.copy_withWriting _ _ b c).trans (Store.copy_setCopy_of_ne ha he hb hc hne)

/-! ### Writes and their operations -/

section
variable {s : State}

theorem storeRequest_idle (h : s.store.writing = none) (a : Nat) : s.storeRequest a = s.storeBegin a := by
  unfold State.storeRequest
  rw [h]

theorem storeRequest_busy {w : StoreWrite} (h : s.store.writing = some w) (a : Nat) :
    s.storeRequest a = s.withStore (s.store.queueWrite a) := by
  unfold State.storeRequest
  rw [h]

theorem cfgStoreWrite_does {a : Nat} (ha : a ≤ 1) : Does (.cfgStoreWrite a) s (s.storeRequest a) :=
  congrArg (commit s) (if_neg (Nat.not_lt.mpr ha))

theorem cfgStoreOp_does_warm (hwarm : s.storeWarm = true) : Does .cfgStoreOp s (s.holdStore false).storeOp :=
  congrArg (commit s) (if_pos hwarm)

theorem cfgStoreOp_does_cold (hcold : s.storeWarm = false) (hwait : s.store.writing.isSome = true ∨ s.store.svnWaiting = true) :
    Does .cfgStoreOp s (s.holdStore true) :=
  congrArg (commit s) ((if_neg (Bool.eq_false_iff.mp hcold)).trans (if_pos (Bool.or_eq_true _ _ ▸ hwait)))

/-- Holding the store changes no part of it. -/
theorem holdStore_store (on : Bool) : (s.holdStore on).store = s.store := State.setFlag_store ..

theorem holdStore_host (on : Bool) : (s.holdStore on).host = s.host := State.setFlag_host ..

theorem mayCommit_holdStore (on : Bool) (w : StoreWrite) : (s.holdStore on).mayCommit w = s.mayCommit w := by
  unfold State.mayCommit
  rw [holdStore_host]

theorem storeOp_burns (h : s.store.svnWaiting = true) : s.storeOp = s.burnSvn := if_pos h

theorem storeOp_runs {w : StoreWrite} (h : s.store.svnWaiting = false) (hw : s.store.writing = some w) (hops : w.ops < 4)
    (hmay : w.ops = 3 → s.mayCommit w = true) : s.storeOp = s.withStore (s.store.runOp w) := by
  have hgo : ¬ (4 ≤ w.ops ∨ (w.ops = 3 ∧ (!s.mayCommit w) = true)) := by
    rintro (hfull | ⟨hthree, hno⟩)
    · exact absurd hops (Nat.not_lt.mpr hfull)
    · rw [hmay hthree] at hno
      exact Bool.false_ne_true hno
  unfold State.storeOp
  rw [if_neg (Bool.eq_false_iff.mp h), hw]
  dsimp only
  rw [if_neg hgo]

/-- R405, R407: the commit done, the copy is in use, the next write begins, and so does a boot that waited. -/
theorem cfgStoreWriteDone_does {w : StoreWrite} (hw : s.store.writing = some w) (hops : 4 ≤ w.ops) :
    Does .cfgStoreWriteDone s ((((s.withStore (s.store.written w)).bump s.cfgstPage 0x040 32 1).storeNext).bootNow) := by
  show execCfgStoreWriteDone s = commit s _
  unfold execCfgStoreWriteDone
  rw [hw]
  dsimp only
  rw [if_neg (Nat.not_lt.mpr hops)]
  rfl

/-- R409: partition 0 has the fused versions raised, or held until the die's temperature allows it. -/
theorem cfgstSvnCommit_does {who : Who} {v : Word} (hw : who.root = true) (hgo : bit v.toNat 0 = true) :
    Does (.cfgstSvnCommit who v) s
      (if s.storeWarm = true then s.burnSvn else (s.withStore s.store.queueSvn).holdStore true) := by
  show commit s (writeSvnCommit who v s).1 = commit s _
  unfold writeSvnCommit
  rw [rootOnly_ok hw, if_neg (by simp [hgo])]
  cases s.storeWarm <;> rfl

end

end Sys2Proof.Machine

namespace Sys2Proof

open Machine

/-- Settles O47: the store's writes by whether one runs and whether the die is warm enough. -/
theorem configurationStore : Obligations.ConfigurationStore := by
  unfold Obligations.ConfigurationStore
  intro s a w who v
  refine ⟨fun hidle ha => storeRequest_idle hidle a ▸ cfgStoreWrite_does ha,
    fun hbusy ha => storeRequest_busy hbusy a ▸ cfgStoreWrite_does ha, fun _ hvalid => Store.target_ne_used hvalid,
    fun hwarm hburn => ?_, fun hwarm hburn hw hops hmay => ?_, cfgStoreOp_does_cold,
    fun ha he b c hb hc hne => Store.copy_runOp_of_ne ha he hb hc hne, fun hw hops => cfgStoreWriteDone_does hw hops,
    fun hw hgo => ⟨fun hwarm => ?_, fun hcold => ?_⟩, Nat.le_max_left _ _, Nat.le_max_left _ _⟩
  · rw [← holdStore_store false] at hburn
    exact storeOp_burns hburn ▸ cfgStoreOp_does_warm hwarm
  · rw [← holdStore_store false] at hburn hw ⊢
    exact storeOp_runs hburn hw hops (fun hthree => (mayCommit_holdStore false w).trans (hmay hthree)) ▸ cfgStoreOp_does_warm hwarm
  · have hdoes := cfgstSvnCommit_does (s := s) hw hgo
    rwa [if_pos hwarm] at hdoes
  · have hdoes := cfgstSvnCommit_does (s := s) hw hgo
    rwa [if_neg (Bool.eq_false_iff.mp hcold)] at hdoes

end Sys2Proof
end

section
/-!
PROOFS. Requests of the host, DMA and the host's resets (R395, R411, R413 to R418).
-/

namespace Sys2Proof.Machine

/-! ### Requests of the host -/

section
variable {s : State} {a : Nat} (hup : s.host.linkUp = true) (hin : s.host.inReset.contains (hostFunction a) = false)
include hup hin

theorem not_linkGone : ¬ (!s.host.linkUp || s.host.inReset.contains (hostFunction a)) = true := by
  rw [hin, hup]
  exact Bool.false_ne_true

/-- R411, R413: a read is performed, waits behind a posted write of its function, or wakes the domain it is for. -/
theorem hostRead_does (n : Nat) : Does (.hostRead a n) s (s.hostReadIn a n) :=
  congrArg (commit s) (if_neg (not_linkGone hup hin))

theorem hostWrite_does (b : List Byte) (ep : Bool) : Does (.hostWrite a b ep) s (s.hostWriteIn a b ep) :=
  congrArg (commit s) (if_neg (not_linkGone hup hin))

end

section
variable {s t : State} {a n : Nat}

theorem hostReadIn_go (h : s.hostWait a n = .go) : s.hostReadIn a n = s.hostReadGo a n := by
  unfold State.hostReadIn
  rw [h]

theorem hostReadIn_held (h : s.hostWait a n = .held) : s.hostReadIn a n = s.hold (.hostRead a n) := by
  unfold State.hostReadIn
  rw [h]

theorem hostReadIn_wake {w : Die} (h : s.hostWait a n = .wake w) : s.hostReadIn a n = (s.wakeDie w).hold (.hostRead a n) := by
  unfold State.hostReadIn
  rw [h]

variable {b : List Byte} {ep : Bool}

theorem hostWriteIn_go (h : s.hostWait a b.length = .go) : s.hostWriteIn a b ep = s.hostWriteGo a b ep := by
  unfold State.hostWriteIn
  rw [h]

theorem hostWriteIn_held (h : s.hostWait a b.length = .held) : s.hostWriteIn a b ep = s.hold (.hostWrite a b ep) := by
  unfold State.hostWriteIn
  rw [h]

theorem hostWriteIn_wake {w : Die} (h : s.hostWait a b.length = .wake w) :
    s.hostWriteIn a b ep = (s.wakeDie w).hold (.hostWrite a b ep) := by
  unfold State.hostWriteIn
  rw [h]

theorem hostReadGo_nothing (h : s.hostPlace a n = .nothing) : s.hostReadGo a n = (s.hostHole a).emit .cplUr := by
  unfold State.hostReadGo
  rw [h]

/-- R413: a location whose bytes are good completes with them. -/
theorem hostReadGo_good (h : s.hostPlace a n = .addr a) (hr : s.spotRead .host (askedBy s.pciePage 3) 0 false a n = (t, 0, b)) :
    s.hostReadGo a n = (t.countFar (spotDie a) t.active n).emit (.cplData b) := by
  unfold State.hostReadGo
  rw [h]
  dsimp only
  rw [hr]
  rfl

end

/-! ### DMA -/

section
variable {s : State} {ch : Nat}

/-- R415: a running channel's tail within the free entries is taken; one past them stops the channel. -/
theorem dmaTailWrite_does {who : Who} {x : Nat} (v : Nat) (hw : who.root = true) (hch : ch < 16) (hrun : s.dmaRuns ch = true)
    (hx : x = s.dmaBase ch) (hz : s.regSleeps (x + 0x14) = none) :
    Does (.dmaTailWrite who ch v) s
      (if (v % 65536 + 65536 - s.fld (x + 0x14) 0 16) % 65536 +
          (s.fld (x + 0x14) 0 16 + 65536 - s.fld (x + 0x10) 0 16) % 65536 ≤ 2 ^ s.fld (x + 8) 0 4
        then s.setFld (x + 0x14) 0 16 v else s.setFlag (x + 0x0C) 1 true) := by
  have hgo : ¬ (16 ≤ ch ∨ (!s.dmaRuns ch) = true) := by simp [hch, hrun]
  rw [hx] at hz ⊢
  refine does_of_crossed rfl hz ?_
  unfold writeDmaTail
  rw [rootOnly_ok hw]
  dsimp only
  rw [if_neg hgo]
  rfl

variable {t : State} {d : DmaDesc} {k : State → DmaDesc → State} {x : List Byte}
  (hr : s.homeRead (askedBy s.pciePage 0xFF) 0 (s.dmaAt ch) 32 = (t, 0, x)) (hd : d = dmaDesc x)
include hr hd

/-- R416: the oldest descriptor, in order and within reach, moves its bytes where nothing it meets sleeps. -/
theorem dmaRun_go (hok : dmaDescOk d = true) (hreach : t.dmaReach d = true) (hgo : s.spotWait d.place = .go) :
    s.dmaRun ch k = k t d := by
  subst hd
  rw [dmaRun_at hr, if_neg (by simp [hok, hreach]), hgo]

theorem dmaRun_bad (hbad : dmaDescOk d = false ∨ t.dmaReach d = false) : s.dmaRun ch k = t.dmaEnd ch (some d) false := by
  subst hd
  rw [dmaRun_at hr, if_pos (by rcases hbad with hbad | hbad <;> simp [hbad])]

end

section
variable {s : State} {ch : Nat} (hwait : s.dmaWaits ch = true)
include hwait

theorem dmaDescriptorRun_does_data (b : List Byte) : Does (.dmaDescriptorRun ch (.data b)) s
    (s.dmaRun ch (fun t d => if d.op = 0 ∧ b.length = d.len then t.dmaIn ch d b else s)) :=
  congrArg (commit s) (if_neg (by simp [hwait]))

theorem dmaDescriptorRun_does_accepted : Does (.dmaDescriptorRun ch .accepted) s
    (s.dmaRun ch (fun t d => if d.op = 1 then t.dmaOut ch d else s)) :=
  congrArg (commit s) (if_neg (by simp [hwait]))

theorem dmaHostReadTimeout_does :
    Does (.dmaHostReadTimeout ch) s (s.dmaRun ch (fun t d => if d.op = 0 then t.dmaEnd ch (some d) false else s)) :=
  congrArg (commit s) (if_neg (by simp [hwait]))

end

/-! ### The host's resets -/

theorem perstDeassert_does {s u : State} (hu : u = (s.setPerst true).setInReset []) :
    Does .perstDeassert s (if u.mayTrain then u.trainLink else u) := by
  subst hu
  rfl

theorem functionLevelReset_does {s : State} {f : Nat} (hup : s.host.linkUp = true) (hf : f ≤ 16) :
    Does (.functionLevelReset f) s (if f = 0 then s.resetFunctions else s.resetFunction f) :=
  congrArg (commit s) (if_neg (by simp [hup, hf]))

end Sys2Proof.Machine

namespace Sys2Proof

open Machine

/-- Settles O48: host requests by what they wait for, DMA by its descriptor, and each reset by what it takes. -/
theorem hostRequestsAndResets : Obligations.HostRequestsAndResets := by
  unfold Obligations.HostRequestsAndResets
  intro s t a n ch b ep d v who
  refine ⟨fun hup hin => ⟨fun h => hostReadIn_go h ▸ hostRead_does hup hin n,
      fun h => hostReadIn_held h ▸ hostRead_does hup hin n, fun w h => hostReadIn_wake h ▸ hostRead_does hup hin n,
      fun h => hostWriteIn_go h ▸ hostWrite_does hup hin b ep, fun h => hostWriteIn_held h ▸ hostWrite_does hup hin b ep,
      fun w h => hostWriteIn_wake h ▸ hostWrite_does hup hin b ep⟩, hostReadGo_nothing, hostReadGo_good,
    fun hw hch hrun x hx hz => ⟨fun hfree => ?_, fun hpast => ?_⟩,
    fun x hwait hr hd => ⟨fun hok hreach hgo => ⟨fun h0 hlen => ?_, fun h1 => ?_, fun h0 => ?_⟩, fun hbad y => ?_⟩, rfl,
    fun u hu => ⟨fun hmay => ?_, fun hno => ?_⟩, fun hup => ⟨?_, fun f hf hlast => ?_⟩⟩
  · have hdoes := dmaTailWrite_does v hw hch hrun hx hz
    rwa [if_pos hfree] at hdoes
  · have hdoes := dmaTailWrite_does v hw hch hrun hx hz
    rwa [if_neg (Nat.not_le.mpr hpast)] at hdoes
  · have hdoes := dmaDescriptorRun_does_data hwait b
    rwa [dmaRun_go hr hd hok hreach hgo, if_pos ⟨h0, hlen⟩] at hdoes
  · have hdoes := dmaDescriptorRun_does_accepted hwait
    rwa [dmaRun_go hr hd hok hreach hgo, if_pos h1] at hdoes
  · have hdoes := dmaHostReadTimeout_does hwait
    rwa [dmaRun_go hr hd hok hreach hgo, if_pos h0] at hdoes
  · cases y with
    | data c => exact dmaRun_bad hr hd hbad ▸ dmaDescriptorRun_does_data hwait c
    | accepted => exact dmaRun_bad hr hd hbad ▸ dmaDescriptorRun_does_accepted hwait
  · have hdoes := perstDeassert_does hu
    rwa [if_pos hmay] at hdoes
  · have hdoes := perstDeassert_does hu
    rwa [if_neg (Bool.eq_false_iff.mp hno)] at hdoes
  · have hdoes := functionLevelReset_does hup (Nat.zero_le 16)
    rwa [if_pos rfl] at hdoes
  · have hdoes := functionLevelReset_does hup hlast
    rwa [if_neg (Nat.one_le_iff_ne_zero.mp hf)] at hdoes

end Sys2Proof
end

section
/-!
PROOFS. Management and the test port (R386, R419 to R421, R423 to R425).
-/

namespace Sys2Proof.Machine

/-! ### Management messages -/

section
variable {s t u : State}

/-- A message on the management bus is answered there with what it gives. -/
theorem serveMgmt_bus {r : MgmtReq} {a : List Nat} (h : manage none r s = (u, some a)) :
    s.serveMgmt none r = u.emit (if a = [4] then .mgmtNotAvailable else .mgmt a) := by
  unfold State.serveMgmt
  rw [h]
  rfl

/-- R386: what comes by the bus is served while the housekeeping rail is up. -/
theorem onBus_up (h : s.pins.rails.contains .hk = true) (r : MgmtReq) : s.onBus r = s.serveMgmt none r := if_pos h

variable (ht : t = s.bump (mgmtPg s.active) 0x040 32 1)
include ht

/-- R420: a register that management does not reach now is not available. -/
theorem serveMgmt_register_away {a : Nat} (h : t.mgmtReaches a = false) :
    s.serveMgmt none (.register a) = t.emit .mgmtNotAvailable := by
  have hm : manage none (.register a) s = manageRegister none a t := congrArg (manageRegister none a) ht.symm
  have hr : manageRegister none a t = (t, some [4]) := if_pos (by rw [h]; rfl)
  exact serveMgmt_bus (hm.trans hr)

/-- R423: one agent updates at a time. -/
theorem serveMgmt_update_other {a b : Nat} (hb : t.host.agent = some b) (hne : b ≠ a) :
    s.serveMgmt none (.update (.requestUpdate a)) = t.emit (.mgmt [2]) := by
  have hm : manage none (.update (.requestUpdate a)) s = manageUpdate (.requestUpdate a) t :=
    congrArg (manageUpdate (.requestUpdate a)) ht.symm
  have hr : manageUpdate (.requestUpdate a) t = (t, some [2]) := if_pos (by rw [hb]; simp [hne])
  exact serveMgmt_bus (hm.trans hr)

/-- R425: a failed response is recorded and bars the next challenge. -/
theorem serveMgmt_response_bad {k : Nat} {g : List Byte} (h : t.goodResponse k g = false) :
    s.serveMgmt none (.response k g) =
      ((t.noChallenge.raise (mgmtPg t.active) 0x0904 none 0 0 false false).barChallenge).emit (.mgmt [1]) := by
  have hm : manage none (.response k g) s = manageResponse k g t := congrArg (manageResponse k g) ht.symm
  exact serveMgmt_bus (hm.trans (if_neg (Bool.eq_false_iff.mp h)))

theorem serveMgmt_response_good {k : Nat} {g : List Byte} (h : t.goodResponse k g = true) :
    s.serveMgmt none (.response k g) = t.noChallenge.enterMaint.emit (.mgmt [0]) := by
  have hm : manage none (.response k g) s = manageResponse k g t := congrArg (manageResponse k g) ht.symm
  exact serveMgmt_bus (hm.trans (if_pos h))

/-- R425: no challenge within 10 s of a failed response. -/
theorem serveMgmt_challenge_barred (h : t.now < t.host.challengeNotBefore) :
    s.serveMgmt none .challenge = t.emit (.mgmt [1]) := by
  have hm : manage none .challenge s = manageChallenge t := congrArg manageChallenge ht.symm
  exact serveMgmt_bus (hm.trans (if_pos h))

end

/-- R406: what an acceptable component is. -/
theorem of_acceptable {s : State} {c v k : Nat} {image sig : List Byte} (h : s.acceptable c v k image sig = true) :
    (if c = 1 then s.fuses.hkSvn else s.fuses.sccSvn) ≤ v ∧ Config.signatureValid k image sig = true := by
  simp only [State.acceptable, Bool.and_eq_true, decide_eq_true_eq] at h
  obtain ⟨⟨_, hversion⟩, hsig⟩ := h
  exact ⟨hversion, hsig⟩

theorem of_goodResponse {s : State} {k : Nat} {g : List Byte} (h : s.goodResponse k g = true) :
    ∃ n, s.host.challenge = some n ∧ Config.signatureValid k (Config.nonce n) g = true := by
  unfold State.goodResponse at h
  cases hc : s.host.challenge with
  | none =>
    rw [hc] at h
    exact absurd h Bool.false_ne_true
  | some n =>
    rw [hc] at h
    simp only [Bool.and_eq_true] at h
    exact ⟨n, rfl, h.2⟩

/-! ### The test port -/

theorem idcode_fields (m : Nat) :
    idcode m / 2 ^ 28 = 1 ∧ idcode m / 2 ^ 12 % 2 ^ 16 = 0x2416 ∧ idcode m % 2 = 1 := by
  unfold idcode
  omega

/-- R424: the boundary scan drives pins in reset or in Maintenance mode only. -/
theorem jtagExtest_does (s : State) :
    Does .jtagExtest s (if s.pins.pkgRstN && !s.maintMode then s.jtagBlocked else s.jtagFree 3 8) := rfl

/-- R425: the port's own operations run in Maintenance mode only. -/
theorem jtagPrivate_does (s : State) (op : JtagPrivate) :
    Does (.jtagPrivate op) s (if s.maintMode then s.jtagRun op else s.jtagBlocked) := rfl

theorem jtagCore_of_lt (s : State) (d : Die) {c : Nat} (hc : c < 96) (step : Bool) : s.jtagCore d c step =
    s.setCore d c { s.core d c with jtagHalt := !step || (s.core d c).jtagHalt, jtagStep := step || (s.core d c).jtagStep } :=
  if_pos hc

end Sys2Proof.Machine

namespace Sys2Proof

open Machine

/-- Settles O49: messages by the bus, each answered with what its kind gives. -/
theorem management : Obligations.Management := by
  unfold Obligations.Management
  intro s t
  refine ⟨fun hup c r hc => ?_, fun r a ht => ⟨fun hr hno => ?_, fun b hr hb hne => ?_, fun k g hr hbad => ?_,
    fun k g hr hgood => ?_, fun hr hsoon => ?_⟩, fun c v k image sig => of_acceptable, fun k g => of_goodResponse⟩
  · have hbus : exec c s = commit s (s.onBus r) := by
      simp only [List.mem_cons, Prod.mk.injEq, List.not_mem_nil, or_false] at hc
      rcases hc with (⟨rfl, rfl⟩ | ⟨rfl, rfl⟩) | ⟨m, rfl, rfl⟩ | ⟨x, rfl, rfl⟩ | ⟨x, rfl, rfl⟩ | ⟨d, i, rfl, rfl⟩ | ⟨a, rfl, rfl⟩ |
        ⟨k, g, rfl, rfl⟩ <;> rfl
    exact hbus.trans (congrArg (commit s) (onBus_up hup r))
  · exact hr ▸ serveMgmt_register_away ht hno
  · exact hr ▸ serveMgmt_update_other ht hb hne
  · exact hr ▸ serveMgmt_response_bad ht hbad
  · exact hr ▸ serveMgmt_response_good ht hgood
  · exact hr ▸ serveMgmt_challenge_barred ht hsoon

/-- Settles O50: the test port by its mode, and the identity by arithmetic. -/
theorem testPort : Obligations.TestPort := by
  unfold Obligations.TestPort
  intro s op
  have hscan := jtagExtest_does s
  have hprivate := jtagPrivate_does s op
  refine ⟨rfl, rfl, idcode_fields, rfl, fun hmay => ?_, fun hrun hno => ?_, fun hmaint => ?_, fun hno => ?_,
    fun d c hc => ⟨?_, ?_⟩⟩
  · rwa [if_neg (by rcases hmay with h | h <;> simp [h])] at hscan
  · rwa [if_pos (by simp [hrun, hno])] at hscan
  · rwa [if_pos hmaint] at hprivate
  · rwa [if_neg (Bool.eq_false_iff.mp hno)] at hprivate
  · exact congrArg (fun t => t.emit (.jtag 4 [])) (jtagCore_of_lt s d hc false)
  · exact congrArg (fun t => t.emit (.jtag 4 [])) (jtagCore_of_lt s d hc true)

end Sys2Proof
end

section
/-!
PROOFS. Register writes, block headers and the fault log (R34, R430, R432, R435, R436, R441 to R443).
-/

namespace Sys2Proof.Machine

/-! ### A register write -/

section
variable {s : State} {who : Who} {a n : Nat} {v : Word}

theorem registerWrite_exec (hon : s.isOff = false) :
    exec (.registerWrite who a n v) s = commit s (crossed who a n v (writeAt who a n v) s) :=
  congrArg (commit s) (if_neg (by rw [hon]; exact Bool.false_ne_true))

/-- R430: a write of another size or alignment, one by management, and one where no page is change nothing. -/
theorem writeAt_denied (h : (n ≠ 4 ∧ n ≠ 8) ∨ a % n ≠ 0 ∨ who = .mgmt ∨ s.pageOk a = false) : writeAt who a n v s = denied s := by
  unfold writeAt
  by_cases hform : (!s.pageOk a || (n ≠ 4 && n ≠ 8) || a % n ≠ 0) = true
  · rw [if_pos hform]
  · rw [if_neg hform]
    by_cases hmgmt : who = .mgmt
    · rw [if_pos hmgmt]
    · exact absurd (by rcases h with ⟨h4, h8⟩ | halign | hwho | hpage <;> simp_all) hform

end

/-! ### Block headers -/

theorem rootOnly_refused {who : Who} {k : State → Written} {s : State} (hw : who.root = false) : rootOnly who k s = denied s :=
  if_neg (Bool.eq_false_iff.mp hw)

section
variable {s : State} {who : Who} {page : Nat} {v : Word}

section
variable (hp : s.pageHeader page = true)
include hp

theorem blkLockWrite_exec :
    exec (.blkLockWrite who page v) s = commit s (crossed who (page + 0x0C) 4 v (writeLock who page v) s) :=
  congrArg (commit s) (if_pos hp)

theorem blkCtrlFreeze_exec : exec (.blkCtrlFreeze who page v) s =
    commit s (crossed who (page + 0x10) 4 (w64 (v.toNat % 2)) (writeBlkCtrl who page (w64 (v.toNat % 2))) s) :=
  congrArg (commit s) (if_pos hp)

theorem blkCtrlClear_exec : exec (.blkCtrlClear who page v) s =
    commit s (crossed who (page + 0x10) 4 (w64 (v.toNat % 2 + 2)) (writeBlkCtrl who page (w64 (v.toNat % 2 + 2))) s) :=
  congrArg (commit s) (if_pos hp)

theorem blkIrqClear_exec :
    exec (.blkIrqClear who page v) s = commit s (crossed who (page + 0x18) 4 v (writeIrqStatus who page v) s) :=
  congrArg (commit s) (if_pos hp)

end

/-- R432: without the clear of its violation bit, a lock register takes its two bits, once. -/
theorem writeLock_keep (hw : who.root = true) (hviol : bit v.toNat 2 = false) : (writeLock who page v s).1 =
    if s.flag (page + 0x0C) 1 then s else s.setFld (page + 0x0C) 0 2 (v.toNat % 4) := by
  unfold writeLock
  rw [rootOnly_ok hw]
  dsimp only
  rw [if_neg (Bool.eq_false_iff.mp hviol)]
  rfl

/-- R435: BLK_CTRL freezes the counters of its page as asked, and clears them where asked. -/
theorem writeBlkCtrl_root (hw : who.root = true) : (writeBlkCtrl who page v s).1 =
    if bit v.toNat 1 then (s.freeze page (bit v.toNat 0)).clearCounters page else s.freeze page (bit v.toNat 0) := by
  unfold writeBlkCtrl
  rw [rootOnly_ok hw]
  rfl

/-- R436: the acknowledgement re-arms the capture. -/
theorem writeIrqStatus_ack (hw : who.root = true) (hpage : regType page ≠ Blk.fault) (hack : bit v.toNat 0 = true) :
    (writeIrqStatus who page v s).1 = (s.setFlag (page + 0x18) 0 false).setFld (page + 0x20) 20 2 0 := by
  unfold writeIrqStatus
  rw [rootOnly_ok hw]
  dsimp only
  rw [if_pos hack, if_neg hpage]
  rfl

/-- R34: what a page's header writes need awake. -/
theorem header_awake (hz : ∀ x ∈ [0x0C, 0x10, 0x18], s.regSleeps (page + x) = none) :
    s.regSleeps (page + 0x0C) = none ∧ s.regSleeps (page + 0x10) = none ∧ s.regSleeps (page + 0x18) = none :=
  ⟨hz _ (by decide), hz _ (by decide), hz _ (by decide)⟩

end

/-! ### The fault log -/

section
variable {s : State} {d : Die}

/-- R436, R442: a block's oldest record enters its die's log. -/
theorem faultRecordWrite_does {page : Nat} {r : FaultRec} {rest : List FaultRec} (hr : mget [] s.recQueue page = r :: rest)
    (hd : d = regDie page) : Does (.faultRecordWrite page) s
      (State.irqEdge (faultPage d) s ((((s.recTaken page rest).countDropped d (s.logFull d)).intoLog d r).flagLog d r)).tellMgmt := by
  subst hd
  show execFaultRecordWrite page s = commit s _
  unfold execFaultRecordWrite
  rw [hr]

variable {who : Who} {v : Word} {x p : Nat} (hw : who.root = true) (hx : x = v.toNat % 2 ^ 32) (hp : p = faultPage d)
include hw hx hp

/-- R442: the read pointer moves forward only and never past the write pointer. -/
theorem faultLogRdWrite_does : Does (.faultLogRdWrite who d v) s
    (if (x + 2 ^ 32 - s.fld (p + 0x104) 0 32) % 2 ^ 32 ≤ (s.fld (p + 0x100) 0 32 + 2 ^ 32 - s.fld (p + 0x104) 0 32) % 2 ^ 32
      then s.setReg (p + 0x104) (w64 x) else s) := by
  show commit s (writeLogRd who d v s).1 = commit s _
  unfold writeLogRd
  rw [rootOnly_ok hw, hx, hp]
  rfl

/-- R443: a write of the index copies the record it names, where there is one. -/
theorem faultLogIdxWrite_does : Does (.faultLogIdxWrite who d v) s
    { (s.setReg (p + 0x108) (w64 x)).setReg (p + 0x10C) (if (s.logRecord d x).isSome then 1 else 2) with
      logLatch := s.logLatch.set d (s.logRecord d x) } := by
  show commit s (writeLogIdx who d v s).1 = commit s _
  unfold writeLogIdx
  rw [rootOnly_ok hw, hx, hp]
  rfl

end

end Sys2Proof.Machine

namespace Sys2Proof

open Machine

/-- Settles O51: register writes by their domain, header writes by their writer, and the log by its pointers. -/
theorem registersAndFaultLog : Obligations.RegistersAndFaultLog := by
  unfold Obligations.RegistersAndFaultLog
  intro s who a n page v d
  refine ⟨fun hon hz => does_of_crossed (registerWrite_exec hon) hz rfl, fun hon w hz => ?_, writeAt_denied,
    fun hw hp hz => ?_, fun hw hp hz c hc => ?_, fun r rest hr hd => faultRecordWrite_does hr hd,
    fun hw x hx p hp => ⟨fun hin => ?_, fun hpast => ?_, fun r hr => ?_, fun hnone => ?_⟩⟩
  · show exec _ s = commit s _
    rw [registerWrite_exec hon, crossed_asleep hz]
  · obtain ⟨hz0, hz1, hz2⟩ := header_awake hz
    refine ⟨fun hheld hviol => ?_, fun hfree hviol => ?_, ?_, ?_, fun hpage hack => ?_⟩
    · exact does_of_crossed (blkLockWrite_exec hp) hz0 ((writeLock_keep hw hviol).trans (if_pos hheld))
    · exact does_of_crossed (blkLockWrite_exec hp) hz0 ((writeLock_keep hw hviol).trans (if_neg (Bool.eq_false_iff.mp hfree)))
    · refine does_of_crossed (blkCtrlFreeze_exec hp) hz1 ((writeBlkCtrl_root hw).trans ?_)
      rw [bitF0, bitF1, if_neg Bool.false_ne_true]
    · refine does_of_crossed (blkCtrlClear_exec hp) hz1 ((writeBlkCtrl_root hw).trans ?_)
      rw [bitC0, bitC1, if_pos rfl]
    · exact does_of_crossed (blkIrqClear_exec hp) hz2 (writeIrqStatus_ack hw hpage hack)
  · obtain ⟨hz0, hz1, hz2⟩ := header_awake hz
    simp only [List.mem_cons, List.not_mem_nil, or_false] at hc
    rcases hc with rfl | rfl | rfl | rfl
    · exact does_of_crossed (blkLockWrite_exec hp) hz0 (congrArg Prod.fst (rootOnly_refused hw))
    · exact does_of_crossed (blkCtrlFreeze_exec hp) hz1 (congrArg Prod.fst (rootOnly_refused hw))
    · exact does_of_crossed (blkCtrlClear_exec hp) hz1 (congrArg Prod.fst (rootOnly_refused hw))
    · exact does_of_crossed (blkIrqClear_exec hp) hz2 (congrArg Prod.fst (rootOnly_refused hw))
  · have hdoes := faultLogRdWrite_does (s := s) hw hx hp
    rwa [if_pos hin] at hdoes
  · have hdoes := faultLogRdWrite_does (s := s) hw hx hp
    rwa [if_neg (Nat.not_le.mpr hpast)] at hdoes
  · have hdoes := faultLogIdxWrite_does (s := s) hw hx hp
    rwa [hr] at hdoes
  · have hdoes := faultLogIdxWrite_does (s := s) hw hx hp
    rwa [hnone] at hdoes

end Sys2Proof
end

section
/-!
PROOFS. What a register write changes by its fields' access codes (R432), and what reset leaves.
-/

namespace Sys2Proof.Machine

/-! ### A field's access code -/

section
variable {f : Field} {locked : Bool} {v x : Nat}

/-- R432: a field that software does not write keeps its value. -/
theorem Field.write_readOnly (h : f.acc = .ro ∨ f.acc = .ros ∨ f.acc = .wo) : f.write locked v x = x := by
  unfold Field.write
  rcases h with h | h | h <;> rw [h]

theorem Field.write_locked (h : f.acc = .rwl) : f.write true v x = x := by
  unfold Field.write
  rw [h]
  exact if_neg (by simp)

/-- R432: a field that software may write now takes what its range admits. -/
theorem Field.write_open (h : f.acc = .rw ∨ (f.acc = .rwl ∧ locked = false)) :
    f.write locked v x = if f.admits v then setBits x f.lo f.n (bits v f.lo f.n) else x := by
  unfold Field.write
  rcases h with h | ⟨h, rfl⟩
  · rw [h]
  · rw [h]
    dsimp only
    rw [Bool.not_false, Bool.and_true]

theorem Field.admits_of_free (h : f.range = none) : f.admits v = true := by
  unfold Field.admits
  rw [h]

theorem Field.admits_iff {a b : Nat} (h : f.range = some (a, b)) :
    f.admits v = true ↔ a ≤ bits v f.lo f.n ∧ bits v f.lo f.n ≤ b := by
  unfold Field.admits
  rw [h]
  simp

theorem bits_lt (x lo n : Nat) : bits x lo n < 2 ^ n := Nat.mod_lt _ (Nat.two_pow_pos n)

/-- R432: a write-one-to-clear field clears the bits written 1. -/
theorem Field.write_clears (h : f.acc = .rw1c) {j : Nat} (hlo : f.lo ≤ j) (hhi : j < f.lo + f.n) :
    (f.write locked v x).testBit j = (x.testBit j && !v.testBit j) := by
  have hj : j - f.lo < f.n := by omega
  have hback : f.lo + (j - f.lo) = j := by omega
  have hmask : 2 ^ f.n - 1 - bits v f.lo f.n = 2 ^ f.n - (bits v f.lo f.n + 1) := by omega
  unfold Field.write
  rw [h]
  dsimp only
  rw [setBits_testBit, if_pos ⟨hlo, hhi⟩, Nat.testBit_and, hmask, Nat.testBit_two_pow_sub_succ (bits_lt v f.lo f.n), bits_testBit,
    bits_testBit, hback]
  simp [hj]

end

end Sys2Proof.Machine

namespace Sys2Proof

open Machine

/-- Settles O56: a field's write by its access code. -/
theorem fieldWrites : Obligations.FieldWrites := by
  unfold Obligations.FieldWrites
  intro f locked v x
  refine ⟨fun j hj => Field.write_outside f locked v x j hj, Field.write_readOnly, fun h hl => hl ▸ Field.write_locked h,
    fun h => ⟨fun hno => ?_, fun hyes => ?_⟩, Field.admits_of_free, fun a b => Field.admits_iff,
    fun h j => Field.write_clears h⟩
  · rw [Field.write_open h, if_neg (Bool.eq_false_iff.mp hno)]
  · rw [Field.write_open h, if_pos hyes, bits_setBits]
    exact Nat.mod_eq_of_lt (bits_lt v f.lo f.n)

/-- Settles O57: the register tables are read at reset, die by die. -/
theorem resetState : Obligations.ResetState := by
  unfold Obligations.ResetState
  refine ⟨⟨rfl, rfl⟩, rfl, rfl, rfl, rfl, rfl, rfl, rfl, rfl, fun d => ?_⟩
  cases d
  · decide
  · decide

end Sys2Proof
end

section
/-!
PROOFS. Writes of registers in a stopped domain (R34, R395, R429, R432).
-/

namespace Sys2Proof.Machine

/-- The command makes a register write that crosses to the register's domain (R34). -/
def Crosses (c : Instr) (who : Who) (off size : Nat) (x : Word) (s : State) : Prop :=
  ∃ k, exec c s = commit s (crossed who off size x k s)

section
variable {s : State} {who : Who} {d : Die} {n p k : Nat} {v : Word}

/-- R34, R395: a write that crosses to a stopped domain wakes it and is held behind those already held. -/
theorem Crosses.does_held {c : Instr} {off size : Nat} {x : Word} {w : Die} (hc : Crosses c who off size x s)
    (hw : s.regSleeps off = some w) : Does c s { s.wakeDie w with held := s.held ++ [.regWrite who off size x] } := by
  obtain ⟨k, hk⟩ := hc
  show exec c s = commit s _
  rw [hk, crossed_asleep hw]

theorem schedRingTailWrite_crosses (hn : n < 64) :
    Crosses (.schedRingTailWrite who d n k) who (schedPage d + 0x100 + n * 0x20 + 0x14) 4 (w64 k) s :=
  ⟨_, congrArg (commit s) (if_neg (Nat.not_le.mpr hn))⟩

theorem schedTlbInval_crosses (hk : k ≤ 1) : Crosses (.schedTlbInval who d k v) who (schedPage d + 0x990 + 8 * k) 8 v s :=
  ⟨_, congrArg (commit s) (if_neg (Nat.not_lt.mpr hk))⟩

theorem schedPartCfgWrite_crosses (hp : p < 16) (hn : n ∈ [0x0, 0x4]) :
    Crosses (.schedPartCfgWrite who d (0xC00 + p * 0x40 + n) k) who (schedPage d + (0xC00 + p * 0x40 + n)) 4 (w64 k) s := by
  simp only [List.mem_cons, List.not_mem_nil, or_false] at hn
  have hin : ¬ (0xC00 + p * 0x40 + n < 0xC00 ∨ 0x1000 ≤ 0xC00 + p * 0x40 + n) := by omega
  have hoff : (0xC00 + p * 0x40 + n - 0xC00) % 0x40 = n := by omega
  unfold Crosses
  show ∃ j, execSchedPartCfgWrite who d (0xC00 + p * 0x40 + n) k s = commit s (crossed who _ 4 (w64 k) j s)
  unfold execSchedPartCfgWrite
  dsimp only
  rw [if_neg hin, hoff]
  rcases hn with hn | hn
  · exact ⟨_, congrArg (commit s) (if_pos hn)⟩
  · exact ⟨_, congrArg (commit s) ((if_neg (by omega)).trans (if_pos hn))⟩

theorem vlRetrain_crosses (hn : n < 24) : Crosses (.vlRetrain who n v) who (portPage n + 0x100) 4 (v ||| 2) s :=
  ⟨_, congrArg (commit s) (if_neg (Nat.not_le.mpr hn))⟩

theorem vlEnableWrite_crosses (hn : n < 24) : Crosses (.vlEnableWrite who n v) who (portPage n + 0x100) 4 v s :=
  ⟨_, congrArg (commit s) (if_neg (Nat.not_le.mpr hn))⟩

theorem vlGUnitsWrite_crosses (hn : n < 24) (hp : p < 16) :
    Crosses (.vlGUnitsWrite who n p v) who (portPage n + 0x140 + p * 4) 4 v s :=
  ⟨_, congrArg (commit s) (if_neg (by omega))⟩

end

end Sys2Proof.Machine

namespace Sys2Proof

open Machine

/-- Settles O58: every row's write crosses to its register's domain, and one that meets a stopped domain is held. -/
theorem writesHeldAtCrossings : Obligations.WritesHeldAtCrossings := by
  unfold Obligations.WritesHeldAtCrossings
  intro s who d w n p k v c off size x hw hc
  refine Crosses.does_held ?_ hw
  rcases hc with hplain | ⟨hn, hrow⟩ | ⟨hk, hrow⟩ | ⟨hp, hn, hrow⟩ | ⟨hn, hport⟩ | ⟨hn, hp, hrow⟩ | ⟨hp, hheader⟩
  · simp only [List.mem_cons, Prod.mk.injEq, List.not_mem_nil, or_false] at hplain
    rcases hplain with h | h | h | h | h | h | h | h | h | h | h | h | h | h | h | h | h | h | h | h | h | h | h <;>
      obtain ⟨rfl, rfl, rfl, rfl⟩ := h <;> exact ⟨_, rfl⟩
  · cases hrow
    exact schedRingTailWrite_crosses hn
  · cases hrow
    exact schedTlbInval_crosses hk
  · cases hrow
    exact schedPartCfgWrite_crosses hp hn
  · simp only [List.mem_cons, Prod.mk.injEq, List.not_mem_nil, or_false] at hport
    rcases hport with ⟨rfl, rfl, rfl, rfl⟩ | ⟨rfl, rfl, rfl, rfl⟩
    · exact vlRetrain_crosses hn
    · exact vlEnableWrite_crosses hn
  · cases hrow
    exact vlGUnitsWrite_crosses hn hp
  · simp only [List.mem_cons, Prod.mk.injEq, List.not_mem_nil, or_false] at hheader
    rcases hheader with ⟨rfl, rfl, rfl, rfl⟩ | ⟨rfl, rfl, rfl, rfl⟩ | ⟨rfl, rfl, rfl, rfl⟩ | ⟨rfl, rfl, rfl, rfl⟩
    · exact ⟨_, blkLockWrite_exec hp⟩
    · exact ⟨_, blkCtrlFreeze_exec hp⟩
    · exact ⟨_, blkCtrlClear_exec hp⟩
    · exact ⟨_, blkIrqClear_exec hp⟩

end Sys2Proof
end
